-- ==== Sys2Proof/Word.lean ====
section
/-! DEFINITION. The words of the machine: scalar registers, bytes, instruction words, vector registers (spec 01 R19, 03 R77). -/

namespace Sys2Proof

/-- A scalar register, a control register, an argument word: 64 bits (R19). -/
abbrev Word := BitVec 64

/-- The smallest addressable unit of memory and of scratch (R13). -/
abbrev Byte := BitVec 8

/-- An instruction word (R77). -/
abbrev IWord := BitVec 16

/-- A vector register (R19). -/
abbrev VReg := BitVec 512

end Sys2Proof
end

