-- ==== Sys2Proof/Machine/Bits.lean ====
section
/-! DEFINITION. The helpers of spec 00 R16 over bits and integers, little-endian bytes (R13), keyed tables and byte memories. -/

namespace Sys2Proof.Machine

/-- R16 `v[hi:lo]`: bits hi to lo of v. -/
def bitsOf (v hi lo : Nat) : Nat := (v >>> lo) % 2 ^ (hi + 1 - lo)

/-- One bit of v. -/
def bitOf (v i : Nat) : Bool := v.testBit i

/-- R16 `wrap(v, bits)`: v modulo 2^bits. -/
def wrapInt (v : Int) (bits : Nat) : Nat := (v % (2 ^ bits : Nat)).toNat

/-- R16 `sext(v, bits)`: the two's-complement value of the low bits of v. -/
def sextNat (v bits : Nat) : Int :=
  let u := v % 2 ^ bits
  if bits = 0 then 0 else if 2 ^ (bits - 1) ≤ u then (u : Int) - (2 ^ bits : Nat) else u

/-- R16 `sat(v, lo, hi)`. -/
def satInt (v lo hi : Int) : Int := if v < lo then lo else if hi < v then hi else v

/-- The word that holds an integer modulo 2^64. -/
def wordOfInt (v : Int) : Word := BitVec.ofInt 64 v

/-- The field of a word as a number. -/
def field (w : Word) (hi lo : Nat) : Nat := bitsOf w.toNat hi lo

/-- Whether two byte ranges share a byte. -/
def overlaps (a n b m : Nat) : Bool := a < b + m && b < a + n && n != 0 && m != 0

/-- n rounded up to a multiple of k. -/
def roundUp (n k : Nat) : Nat := (n + k - 1) / k * k

/-- The quotient rounded up. -/
def ceilDiv (n k : Nat) : Nat := (n + k - 1) / k

/-- The k bytes of v, least significant first (R13). -/
def leBytes (v : Nat) : Nat → List Byte
  | 0 => []
  | k + 1 => BitVec.ofNat 8 v :: leBytes (v / 256) k

/-- The value of bytes stored least significant first (R13). -/
def leValue : List Byte → Nat
  | [] => 0
  | b :: bs => b.toNat + 256 * leValue bs

/-- Groups of n values, the last one possibly shorter; `fuel` bounds the number of groups. -/
def chunksOf {α : Type} (n : Nat) (l : List α) (fuel : Nat) : List (List α) :=
  match fuel with
  | 0 => []
  | fuel + 1 => if l.isEmpty then [] else l.take n :: chunksOf n (l.drop n) fuel

/-- A value repeatedly changed. -/
def iterate {α : Type} (f : α → α) : Nat → α → α
  | 0, x => x
  | n + 1, x => iterate f n (f x)

/-- The first of the numbers below n that satisfies p. -/
def firstBelow (p : Nat → Bool) (n : Nat) : Option Nat := (List.range n).find? p

/-- Insertion into a list kept in order by a comparison; equal elements keep their order of arrival. -/
def insertBy {α : Type} (before : α → α → Bool) (x : α) : List α → List α
  | [] => [x]
  | y :: ys => if before x y then x :: y :: ys else y :: insertBy before x ys

/-- A stable sort by a comparison. -/
def sortBy {α : Type} (before : α → α → Bool) (l : List α) : List α :=
  l.foldl (fun acc x => insertBy before x acc) []

/-! Keyed tables: lists of key and value with strictly rising keys. -/

/-- A table from numbers to values, keys strictly rising. -/
abbrev KMap (α : Type) := List (Nat × α)

/-- The value at a key. -/
def kget {α : Type} (m : KMap α) (k : Nat) : Option α :=
  match m with
  | [] => none
  | (j, v) :: rest => if j = k then some v else kget rest k

/-- The table with a value put at a key. -/
def kset {α : Type} (m : KMap α) (k : Nat) (v : α) : KMap α :=
  match m with
  | [] => [(k, v)]
  | (j, u) :: rest =>
    if k < j then (k, v) :: (j, u) :: rest
    else if j = k then (k, v) :: rest
    else (j, u) :: kset rest k v

/-- The table without a key. -/
def kdel {α : Type} (m : KMap α) (k : Nat) : KMap α :=
  match m with
  | [] => []
  | (j, u) :: rest => if j = k then kdel rest k else (j, u) :: kdel rest k

/-- The value at a key, or a default. -/
def kgetD {α : Type} (m : KMap α) (k : Nat) (d : α) : α := (kget m k).getD d

/-- The places at which two tables differ, with the value of each; the first argument bounds the number of keys of both. -/
def kdiff {α : Type} [DecidableEq α] (d : α) : Nat → KMap α → KMap α → List (Nat × α × α)
  | 0, _, _ => []
  | _ + 1, [], [] => []
  | n + 1, (i, x) :: a, [] => (i, x, d) :: kdiff d n a []
  | n + 1, [], (j, y) :: b => (j, d, y) :: kdiff d n [] b
  | n + 1, (i, x) :: a, (j, y) :: b =>
    if i < j then (i, x, d) :: kdiff d n a ((j, y) :: b)
    else if j < i then (j, d, y) :: kdiff d n ((i, x) :: a) b
    else if x = y then kdiff d n a b else (i, x, y) :: kdiff d n a b

/-! Byte memories: lists of cells with strictly rising addresses and no cell equal to what an unlisted address reads as. -/

/-- A byte memory. What an unlisted address reads as is `memDefault`. -/
abbrev Mem := List Host.Cell

/-- What a byte that nothing has written reads as. SRAM reads 0 after a reset (spec 13 R292, 15 R419); for DRAM the spec gives
no contents at power-on and 0 is a DESIGN CHOICE, unsafe (log entry 4). -/
def memDefault : Byte := 0#8

/-- The byte at an address. -/
def memGet (m : Mem) (a : Nat) : Byte :=
  match m with
  | [] => memDefault
  | (j, v) :: rest => if j = a then v else memGet rest a

/-- A cell list with a cell put in at its place, unless it holds the default. -/
def memCons (a : Nat) (v : Byte) (m : Mem) : Mem := if v = memDefault then m else (a, v) :: m

/-- The memory with one byte written; the canonical form is kept. -/
def memSet (m : Mem) (a : Nat) (v : Byte) : Mem :=
  match m with
  | [] => memCons a v []
  | (j, u) :: rest =>
    if a < j then memCons a v ((j, u) :: rest)
    else if j = a then memCons a v rest
    else (j, u) :: memSet rest a v

/-- n bytes from an address upwards. -/
def memGetBytes (m : Mem) (a : Nat) : Nat → List Byte
  | 0 => []
  | n + 1 => memGet m a :: memGetBytes m (a + 1) n

/-- The memory with bytes written from an address upwards. -/
def memSetBytes (m : Mem) (a : Nat) : List Byte → Mem
  | [] => m
  | b :: bs => memSetBytes (memSet m a b) (a + 1) bs

/-- The little-endian value of n bytes at an address. -/
def memGetN (m : Mem) (a n : Nat) : Nat := leValue (memGetBytes m a n)

/-- The memory with the low n bytes of a value written at an address, little-endian. -/
def memSetN (m : Mem) (a n v : Nat) : Mem := memSetBytes m a (leBytes v n)

/-- Whether the addresses of a cell list rise strictly from a bound on and no cell holds the default. -/
def memWfFrom (lo : Nat) (m : Mem) : Bool :=
  match m with
  | [] => true
  | (j, v) :: rest => decide (lo ≤ j) && decide (v ≠ memDefault) && memWfFrom (j + 1) rest

/-- The canonical form of a byte memory. -/
def memWf (m : Mem) : Bool := memWfFrom 0 m

/-- The memory without the cells of an address range (they then read as the default). -/
def memClear (m : Mem) (a n : Nat) : Mem := m.filter (fun c => decide (c.1 < a) || decide (a + n ≤ c.1))

end Sys2Proof.Machine
end

