-- ==== Sys2Proof/Bundle.lean ====
section
/-! DEFINITION. A bundle (spec 03 R77 to R87): the fields of an instruction word together with the words of its chain,
pulled apart once by the decoder. Which of the eleven forms reads which field is a matter of Op.lean and of Machine/Operands.lean. -/

namespace Sys2Proof

/-- The payload of an RGX word (R78): the third register field, bit 5 of fields a and b, the hold bits of positions a, b, c. -/
structure Rgx where
  c : BitVec 5
  a5 : Bool
  b5 : Bool
  hold : BitVec 3
  deriving DecidableEq, Repr

/-- The payload of a QLX word (R78): predicate, complement, scope, ordering, flag. -/
structure Qlx where
  pred : BitVec 3
  neg : Bool
  scope : BitVec 3
  ord : BitVec 2
  flag : Bool
  deriving DecidableEq, Repr

/-- A bundle without its page and opcode slot, which the constructor of `Instr` names. `imx` holds the IMX payloads in
chain order; `pgx` says that a PGX word is present (with the page of the instruction as its payload). -/
structure Bundle where
  a : BitVec 5
  b : BitVec 5
  imx : List (BitVec 10)
  rgx : Option Rgx
  qlx : Option Qlx
  pgx : Bool
  deriving DecidableEq, Repr

/-- A bundle of one word with fields a and b (R77). -/
def Bundle.plain (a b : BitVec 5) : Bundle :=
  { a := a, b := b, imx := [], rgx := none, qlx := none, pgx := false }

/-- How many words of the chain stand before the instruction word (R79). -/
def Bundle.chainLength (b : Bundle) : Nat :=
  b.imx.length + (if b.rgx.isSome then 1 else 0) + (if b.qlx.isSome then 1 else 0) + (if b.pgx then 1 else 0)

/-- The QLX fields of a bundle; without QLX the payload is 0 (R87). -/
def Bundle.qual (b : Bundle) : Qlx :=
  b.qlx.getD { pred := 0#3, neg := false, scope := 0#3, ord := 0#2, flag := false }

/-- Why a run of words is no legal bundle (R79, R88): the reason RESERVED_ENCODING names. -/
inductive BadBundle where
  | fiveChainWords
  | secondRgx
  | secondPgx
  | secondQlx
  | undefinedPage
  | unassignedSlot
  deriving DecidableEq, Repr

end Sys2Proof
end

