-- ==== Sys2Proof/Op.lean ====
section
/-! DEFINITION. The opcode map of spec 03 R88 to R94: for each encoded instruction its page, its slot, its form (R83) and the
profiles (R8) that execute it. -/

namespace Sys2Proof

/-- The eleven forms of R83. -/
inductive Form where
  | O | D | S | I | K | C | J | M | MS | X | A
  deriving DecidableEq, Repr

/-- The instruction profiles of R8 (S, the service cores' own, is not open to programs). -/
inductive Profile where
  | F | L | K | G
  deriving DecidableEq, Repr

/-- The sets of profiles that the map's column lists (R88). -/
inductive ProfileSet where
  | FLKG | FLG | FL | F
  deriving DecidableEq, Repr

/-- The encoded instructions, one name per assigned slot of the map (R89 to R94). -/
inductive Op where
  | add | sub | and | or | xor | andn | shl | shr | sar | mul | mulh | div | rem | min | max | mov | li 
  | lih | addi | cmpeq | cmpne | cmplt | cmpltn | cmple | sel | lea | clz | popc | sext | zext | b | bz 
  | bnz | beq | bne | blt | bge | bltn | call | ret | jr | loop | ld | st | ldf | stf | lsp | ssp | vadd 
  | vmul | vfma | vld | vst | vbcast | lead | follow | detach | wait | claim | release | vaddP1 | vsub 
  | vmulP1 | vfmaP1 | vfms | vfnma | vmin | vmax | vabs | vneg | vdiv | vsqrt | vrcp | vrsq | vexp2 | vlog2 
  | vtanh | viadd | visub | vimul | vimad | vand | vor | vxor | vshl | vshr | vsar | vcmp | vsel | vcvt 
  | vqnt | vdqnt | vbpn | vbpj | vext | vins | vperm | vslide | vzip | vunzip | vredsum | vredmax | vredmin 
  | vscan | vchadd | vchmax | vchst | kand | kor | kxor | knot | kpopc | kmov | kffs | mulhn | divn | remn 
  | minn | maxn | ctz | rol | bgen | cmplen | mstat | mswap | mstream | mstreamt | mf64 | mbpn4 | mbpn8 
  | mzero | mrd | mwr | macs | msac | mtest | rtab | rank | rankch | rstream | rstreamch | rrecon | ldsx 
  | aadd | amin | amax | aminn | amaxn | aand | aor | axor | aswp | acas | afadd | ahnd | fence | spawn 
  | succ | relev | endTask | getid | tmr | migr | send | reply | cmask | cunmask | chbind | arrive | bwait 
  | cpy | cpyx | cpytst | lxload | coll | uepost | uepop | ctrw | vlds | vsts | vgather | baddq | vscatter 
  | trap | eret | getc | setc | rdtime | fencei | brk | idle
  deriving DecidableEq, Repr

/-- One row of the opcode map: page, op6, name, form, profiles. -/
structure OpRow where
  page : Nat
  op6 : Nat
  op : Op
  form : Form
  prof : ProfileSet
  deriving DecidableEq, Repr

/-- Page 0 of the opcode map, slots 0 to 29 (R89). -/
def opRows0a : List OpRow :=
  [ ⟨0, 0, .add, .S, .FLKG⟩,
    ⟨0, 1, .sub, .S, .FLKG⟩,
    ⟨0, 2, .and, .S, .FLKG⟩,
    ⟨0, 3, .or, .S, .FLKG⟩,
    ⟨0, 4, .xor, .S, .FLKG⟩,
    ⟨0, 5, .andn, .S, .FLKG⟩,
    ⟨0, 6, .shl, .S, .FLKG⟩,
    ⟨0, 7, .shr, .S, .FLKG⟩,
    ⟨0, 8, .sar, .S, .FLKG⟩,
    ⟨0, 9, .mul, .S, .FLKG⟩,
    ⟨0, 10, .mulh, .S, .FLKG⟩,
    ⟨0, 11, .div, .S, .FLKG⟩,
    ⟨0, 12, .rem, .S, .FLKG⟩,
    ⟨0, 13, .min, .S, .FLKG⟩,
    ⟨0, 14, .max, .S, .FLKG⟩,
    ⟨0, 15, .mov, .S, .FLKG⟩,
    ⟨0, 16, .li, .I, .FLKG⟩,
    ⟨0, 17, .lih, .I, .FLKG⟩,
    ⟨0, 18, .addi, .I, .FLKG⟩,
    ⟨0, 19, .cmpeq, .S, .FLKG⟩,
    ⟨0, 20, .cmpne, .S, .FLKG⟩,
    ⟨0, 21, .cmplt, .S, .FLKG⟩,
    ⟨0, 22, .cmpltn, .S, .FLKG⟩,
    ⟨0, 23, .cmple, .S, .FLKG⟩,
    ⟨0, 24, .sel, .S, .FLKG⟩,
    ⟨0, 25, .lea, .S, .FLKG⟩,
    ⟨0, 26, .clz, .S, .FLKG⟩,
    ⟨0, 27, .popc, .S, .FLKG⟩,
    ⟨0, 28, .sext, .I, .FLKG⟩,
    ⟨0, 29, .zext, .I, .FLKG⟩ ]

/-- Page 0 of the opcode map, slots 30 to 59 (R89). -/
def opRows0b : List OpRow :=
  [ ⟨0, 30, .b, .J, .FLKG⟩,
    ⟨0, 31, .bz, .K, .FLKG⟩,
    ⟨0, 32, .bnz, .K, .FLKG⟩,
    ⟨0, 33, .beq, .C, .FLKG⟩,
    ⟨0, 34, .bne, .C, .FLKG⟩,
    ⟨0, 35, .blt, .C, .FLKG⟩,
    ⟨0, 36, .bge, .C, .FLKG⟩,
    ⟨0, 37, .bltn, .C, .FLKG⟩,
    ⟨0, 38, .call, .J, .FLKG⟩,
    ⟨0, 39, .ret, .O, .FLKG⟩,
    ⟨0, 40, .jr, .D, .FLKG⟩,
    ⟨0, 41, .loop, .K, .FLKG⟩,
    ⟨0, 42, .ld, .M, .FLKG⟩,
    ⟨0, 43, .st, .M, .FLKG⟩,
    ⟨0, 44, .ldf, .M, .FLKG⟩,
    ⟨0, 45, .stf, .M, .FLKG⟩,
    ⟨0, 46, .lsp, .MS, .FLG⟩,
    ⟨0, 47, .ssp, .MS, .FLG⟩,
    ⟨0, 48, .vadd, .S, .FLG⟩,
    ⟨0, 49, .vmul, .S, .FLG⟩,
    ⟨0, 50, .vfma, .S, .FLG⟩,
    ⟨0, 51, .vld, .M, .FLG⟩,
    ⟨0, 52, .vst, .M, .FLG⟩,
    ⟨0, 53, .vbcast, .S, .FLG⟩,
    ⟨0, 54, .lead, .J, .FL⟩,
    ⟨0, 55, .follow, .J, .FL⟩,
    ⟨0, 56, .detach, .O, .FL⟩,
    ⟨0, 57, .wait, .J, .FLKG⟩,
    ⟨0, 58, .claim, .J, .FLKG⟩,
    ⟨0, 59, .release, .J, .FLKG⟩ ]

/-- Page 1 of the opcode map, slots 0 to 28 (R90). -/
def opRows1a : List OpRow :=
  [ ⟨1, 0, .vaddP1, .S, .FLG⟩,
    ⟨1, 1, .vsub, .S, .FLG⟩,
    ⟨1, 2, .vmulP1, .S, .FLG⟩,
    ⟨1, 3, .vfmaP1, .S, .FLG⟩,
    ⟨1, 4, .vfms, .S, .FLG⟩,
    ⟨1, 5, .vfnma, .S, .FLG⟩,
    ⟨1, 6, .vmin, .S, .FLG⟩,
    ⟨1, 7, .vmax, .S, .FLG⟩,
    ⟨1, 8, .vabs, .S, .FLG⟩,
    ⟨1, 9, .vneg, .S, .FLG⟩,
    ⟨1, 10, .vdiv, .S, .FLG⟩,
    ⟨1, 11, .vsqrt, .S, .FLG⟩,
    ⟨1, 12, .vrcp, .S, .FLG⟩,
    ⟨1, 13, .vrsq, .S, .FLG⟩,
    ⟨1, 14, .vexp2, .S, .FLG⟩,
    ⟨1, 15, .vlog2, .S, .FLG⟩,
    ⟨1, 16, .vtanh, .S, .FLG⟩,
    ⟨1, 17, .viadd, .S, .FLG⟩,
    ⟨1, 18, .visub, .S, .FLG⟩,
    ⟨1, 19, .vimul, .S, .FLG⟩,
    ⟨1, 20, .vimad, .S, .FLG⟩,
    ⟨1, 21, .vand, .S, .FLG⟩,
    ⟨1, 22, .vor, .S, .FLG⟩,
    ⟨1, 23, .vxor, .S, .FLG⟩,
    ⟨1, 24, .vshl, .S, .FLG⟩,
    ⟨1, 25, .vshr, .S, .FLG⟩,
    ⟨1, 26, .vsar, .S, .FLG⟩,
    ⟨1, 27, .vcmp, .S, .FLG⟩,
    ⟨1, 28, .vsel, .S, .FLG⟩ ]

/-- Page 2 of the opcode map, slots 0 to 29 (R91). -/
def opRows2a : List OpRow :=
  [ ⟨2, 0, .vcvt, .S, .FLG⟩,
    ⟨2, 1, .vqnt, .S, .FLG⟩,
    ⟨2, 2, .vdqnt, .S, .FLG⟩,
    ⟨2, 3, .vbpn, .S, .FLG⟩,
    ⟨2, 4, .vbpj, .S, .FLG⟩,
    ⟨2, 5, .vext, .S, .FLG⟩,
    ⟨2, 6, .vins, .S, .FLG⟩,
    ⟨2, 7, .vperm, .S, .FLG⟩,
    ⟨2, 8, .vslide, .S, .FLG⟩,
    ⟨2, 9, .vzip, .S, .FLG⟩,
    ⟨2, 10, .vunzip, .S, .FLG⟩,
    ⟨2, 11, .vredsum, .S, .FLG⟩,
    ⟨2, 12, .vredmax, .S, .FLG⟩,
    ⟨2, 13, .vredmin, .S, .FLG⟩,
    ⟨2, 14, .vscan, .S, .FLG⟩,
    ⟨2, 15, .vchadd, .S, .FLG⟩,
    ⟨2, 16, .vchmax, .S, .FLG⟩,
    ⟨2, 17, .vchst, .S, .FLG⟩,
    ⟨2, 18, .kand, .S, .FLG⟩,
    ⟨2, 19, .kor, .S, .FLG⟩,
    ⟨2, 20, .kxor, .S, .FLG⟩,
    ⟨2, 21, .knot, .S, .FLG⟩,
    ⟨2, 22, .kpopc, .S, .FLG⟩,
    ⟨2, 23, .kmov, .S, .FLG⟩,
    ⟨2, 24, .kffs, .S, .FLG⟩,
    ⟨2, 25, .mulhn, .S, .FLKG⟩,
    ⟨2, 26, .divn, .S, .FLKG⟩,
    ⟨2, 27, .remn, .S, .FLKG⟩,
    ⟨2, 28, .minn, .S, .FLKG⟩,
    ⟨2, 29, .maxn, .S, .FLKG⟩ ]

/-- Page 2 of the opcode map, slots 30 to 33 (R91). -/
def opRows2b : List OpRow :=
  [ ⟨2, 30, .ctz, .S, .FLKG⟩,
    ⟨2, 31, .rol, .S, .FLKG⟩,
    ⟨2, 32, .bgen, .S, .FLKG⟩,
    ⟨2, 33, .cmplen, .S, .FLKG⟩ ]

/-- Page 3 of the opcode map, slots 0 to 18 (R92). -/
def opRows3a : List OpRow :=
  [ ⟨3, 0, .mstat, .X, .FL⟩,
    ⟨3, 1, .mswap, .O, .FL⟩,
    ⟨3, 2, .mstream, .X, .FL⟩,
    ⟨3, 3, .mstreamt, .X, .FL⟩,
    ⟨3, 4, .mf64, .X, .F⟩,
    ⟨3, 5, .mbpn4, .X, .FL⟩,
    ⟨3, 6, .mbpn8, .X, .F⟩,
    ⟨3, 7, .mzero, .X, .FL⟩,
    ⟨3, 8, .mrd, .X, .FL⟩,
    ⟨3, 9, .mwr, .X, .FL⟩,
    ⟨3, 10, .macs, .X, .FL⟩,
    ⟨3, 11, .msac, .X, .FL⟩,
    ⟨3, 12, .mtest, .S, .FL⟩,
    ⟨3, 13, .rtab, .X, .FL⟩,
    ⟨3, 14, .rank, .X, .F⟩,
    ⟨3, 15, .rankch, .X, .F⟩,
    ⟨3, 16, .rstream, .X, .FL⟩,
    ⟨3, 17, .rstreamch, .X, .FL⟩,
    ⟨3, 18, .rrecon, .X, .FL⟩ ]

/-- Page 4 of the opcode map, slots 0 to 31 (R93). -/
def opRows4a : List OpRow :=
  [ ⟨4, 0, .ldsx, .M, .FLKG⟩,
    ⟨4, 1, .aadd, .A, .FLKG⟩,
    ⟨4, 2, .amin, .A, .FLKG⟩,
    ⟨4, 3, .amax, .A, .FLKG⟩,
    ⟨4, 4, .aminn, .A, .FLKG⟩,
    ⟨4, 5, .amaxn, .A, .FLKG⟩,
    ⟨4, 6, .aand, .A, .FLKG⟩,
    ⟨4, 7, .aor, .A, .FLKG⟩,
    ⟨4, 8, .axor, .A, .FLKG⟩,
    ⟨4, 9, .aswp, .A, .FLKG⟩,
    ⟨4, 10, .acas, .A, .FLKG⟩,
    ⟨4, 11, .afadd, .A, .FLKG⟩,
    ⟨4, 12, .ahnd, .A, .FLKG⟩,
    ⟨4, 14, .fence, .O, .FLKG⟩,
    ⟨4, 15, .spawn, .D, .FL⟩,
    ⟨4, 16, .succ, .S, .FLKG⟩,
    ⟨4, 17, .relev, .S, .FLKG⟩,
    ⟨4, 18, .endTask, .O, .FLKG⟩,
    ⟨4, 19, .getid, .D, .FLKG⟩,
    ⟨4, 20, .tmr, .S, .FLKG⟩,
    ⟨4, 21, .migr, .D, .FL⟩,
    ⟨4, 22, .send, .S, .FLKG⟩,
    ⟨4, 23, .reply, .S, .FLKG⟩,
    ⟨4, 24, .cmask, .J, .FL⟩,
    ⟨4, 25, .cunmask, .J, .FL⟩,
    ⟨4, 26, .chbind, .S, .FLKG⟩,
    ⟨4, 28, .arrive, .J, .FLG⟩,
    ⟨4, 29, .bwait, .I, .FLG⟩,
    ⟨4, 30, .cpy, .S, .FL⟩,
    ⟨4, 31, .cpyx, .S, .FL⟩ ]

/-- Page 4 of the opcode map, slots 32 to 42 (R93). -/
def opRows4b : List OpRow :=
  [ ⟨4, 32, .cpytst, .S, .FLG⟩,
    ⟨4, 33, .lxload, .D, .FL⟩,
    ⟨4, 34, .coll, .S, .FLG⟩,
    ⟨4, 35, .uepost, .S, .FLG⟩,
    ⟨4, 36, .uepop, .S, .FLG⟩,
    ⟨4, 37, .ctrw, .S, .FLG⟩,
    ⟨4, 38, .vlds, .MS, .FL⟩,
    ⟨4, 39, .vsts, .MS, .FL⟩,
    ⟨4, 40, .vgather, .S, .FL⟩,
    ⟨4, 41, .baddq, .S, .FLG⟩,
    ⟨4, 42, .vscatter, .S, .FL⟩ ]

/-- Page 5 of the opcode map, slots 0 to 7 (R94). -/
def opRows5a : List OpRow :=
  [ ⟨5, 0, .trap, .J, .FLKG⟩,
    ⟨5, 1, .eret, .O, .FL⟩,
    ⟨5, 2, .getc, .I, .FLKG⟩,
    ⟨5, 3, .setc, .I, .FLKG⟩,
    ⟨5, 4, .rdtime, .D, .FLKG⟩,
    ⟨5, 5, .fencei, .O, .FL⟩,
    ⟨5, 6, .brk, .J, .FLKG⟩,
    ⟨5, 7, .idle, .O, .FL⟩ ]

/-- The rows of one page; a page above 5 has none (R88). -/
def pageRows (page : Nat) : List OpRow :=
  match page with
  | 0 => opRows0a ++ opRows0b
  | 1 => opRows1a
  | 2 => opRows2a ++ opRows2b
  | 3 => opRows3a
  | 4 => opRows4a ++ opRows4b
  | 5 => opRows5a
  | _ => []

/-- The row that a page and a slot select, none for an unassigned slot. -/
def slotRow (page op6 : Nat) : Option OpRow :=
  (pageRows page).find? (fun r => r.op6 == op6)

/-- The instruction that a page and a slot select. -/
def slotOp (page op6 : Nat) : Option Op :=
  (slotRow page op6).map OpRow.op

/-- The map read by instruction: page, slot, form and profiles of each (R89 to R94). -/
def Op.row : Op → OpRow
  | .add => ⟨0, 0, .add, .S, .FLKG⟩
  | .sub => ⟨0, 1, .sub, .S, .FLKG⟩
  | .and => ⟨0, 2, .and, .S, .FLKG⟩
  | .or => ⟨0, 3, .or, .S, .FLKG⟩
  | .xor => ⟨0, 4, .xor, .S, .FLKG⟩
  | .andn => ⟨0, 5, .andn, .S, .FLKG⟩
  | .shl => ⟨0, 6, .shl, .S, .FLKG⟩
  | .shr => ⟨0, 7, .shr, .S, .FLKG⟩
  | .sar => ⟨0, 8, .sar, .S, .FLKG⟩
  | .mul => ⟨0, 9, .mul, .S, .FLKG⟩
  | .mulh => ⟨0, 10, .mulh, .S, .FLKG⟩
  | .div => ⟨0, 11, .div, .S, .FLKG⟩
  | .rem => ⟨0, 12, .rem, .S, .FLKG⟩
  | .min => ⟨0, 13, .min, .S, .FLKG⟩
  | .max => ⟨0, 14, .max, .S, .FLKG⟩
  | .mov => ⟨0, 15, .mov, .S, .FLKG⟩
  | .li => ⟨0, 16, .li, .I, .FLKG⟩
  | .lih => ⟨0, 17, .lih, .I, .FLKG⟩
  | .addi => ⟨0, 18, .addi, .I, .FLKG⟩
  | .cmpeq => ⟨0, 19, .cmpeq, .S, .FLKG⟩
  | .cmpne => ⟨0, 20, .cmpne, .S, .FLKG⟩
  | .cmplt => ⟨0, 21, .cmplt, .S, .FLKG⟩
  | .cmpltn => ⟨0, 22, .cmpltn, .S, .FLKG⟩
  | .cmple => ⟨0, 23, .cmple, .S, .FLKG⟩
  | .sel => ⟨0, 24, .sel, .S, .FLKG⟩
  | .lea => ⟨0, 25, .lea, .S, .FLKG⟩
  | .clz => ⟨0, 26, .clz, .S, .FLKG⟩
  | .popc => ⟨0, 27, .popc, .S, .FLKG⟩
  | .sext => ⟨0, 28, .sext, .I, .FLKG⟩
  | .zext => ⟨0, 29, .zext, .I, .FLKG⟩
  | .b => ⟨0, 30, .b, .J, .FLKG⟩
  | .bz => ⟨0, 31, .bz, .K, .FLKG⟩
  | .bnz => ⟨0, 32, .bnz, .K, .FLKG⟩
  | .beq => ⟨0, 33, .beq, .C, .FLKG⟩
  | .bne => ⟨0, 34, .bne, .C, .FLKG⟩
  | .blt => ⟨0, 35, .blt, .C, .FLKG⟩
  | .bge => ⟨0, 36, .bge, .C, .FLKG⟩
  | .bltn => ⟨0, 37, .bltn, .C, .FLKG⟩
  | .call => ⟨0, 38, .call, .J, .FLKG⟩
  | .ret => ⟨0, 39, .ret, .O, .FLKG⟩
  | .jr => ⟨0, 40, .jr, .D, .FLKG⟩
  | .loop => ⟨0, 41, .loop, .K, .FLKG⟩
  | .ld => ⟨0, 42, .ld, .M, .FLKG⟩
  | .st => ⟨0, 43, .st, .M, .FLKG⟩
  | .ldf => ⟨0, 44, .ldf, .M, .FLKG⟩
  | .stf => ⟨0, 45, .stf, .M, .FLKG⟩
  | .lsp => ⟨0, 46, .lsp, .MS, .FLG⟩
  | .ssp => ⟨0, 47, .ssp, .MS, .FLG⟩
  | .vadd => ⟨0, 48, .vadd, .S, .FLG⟩
  | .vmul => ⟨0, 49, .vmul, .S, .FLG⟩
  | .vfma => ⟨0, 50, .vfma, .S, .FLG⟩
  | .vld => ⟨0, 51, .vld, .M, .FLG⟩
  | .vst => ⟨0, 52, .vst, .M, .FLG⟩
  | .vbcast => ⟨0, 53, .vbcast, .S, .FLG⟩
  | .lead => ⟨0, 54, .lead, .J, .FL⟩
  | .follow => ⟨0, 55, .follow, .J, .FL⟩
  | .detach => ⟨0, 56, .detach, .O, .FL⟩
  | .wait => ⟨0, 57, .wait, .J, .FLKG⟩
  | .claim => ⟨0, 58, .claim, .J, .FLKG⟩
  | .release => ⟨0, 59, .release, .J, .FLKG⟩
  | .vaddP1 => ⟨1, 0, .vaddP1, .S, .FLG⟩
  | .vsub => ⟨1, 1, .vsub, .S, .FLG⟩
  | .vmulP1 => ⟨1, 2, .vmulP1, .S, .FLG⟩
  | .vfmaP1 => ⟨1, 3, .vfmaP1, .S, .FLG⟩
  | .vfms => ⟨1, 4, .vfms, .S, .FLG⟩
  | .vfnma => ⟨1, 5, .vfnma, .S, .FLG⟩
  | .vmin => ⟨1, 6, .vmin, .S, .FLG⟩
  | .vmax => ⟨1, 7, .vmax, .S, .FLG⟩
  | .vabs => ⟨1, 8, .vabs, .S, .FLG⟩
  | .vneg => ⟨1, 9, .vneg, .S, .FLG⟩
  | .vdiv => ⟨1, 10, .vdiv, .S, .FLG⟩
  | .vsqrt => ⟨1, 11, .vsqrt, .S, .FLG⟩
  | .vrcp => ⟨1, 12, .vrcp, .S, .FLG⟩
  | .vrsq => ⟨1, 13, .vrsq, .S, .FLG⟩
  | .vexp2 => ⟨1, 14, .vexp2, .S, .FLG⟩
  | .vlog2 => ⟨1, 15, .vlog2, .S, .FLG⟩
  | .vtanh => ⟨1, 16, .vtanh, .S, .FLG⟩
  | .viadd => ⟨1, 17, .viadd, .S, .FLG⟩
  | .visub => ⟨1, 18, .visub, .S, .FLG⟩
  | .vimul => ⟨1, 19, .vimul, .S, .FLG⟩
  | .vimad => ⟨1, 20, .vimad, .S, .FLG⟩
  | .vand => ⟨1, 21, .vand, .S, .FLG⟩
  | .vor => ⟨1, 22, .vor, .S, .FLG⟩
  | .vxor => ⟨1, 23, .vxor, .S, .FLG⟩
  | .vshl => ⟨1, 24, .vshl, .S, .FLG⟩
  | .vshr => ⟨1, 25, .vshr, .S, .FLG⟩
  | .vsar => ⟨1, 26, .vsar, .S, .FLG⟩
  | .vcmp => ⟨1, 27, .vcmp, .S, .FLG⟩
  | .vsel => ⟨1, 28, .vsel, .S, .FLG⟩
  | .vcvt => ⟨2, 0, .vcvt, .S, .FLG⟩
  | .vqnt => ⟨2, 1, .vqnt, .S, .FLG⟩
  | .vdqnt => ⟨2, 2, .vdqnt, .S, .FLG⟩
  | .vbpn => ⟨2, 3, .vbpn, .S, .FLG⟩
  | .vbpj => ⟨2, 4, .vbpj, .S, .FLG⟩
  | .vext => ⟨2, 5, .vext, .S, .FLG⟩
  | .vins => ⟨2, 6, .vins, .S, .FLG⟩
  | .vperm => ⟨2, 7, .vperm, .S, .FLG⟩
  | .vslide => ⟨2, 8, .vslide, .S, .FLG⟩
  | .vzip => ⟨2, 9, .vzip, .S, .FLG⟩
  | .vunzip => ⟨2, 10, .vunzip, .S, .FLG⟩
  | .vredsum => ⟨2, 11, .vredsum, .S, .FLG⟩
  | .vredmax => ⟨2, 12, .vredmax, .S, .FLG⟩
  | .vredmin => ⟨2, 13, .vredmin, .S, .FLG⟩
  | .vscan => ⟨2, 14, .vscan, .S, .FLG⟩
  | .vchadd => ⟨2, 15, .vchadd, .S, .FLG⟩
  | .vchmax => ⟨2, 16, .vchmax, .S, .FLG⟩
  | .vchst => ⟨2, 17, .vchst, .S, .FLG⟩
  | .kand => ⟨2, 18, .kand, .S, .FLG⟩
  | .kor => ⟨2, 19, .kor, .S, .FLG⟩
  | .kxor => ⟨2, 20, .kxor, .S, .FLG⟩
  | .knot => ⟨2, 21, .knot, .S, .FLG⟩
  | .kpopc => ⟨2, 22, .kpopc, .S, .FLG⟩
  | .kmov => ⟨2, 23, .kmov, .S, .FLG⟩
  | .kffs => ⟨2, 24, .kffs, .S, .FLG⟩
  | .mulhn => ⟨2, 25, .mulhn, .S, .FLKG⟩
  | .divn => ⟨2, 26, .divn, .S, .FLKG⟩
  | .remn => ⟨2, 27, .remn, .S, .FLKG⟩
  | .minn => ⟨2, 28, .minn, .S, .FLKG⟩
  | .maxn => ⟨2, 29, .maxn, .S, .FLKG⟩
  | .ctz => ⟨2, 30, .ctz, .S, .FLKG⟩
  | .rol => ⟨2, 31, .rol, .S, .FLKG⟩
  | .bgen => ⟨2, 32, .bgen, .S, .FLKG⟩
  | .cmplen => ⟨2, 33, .cmplen, .S, .FLKG⟩
  | .mstat => ⟨3, 0, .mstat, .X, .FL⟩
  | .mswap => ⟨3, 1, .mswap, .O, .FL⟩
  | .mstream => ⟨3, 2, .mstream, .X, .FL⟩
  | .mstreamt => ⟨3, 3, .mstreamt, .X, .FL⟩
  | .mf64 => ⟨3, 4, .mf64, .X, .F⟩
  | .mbpn4 => ⟨3, 5, .mbpn4, .X, .FL⟩
  | .mbpn8 => ⟨3, 6, .mbpn8, .X, .F⟩
  | .mzero => ⟨3, 7, .mzero, .X, .FL⟩
  | .mrd => ⟨3, 8, .mrd, .X, .FL⟩
  | .mwr => ⟨3, 9, .mwr, .X, .FL⟩
  | .macs => ⟨3, 10, .macs, .X, .FL⟩
  | .msac => ⟨3, 11, .msac, .X, .FL⟩
  | .mtest => ⟨3, 12, .mtest, .S, .FL⟩
  | .rtab => ⟨3, 13, .rtab, .X, .FL⟩
  | .rank => ⟨3, 14, .rank, .X, .F⟩
  | .rankch => ⟨3, 15, .rankch, .X, .F⟩
  | .rstream => ⟨3, 16, .rstream, .X, .FL⟩
  | .rstreamch => ⟨3, 17, .rstreamch, .X, .FL⟩
  | .rrecon => ⟨3, 18, .rrecon, .X, .FL⟩
  | .ldsx => ⟨4, 0, .ldsx, .M, .FLKG⟩
  | .aadd => ⟨4, 1, .aadd, .A, .FLKG⟩
  | .amin => ⟨4, 2, .amin, .A, .FLKG⟩
  | .amax => ⟨4, 3, .amax, .A, .FLKG⟩
  | .aminn => ⟨4, 4, .aminn, .A, .FLKG⟩
  | .amaxn => ⟨4, 5, .amaxn, .A, .FLKG⟩
  | .aand => ⟨4, 6, .aand, .A, .FLKG⟩
  | .aor => ⟨4, 7, .aor, .A, .FLKG⟩
  | .axor => ⟨4, 8, .axor, .A, .FLKG⟩
  | .aswp => ⟨4, 9, .aswp, .A, .FLKG⟩
  | .acas => ⟨4, 10, .acas, .A, .FLKG⟩
  | .afadd => ⟨4, 11, .afadd, .A, .FLKG⟩
  | .ahnd => ⟨4, 12, .ahnd, .A, .FLKG⟩
  | .fence => ⟨4, 14, .fence, .O, .FLKG⟩
  | .spawn => ⟨4, 15, .spawn, .D, .FL⟩
  | .succ => ⟨4, 16, .succ, .S, .FLKG⟩
  | .relev => ⟨4, 17, .relev, .S, .FLKG⟩
  | .endTask => ⟨4, 18, .endTask, .O, .FLKG⟩
  | .getid => ⟨4, 19, .getid, .D, .FLKG⟩
  | .tmr => ⟨4, 20, .tmr, .S, .FLKG⟩
  | .migr => ⟨4, 21, .migr, .D, .FL⟩
  | .send => ⟨4, 22, .send, .S, .FLKG⟩
  | .reply => ⟨4, 23, .reply, .S, .FLKG⟩
  | .cmask => ⟨4, 24, .cmask, .J, .FL⟩
  | .cunmask => ⟨4, 25, .cunmask, .J, .FL⟩
  | .chbind => ⟨4, 26, .chbind, .S, .FLKG⟩
  | .arrive => ⟨4, 28, .arrive, .J, .FLG⟩
  | .bwait => ⟨4, 29, .bwait, .I, .FLG⟩
  | .cpy => ⟨4, 30, .cpy, .S, .FL⟩
  | .cpyx => ⟨4, 31, .cpyx, .S, .FL⟩
  | .cpytst => ⟨4, 32, .cpytst, .S, .FLG⟩
  | .lxload => ⟨4, 33, .lxload, .D, .FL⟩
  | .coll => ⟨4, 34, .coll, .S, .FLG⟩
  | .uepost => ⟨4, 35, .uepost, .S, .FLG⟩
  | .uepop => ⟨4, 36, .uepop, .S, .FLG⟩
  | .ctrw => ⟨4, 37, .ctrw, .S, .FLG⟩
  | .vlds => ⟨4, 38, .vlds, .MS, .FL⟩
  | .vsts => ⟨4, 39, .vsts, .MS, .FL⟩
  | .vgather => ⟨4, 40, .vgather, .S, .FL⟩
  | .baddq => ⟨4, 41, .baddq, .S, .FLG⟩
  | .vscatter => ⟨4, 42, .vscatter, .S, .FL⟩
  | .trap => ⟨5, 0, .trap, .J, .FLKG⟩
  | .eret => ⟨5, 1, .eret, .O, .FL⟩
  | .getc => ⟨5, 2, .getc, .I, .FLKG⟩
  | .setc => ⟨5, 3, .setc, .I, .FLKG⟩
  | .rdtime => ⟨5, 4, .rdtime, .D, .FLKG⟩
  | .fencei => ⟨5, 5, .fencei, .O, .FL⟩
  | .brk => ⟨5, 6, .brk, .J, .FLKG⟩
  | .idle => ⟨5, 7, .idle, .O, .FL⟩

def Op.page (o : Op) : Nat := o.row.page
def Op.op6 (o : Op) : Nat := o.row.op6
def Op.form (o : Op) : Form := o.row.form
def Op.prof (o : Op) : ProfileSet := o.row.prof

/-- R8, R88: whether the profiles of a row include the core's. -/
def ProfileSet.has (s : ProfileSet) (p : Profile) : Bool :=
  match s, p with
  | .FLKG, _ => true
  | .FLG, .K => false
  | .FLG, _ => true
  | .FL, .F => true
  | .FL, .L => true
  | .FL, _ => false
  | .F, .F => true
  | .F, _ => false

end Sys2Proof
end

