-- ==== Sys2Proof/Machine/Operands.lean ====
section
/-! DEFINITION. Operand forms (spec 03 R83 to R87): what each field of a bundle names, the immediates, the types, options and
qualifiers each instruction accepts. Check 5 of R82 is `legal`; the registers of check 6 are `xNamed` and `vNamed`. -/

namespace Sys2Proof.Machine

/-! Immediates (R84). -/

/-- The IMX payloads, first most significant. -/
def imxValue (w : Bundle) : Nat := w.imx.foldl (fun acc p => acc * 1024 + p.toNat) 0

/-- Forms I and K: sext of the payloads and b. -/
def immI (w : Bundle) : Int := sextNat (imxValue w * 32 + w.b.toNat) (10 * w.imx.length + 5)

/-- Form J before sign extension. -/
def rawJ (w : Bundle) : Nat := imxValue w * 1024 + w.a.toNat * 32 + w.b.toNat

/-- Form J. -/
def immJ (w : Bundle) : Int := sextNat (rawJ w) (10 * w.imx.length + 10)

/-- Forms C and M; 0 without IMX. -/
def immC (w : Bundle) : Int := sextNat (imxValue w) (10 * w.imx.length)

/-- Forms MS and X: the selector (0 to 14 an allocation, 15 the frame region). -/
def selector (w : Bundle) : Nat := (immC w % 16).toNat

/-- Forms MS and X: the displacement. -/
def displacement (w : Bundle) : Int := (immC w - immC w % 16) / 16

/-- The modifier of forms S and A. -/
def modifier (w : Bundle) : Nat := imxValue w

/-- The type code of a modifier. -/
def modType (w : Bundle) : Nat := modifier w % 32

/-- The option bits m[9:5]. -/
def modOpt (w : Bundle) : Nat := modifier w / 32

/-! Register fields (R85). -/

/-- Field a with its extension bit. -/
def fieldA (w : Bundle) : Nat :=
  w.a.toNat + (match w.rgx with | some r => if r.a5 then 32 else 0 | none => 0)

/-- Field b with its extension bit. -/
def fieldB (w : Bundle) : Nat :=
  w.b.toNat + (match w.rgx with | some r => if r.b5 then 32 else 0 | none => 0)

/-- Field c; 0 without RGX. -/
def fieldC (w : Bundle) : Nat := (w.rgx.map (fun r => r.c.toNat)).getD 0

def extA (w : Bundle) : Bool := (w.rgx.map (·.a5)).getD false
def extB (w : Bundle) : Bool := (w.rgx.map (·.b5)).getD false

/-- The type code that a bundle of forms M and MS carries in field c. -/
def typeC (w : Bundle) : Nat := fieldC w

/-! Types (R86, R133). -/

/-- The width in bits of an element of a type; 0 where the type has none. -/
def typeBits (code : Nat) : Nat :=
  match code with
  | 1 => 8 | 2 => 16 | 3 => 32 | 4 => 64 | 5 => 8 | 6 => 16 | 7 => 32 | 8 => 64
  | 9 => 64 | 10 => 32 | 11 => 16 | 12 => 16 | 13 => 8 | 14 => 8 | 15 => 4
  | _ => 0

def typesI : List Nat := [1, 2, 3, 4]
def typesU : List Nat := [5, 6, 7, 8]
def typesF : List Nat := [9, 10, 11, 12]
def typesT : List Nat := [10, 11, 12]
def typesX : List Nat := [1, 2, 3, 4, 5, 6, 7, 8, 9, 10, 11, 12, 13, 14]
def typesC : List Nat := [1, 2, 3, 4, 5, 6, 7, 8, 9, 10, 11, 12, 13, 14, 15]

def isSignedType (code : Nat) : Bool := decide (1 ≤ code) && decide (code ≤ 4)
def isUnsignedType (code : Nat) : Bool := decide (5 ≤ code) && decide (code ≤ 8)
def isFloatType (code : Nat) : Bool := decide (9 ≤ code) && decide (code ≤ 15)

/-! What the fields of an instruction name. -/

/-- A register class. -/
inductive RegCls where
  | x | v | k
  deriving DecidableEq, Repr

/-- What one field names: nothing (it must be 0), a number, a channel, `n` consecutive registers read, a register written, or
a register read and written. -/
inductive Role where
  | zero
  | number
  | channel
  | reads (cls : RegCls) (n : Nat)
  | writes (cls : RegCls)
  | updates (cls : RegCls)
  deriving DecidableEq, Repr

/-- How the fields of an instruction are read (R83): fields fixed by the entry (with RGX required or not), the two-source short and
long forms, the three-operand form that reads its destination, and form I with its source a or c. -/
inductive Shape where
  | fixed (a b c : Role) (rgx : Bool)
  | two (cls : RegCls)
  | three (cls : RegCls)
  | immSource
  deriving DecidableEq, Repr

def rX : Role := .reads .x 1
def rV : Role := .reads .v 1
def rK : Role := .reads .k 1
def wX : Role := .writes .x
def wV : Role := .writes .v
def wK : Role := .writes .k

/-- The shape of each instruction, from its entry. -/
def shapeOf (op : Op) (w : Bundle) : Shape :=
  match op with
  | .add | .sub | .and | .or | .xor | .andn | .shl | .shr | .sar | .mul | .mulh | .div | .rem | .min | .max
  | .cmpeq | .cmpne | .cmplt | .cmpltn | .cmple | .lea | .mulhn | .divn | .remn | .minn | .maxn | .rol | .bgen | .cmplen => .two .x
  | .mov | .clz | .popc | .ctz | .mtest | .tmr | .cpytst | .uepop => .fixed wX rX .zero false
  | .sel => .three .x
  | .li | .getc => .fixed wX .number .zero false
  | .lih | .addi | .sext | .zext | .setc => .immSource
  | .b | .call | .lead | .follow | .wait | .claim | .release | .arrive | .cmask | .cunmask | .trap | .brk =>
    .fixed .number .number .zero false
  | .bz | .bnz => .fixed rX .number .zero false
  | .loop => .fixed (.updates .x) .number .zero false
  | .beq | .bne | .blt | .bge | .bltn => .fixed rX rX .zero false
  | .ret | .detach | .fence | .endTask | .mswap | .eret | .fencei | .idle => .fixed .zero .zero .zero false
  | .jr | .spawn | .lxload => .fixed rX .zero .zero false
  | .migr => .fixed (.updates .x) .zero .zero false
  | .getid | .rdtime => .fixed wX .zero .zero false
  | .ld | .ldsx | .ldf | .lsp => .fixed wX rX .number false
  | .st | .stf | .ssp => .fixed rX rX .number false
  | .vadd | .vmul | .vaddP1 | .vsub | .vmulP1 | .vmin | .vmax | .vdiv | .viadd | .visub | .vimul
  | .vand | .vor | .vxor | .vshl | .vshr | .vsar | .vperm | .vzip | .vunzip => .two .v
  | .vfma | .vfmaP1 | .vfms | .vfnma | .vimad => .three .v
  | .vabs | .vneg | .vsqrt | .vrcp | .vrsq | .vexp2 | .vlog2 | .vtanh | .vredsum | .vredmax | .vredmin | .vscan
  | .vbpn | .vbpj => .fixed wV rV .zero false
  | .vld | .vlds => .fixed wV rX .number false
  | .vst | .vsts => .fixed rV rX .number false
  | .vbcast => .fixed wV rX .zero false
  | .vcmp => .fixed wK rV rV true
  | .vsel => .fixed wV rV rV true
  | .vcvt => .fixed (.updates .v) rV .number false
  | .vqnt => .fixed (.updates .v) (.reads .v (if modOpt w % 4 = 0 then 2 else 1)) (.updates .x) false
  | .vdqnt => .fixed wV rV rX false
  | .vext => .fixed wX rV rX true
  | .vins => .fixed (.updates .v) rX rX true
  | .vslide => .fixed wV rV rX true
  | .vchadd | .vchmax => .fixed (.updates .v) .channel wX false
  | .vchst => .fixed (.updates .v) .channel wX false
  | .vgather => .fixed wV rX rV true
  | .vscatter => .fixed rV rX rV true
  | .kand | .kor | .kxor => .two .k
  | .knot => .fixed wK rK .zero false
  | .kpopc | .kffs => .fixed wX rK .zero false
  | .kmov =>
    match modOpt w with
    | 0 => .fixed wK rK .zero false
    | 1 => .fixed wK rX .zero false
    | _ => .fixed wX rK .zero false
  | .mstat => .fixed .zero rX .zero false
  | .mstream | .mstreamt | .mf64 | .mbpn4 | .mbpn8 => .fixed rX rX .zero false
  | .mzero => .fixed rX .zero rX false
  | .mrd | .mwr | .macs | .msac | .rank | .rankch | .rstream | .rrecon => .fixed rX rX rX false
  | .rtab => .fixed .number rX .zero false
  | .rstreamch => .fixed rX .channel rX false
  | .aadd | .amin | .amax | .aminn | .amaxn | .aand | .aor | .axor | .aswp | .afadd | .ahnd => .fixed wX rX rX false
  | .acas => .fixed (.updates .x) rX rX false
  | .succ | .relev => .fixed rX rX (.reads .x 4) true
  | .send | .reply =>
    if modOpt w % 2 = 1 then .fixed rX .zero (.reads .x (modOpt w / 2 % 4 + 1)) true
    else .fixed rX rX (.reads .x 4) true
  | .chbind => .fixed .channel rX .zero false
  | .bwait => .fixed rX .number .zero false
  | .cpy => .fixed wX (.reads .x 4) .zero false
  | .cpyx | .coll | .uepost => .fixed wX (.reads .x 8) .zero false
  | .ctrw => .fixed wX rX rX true
  | .baddq => .fixed rX rX rX true

/-- The type codes other than 0 that an instruction accepts, in its modifier or in field c. -/
def typesOf (op : Op) : List Nat :=
  match op with
  | .ld => typesU
  | .ldsx => typesI
  | .st | .lsp | .ssp => typesU ++ typesI
  | .ldf | .stf => [9, 10, 11, 12, 13, 14]
  | .vadd | .vmul | .vaddP1 | .vsub | .vmulP1 | .vdiv | .vfma | .vfmaP1 | .vfms | .vfnma | .vsqrt | .vrcp | .vrsq => typesF
  | .vmin | .vmax | .vcmp | .vredsum | .vredmax | .vredmin | .vscan | .vchadd | .vchmax => typesF ++ typesI ++ typesU
  | .vabs | .vneg => typesF ++ typesI
  | .vexp2 | .vlog2 | .vtanh => typesT
  | .viadd | .visub | .vimul | .vimad | .vshl | .vshr | .vsar => typesI ++ typesU
  | .vand | .vor | .vxor | .vsel | .vbcast | .vext | .vins | .vperm | .vslide | .vzip | .vunzip | .vchst
  | .vld | .vst | .vlds | .vsts | .vgather | .vscatter => typesX
  | .vcvt => typesC
  | .vqnt => [14, 16, 17]
  | .vdqnt => [10, 11, 12]
  | .vbpn | .vbpj => [18]
  | .aadd | .aand | .aor | .axor | .aswp => [7, 8, 3, 4]
  | .amin | .amax => [3, 4]
  | .aminn | .amaxn | .acas => [7, 8]
  | .afadd => [10, 9]
  | .ahnd => [8]
  | .baddq => [10, 11, 12, 13, 14, 16]
  | _ => []

/-- The default type that code 0 selects (R86). DESIGN CHOICE: R156 names no default for `vgather` and `vscatter`; they take .n32, as `vld` and `vst`
do (log entry 6). -/
def defaultType (op : Op) : Nat :=
  match op with
  | .ld | .st | .lsp | .ssp => 8
  | .ldsx => 3
  | .ldf | .stf => 10
  | .viadd | .visub | .vimul | .vimad | .vsar => 3
  | .vand | .vor | .vxor | .vext | .vins => 8
  | .vshl | .vshr | .vsel | .vbcast | .vperm | .vslide | .vzip | .vunzip | .vld | .vst | .vlds | .vsts | .vgather | .vscatter => 7
  | .vbpn | .vbpj => 18
  | .aadd | .aand | .aor | .axor | .aswp | .aminn | .amaxn | .acas | .ahnd => 8
  | .amin | .amax => 4
  | .afadd => 10
  | _ => 10

/-- The type a code selects for an instruction. -/
def selectType (op : Op) (code : Nat) : Nat := if code = 0 then defaultType op else code

/-- The type of a bundle: in field c for forms M and MS, in the modifier otherwise. -/
def typeOf (op : Op) (w : Bundle) : Nat :=
  match op.form with
  | .M | .MS => selectType op (typeC w)
  | _ => selectType op (modType w)

/-- Whether the options of the modifier are those the entry defines (with the type of the bundle where it matters). -/
def optionsOk (op : Op) (w : Bundle) : Bool :=
  let o := modOpt w
  match op with
  | .lea => decide (o < 8)
  | .viadd | .visub | .vimul | .vimad | .vzip | .vunzip | .vgather | .vscatter => decide (o < 2)
  | .vcmp => decide (o < 6) || (decide (o < 8) && typesF.contains (typeOf op w))
  | .vsel => decide (o < 8)
  | .vscan => decide (o < 3)
  | .kmov => decide (o < 3)
  | .vbpj => decide (o % 16 ≤ 8)
  | .vqnt =>
    o % 4 != 3 && decide (o < 16) && (modType w = 17 || decide (o / 4 % 4 < 2))
  | .vdqnt =>
    o % 4 != 3 && decide (o < 16) && (o % 4 == 1 || decide (o / 4 % 4 < 2))
  | .vcvt => decide (o < 32)
  | .ahnd => decide (o < 32)
  | .tmr => decide (o < 3)
  | .send | .reply => if o % 2 = 1 then decide (o < 16) else o == 0
  | .baddq => decide (o < 3)
  | _ => o == 0

/-- `vcvt` (R147): source type, destination type, and the number of parts. -/
def vcvtSrc (w : Bundle) : Nat := modOpt w
def vcvtDst (w : Bundle) : Nat := modType w
def vcvtParts (w : Bundle) : Nat :=
  let a := typeBits (vcvtSrc w)
  let b := typeBits (vcvtDst w)
  max a b / min a b

/-- The numbers of control registers that 01 R32 lists. -/
def controlListed (n : Nat) : Bool :=
  decide (n ≤ 8) || (decide (0x10 ≤ n) && decide (n ≤ 0x16)) || (decide (0x18 ≤ n) && decide (n ≤ 0x2E)) ||
    (decide (0x40 ≤ n) && decide (n ≤ 0x5F))

/-- The conditions of an entry on numbers, ranges and counts of IMX words beyond its form. -/
def entryOk (op : Op) (w : Bundle) : Bool :=
  match op with
  | .sext | .zext => decide (1 ≤ immI w) && decide (immI w ≤ 64)
  | .getc | .setc => decide (0 ≤ immI w) && decide (immI w ≤ 255) && controlListed (immI w).toNat
  | .lead | .follow | .cmask | .cunmask => decide (0 ≤ immJ w) && decide (immJ w ≤ 15)
  | .claim | .release => decide (0 ≤ immJ w) && decide (immJ w ≤ 31)
  | .wait => decide (w.imx.length ≤ 1)
  | .arrive =>
    (w.imx.length == 0 && rawJ w / 256 == 0) || (w.imx.length == 1 && rawJ w / 4096 == 0)
  | .bwait => w.imx.length == 1 && imxValue w * 32 / 4096 == 0
  | .vcvt =>
    typesC.contains (vcvtSrc w) && typesC.contains (vcvtDst w) && vcvtSrc w != vcvtDst w && decide (fieldC w < vcvtParts w)
  | .vqnt => modType w != 0 && (modOpt w % 4 != 0 || w.b.toNat % 2 == 0)
  | .vdqnt => modType w != 0 && (modType w != 10 || w.a.toNat % 2 == 0)
  | .mzero | .rstreamch => immC w == 0
  | .rtab => decide (w.a.toNat < 16)
  | _ => true

/-- The scopes, orderings and flag that an entry accepts (R87): whether a scope is below a bound, the orderings, the flag. -/
def qualifiersOk (op : Op) (w : Bundle) : Bool :=
  let q := w.qual
  let within (scopes : Nat) (ords : List Nat) (flag : Bool) : Bool :=
    decide (q.scope.toNat < scopes) && ords.contains q.ord.toNat && (flag || !q.flag)
  match op with
  | .ld | .ldsx | .ldf | .vld | .vgather => within 7 [0, 1] true
  | .st | .stf | .vst | .vscatter => within 7 [0, 2] true
  | .lsp | .ssp | .vlds | .vsts => within 4 [0, 1, 2, 3] false
  | .aadd | .amin | .amax | .aminn | .amaxn | .aand | .aor | .axor | .aswp | .acas | .afadd | .ahnd | .fence => within 7 [0, 1, 2, 3] false
  | .send | .reply => within 7 [0, 2] true
  | .arrive => within 7 [0, 2] false
  | .bwait | .ctrw => within 7 [0] false
  | _ => within 1 [0] false

/-- Whether a form takes its type from the modifier, and the modifier is in range (R84, R86). -/
def formOk (op : Op) (w : Bundle) : Bool :=
  match op.form with
  | .O | .D => w.imx.isEmpty
  | .S | .A => decide (modifier w < 1024) && (modType w == 0 || (typesOf op).contains (modType w)) && optionsOk op w
  | .M | .MS => typeC w == 0 || (typesOf op).contains (typeC w)
  | _ => true

/-- Whether a field value with its extension bit is legal for a role (R85): predicates and channels 0 to 7, vector registers below 48. -/
def roleOk (r : Role) (n : Nat) (ext : Bool) : Bool :=
  match r with
  | .zero => n == 0
  | .number => !ext
  | .channel => decide (n < 8)
  | .reads .x _ => true
  | .reads .v _ => decide (n < 48)
  | .reads .k _ => decide (n < 8)
  | .writes .x => true
  | .writes .v => decide (n < 48)
  | .writes .k => decide (n < 8)
  | .updates .x => true
  | .updates .v => decide (n < 48)
  | .updates .k => decide (n < 8)

/-- The legality of the register fields of a bundle. -/
def fieldsOk (op : Op) (w : Bundle) : Bool :=
  match shapeOf op w with
  | .fixed a b c rgx =>
    (!rgx || w.rgx.isSome) && roleOk a (fieldA w) (extA w) && roleOk b (fieldB w) (extB w) && roleOk c (fieldC w) false
  | .two cls | .three cls =>
    roleOk (.writes cls) (fieldA w) false && roleOk (.reads cls 1) (fieldB w) false && roleOk (.reads cls 1) (fieldC w) false
  | .immSource =>
    roleOk .number w.b.toNat (extB w) && (op != .setc || w.rgx.isNone || fieldA w == 0)

/-- Check 5 of R82: fields, modifier, type and qualifiers are legal for the instruction. -/
def legal (op : Op) (w : Bundle) : Bool :=
  formOk op w && fieldsOk op w && entryOk op w && qualifiersOk op w

/-! The registers a bundle names (R25, R83, R196). -/

/-- A named register. -/
structure Named where
  cls : RegCls
  num : Nat
  read : Bool
  write : Bool
  deriving DecidableEq, Repr

/-- The registers a role names. -/
def roleNamed (r : Role) (n : Nat) : List Named :=
  match r with
  | .zero => []
  | .number => []
  | .channel => []
  | .reads cls k => (List.range k).map (fun i => { cls := cls, num := n + i, read := true, write := false })
  | .writes cls => [{ cls := cls, num := n, read := false, write := true }]
  | .updates cls => [{ cls := cls, num := n, read := true, write := true }]

/-- The registers a bundle names in its fields; the pair of a `vdqnt` to FP32 is named as well. -/
def fieldNamed (op : Op) (w : Bundle) : List Named :=
  match shapeOf op w with
  | .fixed a b c _ =>
    roleNamed a (fieldA w) ++ roleNamed b (fieldB w) ++ roleNamed c (fieldC w) ++
      (if op = .vdqnt ∧ modType w = 10 then roleNamed a (fieldA w + 1) else [])
  | .two cls =>
    if w.rgx.isSome then
      roleNamed (.writes cls) (fieldA w) ++ roleNamed (.reads cls 1) (fieldB w) ++ roleNamed (.reads cls 1) (fieldC w)
    else roleNamed (.updates cls) (fieldA w) ++ roleNamed (.reads cls 1) (fieldB w)
  | .three cls =>
    roleNamed (.updates cls) (fieldA w) ++ roleNamed (.reads cls 1) (fieldB w) ++
      (if w.rgx.isSome then roleNamed (.reads cls 1) (fieldC w) else [])
  | .immSource =>
    if op = .setc then roleNamed rX (if w.rgx.isSome then fieldC w else fieldA w)
    else if w.rgx.isSome then roleNamed wX (fieldA w) ++ roleNamed rX (fieldC w)
    else roleNamed (.updates .x) (fieldA w)

/-- The registers a bundle reads or writes without naming them: the link register, the mask of `vsel`, the governing predicate. -/
def impliedNamed (op : Op) (w : Bundle) : List Named :=
  (match op with
    | .call => roleNamed wX 7
    | .ret => roleNamed rX 7
    | .vsel => roleNamed rK (modOpt w % 8)
    | .eret => [{ cls := .x, num := 1, read := true, write := false }, { cls := .x, num := 2, read := true, write := false }]
    | _ => []) ++ roleNamed rK w.qual.pred.toNat

/-- Every register a bundle depends on or writes. -/
def allNamed (op : Op) (w : Bundle) : List Named := fieldNamed op w ++ impliedNamed op w

/-- The two sources of a two-source bundle: a and b in the short form, b and c in the long form (R83). -/
def twoSources (w : Bundle) : Nat × Nat := if w.rgx.isSome then (fieldB w, fieldC w) else (fieldA w, fieldB w)

/-- The second and third sources of an instruction that reads its destination: c is taken equal to b without RGX (R83). -/
def threeSources (w : Bundle) : Nat × Nat := (fieldB w, if w.rgx.isSome then fieldC w else fieldB w)

/-- The source register of form I: a without RGX, c with it (R83). -/
def immSourceReg (w : Bundle) : Nat := if w.rgx.isSome then fieldC w else fieldA w

/-! Classes of instructions that several rules name. -/

/-- The page-3 jobs: every page-3 bundle but `mtest` (R161). -/
def isJob (op : Op) : Bool := decide (op.page = 3) && op != .mtest

/-- Vector bundles (05): pages 1 and 2 but for the rare scalar forms, and the vector forms of pages 0 and 4. -/
def isVector (op : Op) : Bool :=
  match op with
  | .vadd | .vmul | .vfma | .vld | .vst | .vbcast | .vlds | .vsts | .vgather | .vscatter => true
  | .mulhn | .divn | .remn | .minn | .maxn | .ctz | .rol | .bgen | .cmplen => false
  | _ => op.page == 1 || op.page == 2

/-- Vector bundles whose governing predicate acts element by element or source by source (R134); for all other bundles bit 0
decides. -/
def elementWise (op : Op) : Bool :=
  isVector op &&
    !(match op with
      | .vext | .vins | .vqnt | .vdqnt | .vbpn | .vbpj | .kand | .kor | .kxor | .knot | .kpopc | .kmov | .kffs => true
      | _ => false)

/-- The bundles that consume a pending successor descriptor (R207). -/
def consumesSuccessor (op : Op) : Bool :=
  isJob op || (match op with
    | .cpy | .cpyx | .coll | .uepost | .tmr | .bwait => true
    | _ => false)

/-- The bundles that a leader does not forward (R122). -/
def unforwarded (op : Op) : Bool :=
  match op with
  | .lead | .follow | .detach | .endTask | .eret | .idle | .migr | .trap | .brk => true
  | _ => false

/-- The scalar loads, stores and atomics of R285. -/
def isScalarAccess (op : Op) : Bool :=
  match op with
  | .ld | .ldsx | .st | .ldf | .stf | .aadd | .amin | .amax | .aminn | .amaxn | .aand | .aor | .axor | .aswp | .acas | .afadd | .ahnd => true
  | _ => false

end Sys2Proof.Machine
end

