-- ==== Sys2Proof/Event.lean ====
section
/-! DEFINITION. What the steps without an encoding carry: release events and messages (spec 07 R204, 11 R319), packets of the
scale-up links (14 R397) and of Ultra Ethernet (14 R406), boot images (16 R428), tables that Primrose writes (13 R362, 14 R403). -/

namespace Sys2Proof

/-- A memory request to a compute function: the function, and the IDE stream on which it comes with the T bit set (14 R384, R394). -/
structure HostFn where
  fn : Nat
  via : Option Nat
  deriving DecidableEq, Repr

/-- A read of BAR0: the function, the offset and the stream (14 R385, 16 R436). -/
structure RegisterAt where
  fn : Nat
  offset : Nat
  via : Option Nat
  deriving DecidableEq, Repr

/-- How an invalidation is submitted: by a write of the management function's register, or by a Primrose call that gives the record (13 R378). -/
inductive InvalRequest where
  | register (value : Word)
  | call (record : List Byte)
  deriving DecidableEq, Repr

/-- A switch of a gang: the number of its partition (log entry 32) and its time T (13 R366, R367). -/
structure SwitchAt where
  gang : Nat
  time : Nat
  deriving DecidableEq, Repr

/-- The cumulative PSN of an acknowledgement, with the count of restarts of its pair in which it was sent (14 R407; log entry 24). -/
structure AckPoint where
  epoch : Nat
  psn : Nat
  deriving DecidableEq, Repr

/-- The agent that raised an event (R204): core number in the space's own layout, package, space of R205. -/
structure Source where
  core : Nat
  pkg : Nat
  space : Nat
  deriving DecidableEq, Repr

/-- What a release event or message is for: a task, the X9's own atomic handler or an `ahnd` handler for an operation (R199, R200), a
migrated frame in a package (09 R271), the collective handler for a block (11 R333); for channel words, the job or the copy that
sends them (06 R188, 11 R315); for the kinds that programs never observe, the access of a line, the copy segment or the matter they carry (R320). -/
inductive EvKind where
  | task
  | fixedAtomic (op : Nat)
  | userAtomic (op : Nat)
  | package (pack : Nat)
  | collective (coll block : Nat)
  | fromJob (queue seq : Nat)
  | fromCopy (job : Nat)
  | access (op line : Nat)
  | segment (job seg : Nat)
  | token (n : Nat)
  deriving DecidableEq, Repr

/-- A release event (R204). `cls` is the class of an active message, none for other events; `gov` names the die and record that
registered ranges for it (09 R264), `after` the accesses that its source released and that are not yet performed (10 R299). -/
structure REvent where
  kind : EvKind
  handler : Word
  level : Nat
  args : List Word
  item : Word
  src : Source
  cls : Option Nat
  ltag : Nat
  gov : Option (Nat × Nat)
  after : List Nat := []
  deriving DecidableEq, Repr

/-- A message of the Millrace: the header of R319 together with its payload (R320). Kinds 0 to 3 and 8, 9 are addressed to cores
or units; `words` holds the argument words of kinds 0, 1, 3 and the data words of kind 2 (for kind 8 the unit, the member and whether it releases); `ev` says what the message is
for; `rangeOf` names the die and record that registered ranges for the event, `after` the accesses
that the message releases (10 R299) and that are not yet performed, `age` the age of its header flit at its ejection; a `blank` one stands for a message
that was refused before it reached its target, and consumes its number there (11 R324). -/
structure Msg where
  kind : Nat
  dpkg : Nat
  dcore : Nat
  dspace : Nat
  src : Source
  tenant : Nat
  cls : Nat
  level : Nat
  ordered : Bool
  pseq : Nat
  rel : Bool
  scope : Nat
  gov : Bool
  words : List Word
  endw : Bool
  ltag : Nat
  handler : Word
  item : Word
  ev : EvKind
  rangeOf : Option (Nat × Nat)
  after : List Nat
  age : Nat := 0
  blank : Bool := false
  deriving DecidableEq, Repr

/-- A memory request or reply that crosses a scale-up port (R320 kinds 4, 5, 6); `fault` is 0, or in a reply 1 ABSENT, 2 PERM, 3 ECC, 4 TENANT, 5 ABSENT of a
discarded handler. `atomic` holds the slot, the type, the operand and
the comparand or handler of an atomic; `raw` says that its data is not to be compressed (07 R225, 14 R400). -/
structure MemPacket where
  reply : Bool
  op : Nat
  elem : Nat
  write : Bool
  atomic : Option (Nat × Nat × Nat × Nat)
  addr : Nat
  size : Nat
  data : List Byte
  src : Source
  tenant : Nat
  ltag : Nat
  item : Word
  fault : Nat
  raw : Bool := false
  deriving DecidableEq, Repr

/-- READY or GO of a gang's switch at a time (13 R367), which travels on the management class. -/
structure GangMsg where
  ready : Bool
  gang : Nat
  time : Nat
  deriving DecidableEq, Repr

/-- A packet of a scale-up connection (R397): peer package, class (0 memory, 1 ordered, 2 relaxed, 3 management), sequence
number, epoch (R399) and its content; `link` holds the data of a memory packet that is compressed on the link (R400). -/
structure ScalePacket where
  peer : Nat
  cls : Nat
  seq : Nat
  epoch : Nat
  msg : Option Msg
  mem : Option MemPacket
  gang : Option GangMsg
  link : Option (List Byte) := none
  deriving DecidableEq, Repr

/-- An Ultra Ethernet packet as it reaches or leaves a network context (R404 to R406): `op` 0 SEND, 1 WRITE, 2 READ (a request or a
response), 3 the answer to a refused access (R405), 4 a not-ready acknowledgement (R404). `ctx` is the network context at the target,
`peer` the endpoint that stands for the other side, `len` the length of the whole message. -/
structure UePacket where
  ctx : Nat
  peer : Nat
  epoch : Nat
  psn : Nat
  op : Nat
  rod : Bool
  matchBits : Word
  off : Nat
  len : Nat
  data : List Byte
  key : Nat
  addr : Word
  imm : Nat
  msgId : Nat
  deriving DecidableEq, Repr

/-- A Primrose image (R428): the 4 KiB header's fields, with the flags other than the first and what stands behind the key, the body and the
signature. -/
structure BootImage where
  magic : Nat
  keySlot : Nat
  secver : BitVec 32
  raise : Bool
  pubKey : List Byte
  body : List Byte
  sig : List Byte
  flags : Nat := 0
  rest : List Byte := []
  deriving DecidableEq, Repr

/-- An entry of the tenant table (R362), with the window base that Primrose gives its function (R386). -/
structure TenantEntry where
  valid : Bool
  col0 : Nat
  row0 : Nat
  width : Nat
  height : Nat
  root : Nat
  function : Nat
  wbase : Nat
  deriving DecidableEq, Repr

/-- An endpoint of a network context (R403). -/
structure UeEndpoint where
  fabric : Nat
  job : Nat
  ctx : Nat
  deriving DecidableEq, Repr

/-- A network context (R403): `none` in the table is an invalid one. -/
structure NetContext where
  tenant : Nat
  sluice : Nat
  ports : Nat
  rlist : Word
  rlen : Nat
  keys : Word
  endpoints : List UeEndpoint
  deriving DecidableEq, Repr

/-- The policies that Primrose sets (R425). -/
inductive Policy where
  | stealRecords
  | stealInterval
  | predictorThreshold
  | gangQuantum
  | reservationAfter
  | connectionSpill
  | replicas (tenant : Nat)
  | collectiveLimit
  | scrubPeriod
  | signRate
  | ueTimeout
  | ueCongestion
  | portCompression (port : Nat)
  deriving DecidableEq, Repr

/-- What the patrol scrub or an access finds in a line (R423). -/
inductive EccFinding where
  | correctable
  | uncorrectable
  deriving DecidableEq, Repr

end Sys2Proof
end

