-- ==== Sys2Proof/Syntax.lean ====
section
/-! DEFINITION. The operations of the machine, one constructor per row of spec/opcode_table.json: first the 191 encoded
instructions (spec 03 R88 to R94), each with its bundle, then the 100 steps of the other agents and of the outside world. -/

namespace Sys2Proof

/-- Every operation of the table. A comment after a constructor names the rule of its row. A request of the host carries `via`: the IDE stream by
which it came with the T bit set (14 R394). -/
inductive Instr where
  | add (w : Bundle) -- R105
  | sub (w : Bundle) -- R105
  | and (w : Bundle) -- R105
  | or (w : Bundle) -- R105
  | xor (w : Bundle) -- R105
  | andn (w : Bundle) -- R105
  | shl (w : Bundle) -- R105
  | shr (w : Bundle) -- R105
  | sar (w : Bundle) -- R105
  | mul (w : Bundle) -- R105
  | mulh (w : Bundle) -- R105
  | div (w : Bundle) -- R106
  | rem (w : Bundle) -- R106
  | min (w : Bundle) -- R105
  | max (w : Bundle) -- R105
  | mov (w : Bundle) -- R107
  | li (w : Bundle) -- R111
  | lih (w : Bundle) -- R111
  | addi (w : Bundle) -- R111
  | cmpeq (w : Bundle) -- R110
  | cmpne (w : Bundle) -- R110
  | cmplt (w : Bundle) -- R110
  | cmpltn (w : Bundle) -- R110
  | cmple (w : Bundle) -- R110
  | sel (w : Bundle) -- R109
  | lea (w : Bundle) -- R108
  | clz (w : Bundle) -- R107
  | popc (w : Bundle) -- R107
  | sext (w : Bundle) -- R112
  | zext (w : Bundle) -- R112
  | b (w : Bundle) -- R114
  | bz (w : Bundle) -- R115
  | bnz (w : Bundle) -- R115
  | beq (w : Bundle) -- R116
  | bne (w : Bundle) -- R116
  | blt (w : Bundle) -- R116
  | bge (w : Bundle) -- R116
  | bltn (w : Bundle) -- R116
  | call (w : Bundle) -- R114
  | ret (w : Bundle) -- R114
  | jr (w : Bundle) -- R114
  | loop (w : Bundle) -- R117
  | ld (w : Bundle) -- R194
  | st (w : Bundle) -- R194
  | ldf (w : Bundle) -- R195
  | stf (w : Bundle) -- R195
  | lsp (w : Bundle) -- R198
  | ssp (w : Bundle) -- R198
  | vadd (w : Bundle) -- R139
  | vmul (w : Bundle) -- R139
  | vfma (w : Bundle) -- R140
  | vld (w : Bundle) -- R154
  | vst (w : Bundle) -- R154
  | vbcast (w : Bundle) -- R145
  | lead (w : Bundle) -- R118
  | follow (w : Bundle) -- R119
  | detach (w : Bundle) -- R118
  | wait (w : Bundle) -- R202
  | claim (w : Bundle) -- R203
  | release (w : Bundle) -- R203
  | vaddP1 (w : Bundle) -- R139
  | vsub (w : Bundle) -- R139
  | vmulP1 (w : Bundle) -- R139
  | vfmaP1 (w : Bundle) -- R140
  | vfms (w : Bundle) -- R140
  | vfnma (w : Bundle) -- R140
  | vmin (w : Bundle) -- R139
  | vmax (w : Bundle) -- R139
  | vabs (w : Bundle) -- R139
  | vneg (w : Bundle) -- R139
  | vdiv (w : Bundle) -- R139
  | vsqrt (w : Bundle) -- R139
  | vrcp (w : Bundle) -- R139
  | vrsq (w : Bundle) -- R139
  | vexp2 (w : Bundle) -- R70
  | vlog2 (w : Bundle) -- R71
  | vtanh (w : Bundle) -- R72
  | viadd (w : Bundle) -- R141
  | visub (w : Bundle) -- R141
  | vimul (w : Bundle) -- R141
  | vimad (w : Bundle) -- R141
  | vand (w : Bundle) -- R142
  | vor (w : Bundle) -- R142
  | vxor (w : Bundle) -- R142
  | vshl (w : Bundle) -- R142
  | vshr (w : Bundle) -- R142
  | vsar (w : Bundle) -- R142
  | vcmp (w : Bundle) -- R143
  | vsel (w : Bundle) -- R144
  | vcvt (w : Bundle) -- R147
  | vqnt (w : Bundle) -- R148
  | vdqnt (w : Bundle) -- R149
  | vbpn (w : Bundle) -- R150
  | vbpj (w : Bundle) -- R150
  | vext (w : Bundle) -- R145
  | vins (w : Bundle) -- R145
  | vperm (w : Bundle) -- R145
  | vslide (w : Bundle) -- R145
  | vzip (w : Bundle) -- R146
  | vunzip (w : Bundle) -- R146
  | vredsum (w : Bundle) -- R151
  | vredmax (w : Bundle) -- R151
  | vredmin (w : Bundle) -- R151
  | vscan (w : Bundle) -- R152
  | vchadd (w : Bundle) -- R153
  | vchmax (w : Bundle) -- R153
  | vchst (w : Bundle) -- R153
  | kand (w : Bundle) -- R158
  | kor (w : Bundle) -- R158
  | kxor (w : Bundle) -- R158
  | knot (w : Bundle) -- R158
  | kpopc (w : Bundle) -- R158
  | kmov (w : Bundle) -- R158
  | kffs (w : Bundle) -- R158
  | mulhn (w : Bundle) -- R105
  | divn (w : Bundle) -- R106
  | remn (w : Bundle) -- R106
  | minn (w : Bundle) -- R105
  | maxn (w : Bundle) -- R105
  | ctz (w : Bundle) -- R107
  | rol (w : Bundle) -- R105
  | bgen (w : Bundle) -- R105
  | cmplen (w : Bundle) -- R110
  | mstat (w : Bundle) -- R174
  | mswap (w : Bundle) -- R175
  | mstream (w : Bundle) -- R177
  | mstreamt (w : Bundle) -- R178
  | mf64 (w : Bundle) -- R179
  | mbpn4 (w : Bundle) -- R177
  | mbpn8 (w : Bundle) -- R177
  | mzero (w : Bundle) -- R181
  | mrd (w : Bundle) -- R182
  | mwr (w : Bundle) -- R181
  | macs (w : Bundle) -- R183
  | msac (w : Bundle) -- R183
  | mtest (w : Bundle) -- R184
  | rtab (w : Bundle) -- R185
  | rank (w : Bundle) -- R187
  | rankch (w : Bundle) -- R188
  | rstream (w : Bundle) -- R189
  | rstreamch (w : Bundle) -- R190
  | rrecon (w : Bundle) -- R191
  | ldsx (w : Bundle) -- R194
  | aadd (w : Bundle) -- R199
  | amin (w : Bundle) -- R199
  | amax (w : Bundle) -- R199
  | aminn (w : Bundle) -- R199
  | amaxn (w : Bundle) -- R199
  | aand (w : Bundle) -- R199
  | aor (w : Bundle) -- R199
  | axor (w : Bundle) -- R199
  | aswp (w : Bundle) -- R199
  | acas (w : Bundle) -- R199
  | afadd (w : Bundle) -- R199
  | ahnd (w : Bundle) -- R200
  | fence (w : Bundle) -- R201
  | spawn (w : Bundle) -- R209
  | succ (w : Bundle) -- R207
  | relev (w : Bundle) -- R208
  | endTask (w : Bundle) -- R211
  | getid (w : Bundle) -- R212
  | tmr (w : Bundle) -- R210
  | migr (w : Bundle) -- R212
  | send (w : Bundle) -- R213
  | reply (w : Bundle) -- R213
  | cmask (w : Bundle) -- R217
  | cunmask (w : Bundle) -- R217
  | chbind (w : Bundle) -- R218
  | arrive (w : Bundle) -- R220
  | bwait (w : Bundle) -- R222
  | cpy (w : Bundle) -- R225
  | cpyx (w : Bundle) -- R225
  | cpytst (w : Bundle) -- R227
  | lxload (w : Bundle) -- R228
  | coll (w : Bundle) -- R226
  | uepost (w : Bundle) -- R226
  | uepop (w : Bundle) -- R227
  | ctrw (w : Bundle) -- R231
  | vlds (w : Bundle) -- R155
  | vsts (w : Bundle) -- R155
  | vgather (w : Bundle) -- R156
  | baddq (w : Bundle) -- R334
  | vscatter (w : Bundle) -- R156
  | trap (w : Bundle) -- R126
  | eret (w : Bundle) -- R127
  | getc (w : Bundle) -- R128
  | setc (w : Bundle) -- R128
  | rdtime (w : Bundle) -- R129
  | fencei (w : Bundle) -- R130
  | brk (w : Bundle) -- R126
  | idle (w : Bundle) -- R131
  | messageEjection (msg : Nat) -- R326
  | holdStoreEntry (router : Nat) -- R326
  | framePush (core : Nat) -- R252
  | trapHandlerStart (core : Nat) -- R412
  | vectorBundleCompletion (core level : Nat) -- R137
  | matrixJobStart (core level : Nat) -- R170
  | matrixUnit (tile : Nat) -- R163
  | matrixJobCompletion (core level : Nat) -- R171
  | loadCompletion (op : Nat) -- R196
  | storePerformed (op : Nat) -- R196
  | homeAccess (op elem : Nat) -- R282
  | cacheFill (line : Nat) -- R360
  | atomicUnitOp (op : Nat) -- R329
  | ahndTimeout (op : Nat) -- R200
  | timerExpiry (core timer : Nat) -- R210
  | followTimeout (core : Nat) -- R119
  | forwardedBundle (core : Nat) -- R120
  | followerOverrunDetach (core : Nat) -- R121
  | migrationSend (core : Nat) -- R270
  | migrationArrival (core : Nat) -- R271
  | endNotice (core task : Nat) -- R273
  | governorPlacement (die : Nat) -- R262
  | governorForward (die task : Nat) -- R263
  | rangeRetire (die task : Nat) -- R264
  | stealRequest (die neighbour : Nat) -- R265
  | stealAnswer (die neighbour : Nat) -- R265
  | barrierArrival (msg : Nat) -- R267
  | channelAck (sender target words : Nat) -- R328
  | copySegmentStart (job : Nat) -- R308
  | copySegmentPerformed (job seg : Nat) -- R308
  | copyJobCompletion (job : Nat) -- R310
  | multicastAck (job superGroup : Nat) -- R316
  | copyTimeout (job : Nat) -- R310
  | collectiveBlockCombine (coll block : Nat) -- R333
  | collectiveJobCompletion (coll : Nat) -- R331
  | collectiveBlockTimeout (coll block : Nat) -- R335
  | cqOverflowEntry (tag : Nat) -- R418
  | ringEntryTake (fn queue : Nat) -- R391
  | launchStart (tag tile : Nat) -- R356
  | launchEnd (tag : Nat) -- R357
  | instanceComplete (tag binding inst : Nat) -- R357
  | invalidationComplete -- R379
  | ueJobCompletion (job : Nat) -- R408
  | reservedEncoding (bad : BadBundle) -- R88
  | routerFlitPlacement -- R321
  | arrivalAcknowledgement (core : Nat) -- R220
  | launchDoorbell (fn : HostFn) (queue tail : Nat) -- R391
  | queueOverClear (fn : HostFn) (queue : Nat) -- R389
  | queueFaultClear (fn : HostFn) (queue : Nat) -- R389
  | registerWrite (fn : HostFn) (offset : Nat) (value : Word) -- R389
  | invalidationRequest (request : InvalRequest) -- R379
  | hostBar2Write (fn : HostFn) (offset : Nat) (data : List Byte) -- R387
  | hostBar2Read (fn : HostFn) (offset len : Nat) -- R387
  | pcieCompletion (op elem : Nat) (data : List Byte) (ok : Bool) -- R388
  | pcieCompletionTimeout (op elem : Nat) -- R388
  | functionLevelReset (fn : Nat) -- R419
  | dieReset (die : Nat) -- R419
  | dieReady (die : Nat) -- R419
  | ideIntegrityFailure (stream : Nat) -- R393
  | stopInterface (fn : Nat) -- R394
  | scaleupPacketReceive (packet : ScalePacket) -- R397
  | scaleupAck (peer cls upTo : Nat) (missing : List Nat) -- R397
  | scaleupRetransmitTimeout (peer cls seq : Nat) -- R397
  | uePacketReceive (packet : UePacket) -- R404
  | ueReadRequest (packet : UePacket) -- R405
  | ueReadResponse (packet : UePacket) -- R406
  | ueAck (ctx endpoint : Nat) (cumulative : AckPoint) (bitmap : Word) -- R407
  | ueRetransmitTimeout (ctx endpoint psn : Nat) -- R407
  | gangReady (pkg : Nat) (at_ : SwitchAt) -- R367
  | gangGo (at_ : SwitchAt) -- R367
  | gangSwitch (at_ : SwitchAt) -- R368
  | tileWithdrawal (tile : Nat) -- R373
  | patrolScrub (line : Nat) (finding : Option EccFinding) -- R423
  | powerGood (slotA slotB : Option BootImage) (dramOk linkOk : Bool) -- R427
  | recgo (value : Word) (image : Option BootImage) -- R429
  | pcapWrite (value : Word) -- R435
  | tlimWrite (value : Word) -- R435
  | counterRead (register : RegisterAt) -- R436
  | powerControlPeriod (watts : Nat) -- R433
  | temperatureSample (compute bedstone sluice : List Nat) -- R433
  | getCertificate (fn : Nat) -- R431
  | challenge (fn : Nat) -- R431
  | getMeasurements (fn : Nat) (signed : Bool) -- R431
  | keyExchange (fn : Nat) -- R431
  | ideKm (fn stream : Nat) (key : Word) -- R393
  | lockInterface (fn : Nat) -- R394
  | startInterface (fn stream : Nat) -- R394
  | configurationRequest (fn : Nat) (write : Bool) -- R427
  | tenantTableWrite (tenant : Nat) (entry : TenantEntry) -- R362
  | routeTableWrite (pkg mask : Nat) -- R396
  | connectionRestore (peer cls : Nat) -- R399
  | scaleupLinkDown (port : Nat) -- R397
  | scaleupLinkUp (port : Nat) -- R397
  | contextHalt (tag : Nat) -- R364
  | haltedContextResume (tag : Nat) -- R364
  | networkContextWrite (index : Nat) (context : Option NetContext) -- R403
  | policySetting (policy : Policy) (value : Nat) -- R425
  | gangSwitchPreparation (at_ : SwitchAt) (incoming outgoing pkgs : List Nat) (ready : Bool) -- R367
  | bedstoneDieReset (die : Nat) -- R424
  | powerLoss (leafProgrammed : Bool) -- R430
  deriving DecidableEq, Repr

/-- The bundle constructors: the instruction of a slot with its bundle. -/
def Op.instr (o : Op) (b : Bundle) : Instr :=
  match o with
  | .add => .add b
  | .sub => .sub b
  | .and => .and b
  | .or => .or b
  | .xor => .xor b
  | .andn => .andn b
  | .shl => .shl b
  | .shr => .shr b
  | .sar => .sar b
  | .mul => .mul b
  | .mulh => .mulh b
  | .div => .div b
  | .rem => .rem b
  | .min => .min b
  | .max => .max b
  | .mov => .mov b
  | .li => .li b
  | .lih => .lih b
  | .addi => .addi b
  | .cmpeq => .cmpeq b
  | .cmpne => .cmpne b
  | .cmplt => .cmplt b
  | .cmpltn => .cmpltn b
  | .cmple => .cmple b
  | .sel => .sel b
  | .lea => .lea b
  | .clz => .clz b
  | .popc => .popc b
  | .sext => .sext b
  | .zext => .zext b
  | .b => .b b
  | .bz => .bz b
  | .bnz => .bnz b
  | .beq => .beq b
  | .bne => .bne b
  | .blt => .blt b
  | .bge => .bge b
  | .bltn => .bltn b
  | .call => .call b
  | .ret => .ret b
  | .jr => .jr b
  | .loop => .loop b
  | .ld => .ld b
  | .st => .st b
  | .ldf => .ldf b
  | .stf => .stf b
  | .lsp => .lsp b
  | .ssp => .ssp b
  | .vadd => .vadd b
  | .vmul => .vmul b
  | .vfma => .vfma b
  | .vld => .vld b
  | .vst => .vst b
  | .vbcast => .vbcast b
  | .lead => .lead b
  | .follow => .follow b
  | .detach => .detach b
  | .wait => .wait b
  | .claim => .claim b
  | .release => .release b
  | .vaddP1 => .vaddP1 b
  | .vsub => .vsub b
  | .vmulP1 => .vmulP1 b
  | .vfmaP1 => .vfmaP1 b
  | .vfms => .vfms b
  | .vfnma => .vfnma b
  | .vmin => .vmin b
  | .vmax => .vmax b
  | .vabs => .vabs b
  | .vneg => .vneg b
  | .vdiv => .vdiv b
  | .vsqrt => .vsqrt b
  | .vrcp => .vrcp b
  | .vrsq => .vrsq b
  | .vexp2 => .vexp2 b
  | .vlog2 => .vlog2 b
  | .vtanh => .vtanh b
  | .viadd => .viadd b
  | .visub => .visub b
  | .vimul => .vimul b
  | .vimad => .vimad b
  | .vand => .vand b
  | .vor => .vor b
  | .vxor => .vxor b
  | .vshl => .vshl b
  | .vshr => .vshr b
  | .vsar => .vsar b
  | .vcmp => .vcmp b
  | .vsel => .vsel b
  | .vcvt => .vcvt b
  | .vqnt => .vqnt b
  | .vdqnt => .vdqnt b
  | .vbpn => .vbpn b
  | .vbpj => .vbpj b
  | .vext => .vext b
  | .vins => .vins b
  | .vperm => .vperm b
  | .vslide => .vslide b
  | .vzip => .vzip b
  | .vunzip => .vunzip b
  | .vredsum => .vredsum b
  | .vredmax => .vredmax b
  | .vredmin => .vredmin b
  | .vscan => .vscan b
  | .vchadd => .vchadd b
  | .vchmax => .vchmax b
  | .vchst => .vchst b
  | .kand => .kand b
  | .kor => .kor b
  | .kxor => .kxor b
  | .knot => .knot b
  | .kpopc => .kpopc b
  | .kmov => .kmov b
  | .kffs => .kffs b
  | .mulhn => .mulhn b
  | .divn => .divn b
  | .remn => .remn b
  | .minn => .minn b
  | .maxn => .maxn b
  | .ctz => .ctz b
  | .rol => .rol b
  | .bgen => .bgen b
  | .cmplen => .cmplen b
  | .mstat => .mstat b
  | .mswap => .mswap b
  | .mstream => .mstream b
  | .mstreamt => .mstreamt b
  | .mf64 => .mf64 b
  | .mbpn4 => .mbpn4 b
  | .mbpn8 => .mbpn8 b
  | .mzero => .mzero b
  | .mrd => .mrd b
  | .mwr => .mwr b
  | .macs => .macs b
  | .msac => .msac b
  | .mtest => .mtest b
  | .rtab => .rtab b
  | .rank => .rank b
  | .rankch => .rankch b
  | .rstream => .rstream b
  | .rstreamch => .rstreamch b
  | .rrecon => .rrecon b
  | .ldsx => .ldsx b
  | .aadd => .aadd b
  | .amin => .amin b
  | .amax => .amax b
  | .aminn => .aminn b
  | .amaxn => .amaxn b
  | .aand => .aand b
  | .aor => .aor b
  | .axor => .axor b
  | .aswp => .aswp b
  | .acas => .acas b
  | .afadd => .afadd b
  | .ahnd => .ahnd b
  | .fence => .fence b
  | .spawn => .spawn b
  | .succ => .succ b
  | .relev => .relev b
  | .endTask => .endTask b
  | .getid => .getid b
  | .tmr => .tmr b
  | .migr => .migr b
  | .send => .send b
  | .reply => .reply b
  | .cmask => .cmask b
  | .cunmask => .cunmask b
  | .chbind => .chbind b
  | .arrive => .arrive b
  | .bwait => .bwait b
  | .cpy => .cpy b
  | .cpyx => .cpyx b
  | .cpytst => .cpytst b
  | .lxload => .lxload b
  | .coll => .coll b
  | .uepost => .uepost b
  | .uepop => .uepop b
  | .ctrw => .ctrw b
  | .vlds => .vlds b
  | .vsts => .vsts b
  | .vgather => .vgather b
  | .baddq => .baddq b
  | .vscatter => .vscatter b
  | .trap => .trap b
  | .eret => .eret b
  | .getc => .getc b
  | .setc => .setc b
  | .rdtime => .rdtime b
  | .fencei => .fencei b
  | .brk => .brk b
  | .idle => .idle b

/-- The slot and the bundle of an encoded instruction; none for the other steps. -/
def Instr.code? : Instr → Option (Op × Bundle)
  | .add w => some (.add, w)
  | .sub w => some (.sub, w)
  | .and w => some (.and, w)
  | .or w => some (.or, w)
  | .xor w => some (.xor, w)
  | .andn w => some (.andn, w)
  | .shl w => some (.shl, w)
  | .shr w => some (.shr, w)
  | .sar w => some (.sar, w)
  | .mul w => some (.mul, w)
  | .mulh w => some (.mulh, w)
  | .div w => some (.div, w)
  | .rem w => some (.rem, w)
  | .min w => some (.min, w)
  | .max w => some (.max, w)
  | .mov w => some (.mov, w)
  | .li w => some (.li, w)
  | .lih w => some (.lih, w)
  | .addi w => some (.addi, w)
  | .cmpeq w => some (.cmpeq, w)
  | .cmpne w => some (.cmpne, w)
  | .cmplt w => some (.cmplt, w)
  | .cmpltn w => some (.cmpltn, w)
  | .cmple w => some (.cmple, w)
  | .sel w => some (.sel, w)
  | .lea w => some (.lea, w)
  | .clz w => some (.clz, w)
  | .popc w => some (.popc, w)
  | .sext w => some (.sext, w)
  | .zext w => some (.zext, w)
  | .b w => some (.b, w)
  | .bz w => some (.bz, w)
  | .bnz w => some (.bnz, w)
  | .beq w => some (.beq, w)
  | .bne w => some (.bne, w)
  | .blt w => some (.blt, w)
  | .bge w => some (.bge, w)
  | .bltn w => some (.bltn, w)
  | .call w => some (.call, w)
  | .ret w => some (.ret, w)
  | .jr w => some (.jr, w)
  | .loop w => some (.loop, w)
  | .ld w => some (.ld, w)
  | .st w => some (.st, w)
  | .ldf w => some (.ldf, w)
  | .stf w => some (.stf, w)
  | .lsp w => some (.lsp, w)
  | .ssp w => some (.ssp, w)
  | .vadd w => some (.vadd, w)
  | .vmul w => some (.vmul, w)
  | .vfma w => some (.vfma, w)
  | .vld w => some (.vld, w)
  | .vst w => some (.vst, w)
  | .vbcast w => some (.vbcast, w)
  | .lead w => some (.lead, w)
  | .follow w => some (.follow, w)
  | .detach w => some (.detach, w)
  | .wait w => some (.wait, w)
  | .claim w => some (.claim, w)
  | .release w => some (.release, w)
  | .vaddP1 w => some (.vaddP1, w)
  | .vsub w => some (.vsub, w)
  | .vmulP1 w => some (.vmulP1, w)
  | .vfmaP1 w => some (.vfmaP1, w)
  | .vfms w => some (.vfms, w)
  | .vfnma w => some (.vfnma, w)
  | .vmin w => some (.vmin, w)
  | .vmax w => some (.vmax, w)
  | .vabs w => some (.vabs, w)
  | .vneg w => some (.vneg, w)
  | .vdiv w => some (.vdiv, w)
  | .vsqrt w => some (.vsqrt, w)
  | .vrcp w => some (.vrcp, w)
  | .vrsq w => some (.vrsq, w)
  | .vexp2 w => some (.vexp2, w)
  | .vlog2 w => some (.vlog2, w)
  | .vtanh w => some (.vtanh, w)
  | .viadd w => some (.viadd, w)
  | .visub w => some (.visub, w)
  | .vimul w => some (.vimul, w)
  | .vimad w => some (.vimad, w)
  | .vand w => some (.vand, w)
  | .vor w => some (.vor, w)
  | .vxor w => some (.vxor, w)
  | .vshl w => some (.vshl, w)
  | .vshr w => some (.vshr, w)
  | .vsar w => some (.vsar, w)
  | .vcmp w => some (.vcmp, w)
  | .vsel w => some (.vsel, w)
  | .vcvt w => some (.vcvt, w)
  | .vqnt w => some (.vqnt, w)
  | .vdqnt w => some (.vdqnt, w)
  | .vbpn w => some (.vbpn, w)
  | .vbpj w => some (.vbpj, w)
  | .vext w => some (.vext, w)
  | .vins w => some (.vins, w)
  | .vperm w => some (.vperm, w)
  | .vslide w => some (.vslide, w)
  | .vzip w => some (.vzip, w)
  | .vunzip w => some (.vunzip, w)
  | .vredsum w => some (.vredsum, w)
  | .vredmax w => some (.vredmax, w)
  | .vredmin w => some (.vredmin, w)
  | .vscan w => some (.vscan, w)
  | .vchadd w => some (.vchadd, w)
  | .vchmax w => some (.vchmax, w)
  | .vchst w => some (.vchst, w)
  | .kand w => some (.kand, w)
  | .kor w => some (.kor, w)
  | .kxor w => some (.kxor, w)
  | .knot w => some (.knot, w)
  | .kpopc w => some (.kpopc, w)
  | .kmov w => some (.kmov, w)
  | .kffs w => some (.kffs, w)
  | .mulhn w => some (.mulhn, w)
  | .divn w => some (.divn, w)
  | .remn w => some (.remn, w)
  | .minn w => some (.minn, w)
  | .maxn w => some (.maxn, w)
  | .ctz w => some (.ctz, w)
  | .rol w => some (.rol, w)
  | .bgen w => some (.bgen, w)
  | .cmplen w => some (.cmplen, w)
  | .mstat w => some (.mstat, w)
  | .mswap w => some (.mswap, w)
  | .mstream w => some (.mstream, w)
  | .mstreamt w => some (.mstreamt, w)
  | .mf64 w => some (.mf64, w)
  | .mbpn4 w => some (.mbpn4, w)
  | .mbpn8 w => some (.mbpn8, w)
  | .mzero w => some (.mzero, w)
  | .mrd w => some (.mrd, w)
  | .mwr w => some (.mwr, w)
  | .macs w => some (.macs, w)
  | .msac w => some (.msac, w)
  | .mtest w => some (.mtest, w)
  | .rtab w => some (.rtab, w)
  | .rank w => some (.rank, w)
  | .rankch w => some (.rankch, w)
  | .rstream w => some (.rstream, w)
  | .rstreamch w => some (.rstreamch, w)
  | .rrecon w => some (.rrecon, w)
  | .ldsx w => some (.ldsx, w)
  | .aadd w => some (.aadd, w)
  | .amin w => some (.amin, w)
  | .amax w => some (.amax, w)
  | .aminn w => some (.aminn, w)
  | .amaxn w => some (.amaxn, w)
  | .aand w => some (.aand, w)
  | .aor w => some (.aor, w)
  | .axor w => some (.axor, w)
  | .aswp w => some (.aswp, w)
  | .acas w => some (.acas, w)
  | .afadd w => some (.afadd, w)
  | .ahnd w => some (.ahnd, w)
  | .fence w => some (.fence, w)
  | .spawn w => some (.spawn, w)
  | .succ w => some (.succ, w)
  | .relev w => some (.relev, w)
  | .endTask w => some (.endTask, w)
  | .getid w => some (.getid, w)
  | .tmr w => some (.tmr, w)
  | .migr w => some (.migr, w)
  | .send w => some (.send, w)
  | .reply w => some (.reply, w)
  | .cmask w => some (.cmask, w)
  | .cunmask w => some (.cunmask, w)
  | .chbind w => some (.chbind, w)
  | .arrive w => some (.arrive, w)
  | .bwait w => some (.bwait, w)
  | .cpy w => some (.cpy, w)
  | .cpyx w => some (.cpyx, w)
  | .cpytst w => some (.cpytst, w)
  | .lxload w => some (.lxload, w)
  | .coll w => some (.coll, w)
  | .uepost w => some (.uepost, w)
  | .uepop w => some (.uepop, w)
  | .ctrw w => some (.ctrw, w)
  | .vlds w => some (.vlds, w)
  | .vsts w => some (.vsts, w)
  | .vgather w => some (.vgather, w)
  | .baddq w => some (.baddq, w)
  | .vscatter w => some (.vscatter, w)
  | .trap w => some (.trap, w)
  | .eret w => some (.eret, w)
  | .getc w => some (.getc, w)
  | .setc w => some (.setc, w)
  | .rdtime w => some (.rdtime, w)
  | .fencei w => some (.fencei, w)
  | .brk w => some (.brk, w)
  | .idle w => some (.idle, w)
  | .messageEjection _ => none
  | .holdStoreEntry _ => none
  | .framePush _ => none
  | .trapHandlerStart _ => none
  | .vectorBundleCompletion _ _ => none
  | .matrixJobStart _ _ => none
  | .matrixUnit _ => none
  | .matrixJobCompletion _ _ => none
  | .loadCompletion _ => none
  | .storePerformed _ => none
  | .homeAccess _ _ => none
  | .cacheFill _ => none
  | .atomicUnitOp _ => none
  | .ahndTimeout _ => none
  | .timerExpiry _ _ => none
  | .followTimeout _ => none
  | .forwardedBundle _ => none
  | .followerOverrunDetach _ => none
  | .migrationSend _ => none
  | .migrationArrival _ => none
  | .endNotice _ _ => none
  | .governorPlacement _ => none
  | .governorForward _ _ => none
  | .rangeRetire _ _ => none
  | .stealRequest _ _ => none
  | .stealAnswer _ _ => none
  | .barrierArrival _ => none
  | .channelAck _ _ _ => none
  | .copySegmentStart _ => none
  | .copySegmentPerformed _ _ => none
  | .copyJobCompletion _ => none
  | .multicastAck _ _ => none
  | .copyTimeout _ => none
  | .collectiveBlockCombine _ _ => none
  | .collectiveJobCompletion _ => none
  | .collectiveBlockTimeout _ _ => none
  | .cqOverflowEntry _ => none
  | .launchDoorbell _ _ _ => none
  | .ringEntryTake _ _ => none
  | .launchStart _ _ => none
  | .launchEnd _ => none
  | .instanceComplete _ _ _ => none
  | .queueOverClear _ _ => none
  | .queueFaultClear _ _ => none
  | .registerWrite _ _ _ => none
  | .invalidationRequest _ => none
  | .invalidationComplete => none
  | .hostBar2Write _ _ _ => none
  | .hostBar2Read _ _ _ => none
  | .pcieCompletion _ _ _ _ => none
  | .pcieCompletionTimeout _ _ => none
  | .functionLevelReset _ => none
  | .dieReset _ => none
  | .dieReady _ => none
  | .ideIntegrityFailure _ => none
  | .stopInterface _ => none
  | .scaleupPacketReceive _ => none
  | .scaleupAck _ _ _ _ => none
  | .scaleupRetransmitTimeout _ _ _ => none
  | .uePacketReceive _ => none
  | .ueReadRequest _ => none
  | .ueReadResponse _ => none
  | .ueAck _ _ _ _ => none
  | .ueRetransmitTimeout _ _ _ => none
  | .ueJobCompletion _ => none
  | .gangReady _ _ => none
  | .gangGo _ => none
  | .gangSwitch _ => none
  | .tileWithdrawal _ => none
  | .patrolScrub _ _ => none
  | .powerGood _ _ _ _ => none
  | .recgo _ _ => none
  | .pcapWrite _ => none
  | .tlimWrite _ => none
  | .counterRead _ => none
  | .powerControlPeriod _ => none
  | .temperatureSample _ _ _ => none
  | .getCertificate _ => none
  | .challenge _ => none
  | .getMeasurements _ _ => none
  | .keyExchange _ => none
  | .ideKm _ _ _ => none
  | .reservedEncoding _ => none
  | .routerFlitPlacement => none
  | .arrivalAcknowledgement _ => none
  | .lockInterface _ => none
  | .startInterface _ _ => none
  | .configurationRequest _ _ => none
  | .tenantTableWrite _ _ => none
  | .routeTableWrite _ _ => none
  | .connectionRestore _ _ => none
  | .scaleupLinkDown _ => none
  | .scaleupLinkUp _ => none
  | .contextHalt _ => none
  | .haltedContextResume _ => none
  | .networkContextWrite _ _ => none
  | .policySetting _ _ => none
  | .gangSwitchPreparation _ _ _ _ _ => none
  | .bedstoneDieReset _ => none
  | .powerLoss _ => none

end Sys2Proof
end

