-- ==== Sys2Proof/WellFormed.lean ====
section
/-! DEFINITION. Well-formed operations: a bundle that R79 lets stand before its instruction word and whose fields are legal for the
instruction (spec 03 R82 check 5, R83 to R87); an event whose numbers lie in the ranges of the agents they name. -/

namespace Sys2Proof

/-- R79: the chain has at most four words, and an instruction of a page other than 0 has its PGX word. -/
def Bundle.chainOk (op : Op) (w : Bundle) : Bool :=
  decide (w.chainLength ≤ 4) && (w.pgx || op.page == 0)

/-- A well-formed bundle of an instruction. -/
def Bundle.wf (op : Op) (w : Bundle) : Bool := w.chainOk op && Machine.legal op w

/-- The ranges of an event's numbers (00 R5, R6; 07 R210; 09 R248; 14 R386, R389; 16 R428). -/
def eventWf : Instr → Bool
  | .holdStoreEntry r => decide (r < 512)
  | .vectorBundleCompletion _ l => decide (l < 8)
  | .matrixJobStart _ l => decide (l < 8)
  | .matrixJobCompletion _ l => decide (l < 8)
  | .matrixUnit t => decide (t < 512)
  | .timerExpiry _ t => decide (t < 8)
  | .governorPlacement d => decide (d < 8)
  | .governorForward d _ => decide (d < 8)
  | .rangeRetire d _ => decide (d < 8)
  | .stealRequest d n => decide (d < 8) && decide (n < 8)
  | .stealAnswer d n => decide (d < 8) && decide (n < 8)
  | .dieReset d => decide (d < 8)
  | .dieReady d => decide (d < 8)
  | .bedstoneDieReset d => decide (d < 12)
  | .tileWithdrawal t => decide (t < 512)
  | .tenantTableWrite t _ => decide (t < 64)
  | .networkContextWrite i _ => decide (i < 256)
  | .routeTableWrite p _ => decide (p < 1024)
  | .launchDoorbell _ q _ => decide (q < 16)
  | .ringEntryTake _ q => decide (q < 16)
  | .queueOverClear _ q => decide (q < 16)
  | .queueFaultClear _ q => decide (q < 16)
  | _ => true

/-- A well-formed operation. -/
def Instr.wf (i : Instr) : Bool :=
  match i.code? with
  | some (op, w) => w.wf op
  | none => eventWf i

end Sys2Proof
end

