-- ==== Sys2Proof/Decode.lean ====
section
/-! DEFINITION. Decoding of bundles (spec 03 R77 to R81, R88 to R94), total on any words, rejecting by name; and the encoder written
from the same tables. The legality of fields (R82 check 5) is no matter of decoding: it is checked after the profile, by the
instruction's meaning. -/

namespace Sys2Proof

/-- The fields of a word (R77). -/
def wordOp6 (w : IWord) : Nat := w.toNat / 1024
def wordA (w : IWord) : BitVec 5 := w.extractLsb' 5 5
def wordB (w : IWord) : BitVec 5 := w.extractLsb' 0 5
def wordPayload (w : IWord) : BitVec 10 := w.extractLsb' 0 10

/-- Whether a word belongs to a chain (R78). -/
def isChainWord (w : IWord) : Bool := decide (60 ≤ wordOp6 w)

/-- The payload of an RGX word (R78). -/
def decodeRgx (p : BitVec 10) : Rgx :=
  { c := p.extractLsb' 5 5, a5 := p.getLsbD 4, b5 := p.getLsbD 3, hold := p.extractLsb' 0 3 }

/-- The payload of a QLX word (R78). -/
def decodeQlx (p : BitVec 10) : Qlx :=
  { pred := p.extractLsb' 7 3, neg := p.getLsbD 6, scope := p.extractLsb' 3 3, ord := p.extractLsb' 1 2, flag := p.getLsbD 0 }

/-- A chain as it is gathered: the IMX payloads in order and the payloads of the other words, with a note of each repeat (R79). -/
structure Chain where
  imx : List (BitVec 10)
  rgx : Option (BitVec 10)
  pgx : Option (BitVec 10)
  qlx : Option (BitVec 10)
  twice : Option BadBundle
  deriving DecidableEq, Repr

def Chain.empty : Chain := { imx := [], rgx := none, pgx := none, qlx := none, twice := none }

/-- The chain with one more word (R78, R79). -/
def Chain.add (c : Chain) (w : IWord) : Chain :=
  let p := wordPayload w
  match wordOp6 w with
  | 60 => { c with imx := c.imx ++ [p] }
  | 61 => if c.rgx.isSome then { c with twice := some .secondRgx } else { c with rgx := some p }
  | 62 => if c.pgx.isSome then { c with twice := some .secondPgx } else { c with pgx := some p }
  | _ => if c.qlx.isSome then { c with twice := some .secondQlx } else { c with qlx := some p }

/-- The instruction of a chain and its instruction word, or the reason there is none (R79, R88). -/
def finishBundle (c : Chain) (w : IWord) : Except BadBundle Instr :=
  match c.twice with
  | some bad => .error bad
  | none =>
    let page := (c.pgx.map (·.toNat)).getD 0
    if 5 < page then .error .undefinedPage
    else
      match slotOp page (wordOp6 w) with
      | none => .error .unassignedSlot
      | some op =>
        .ok (op.instr { a := wordA w, b := wordB w, imx := c.imx, rgx := c.rgx.map decodeRgx, qlx := c.qlx.map decodeQlx,
                        pgx := c.pgx.isSome })

/-- What a run of words holds: too few words to be a bundle, a bundle that R79 or R88 rejects with the number of words it takes,
or an instruction with the number of words it takes. -/
inductive Decoded where
  | more
  | bad (why : BadBundle) (words : Nat)
  | instr (i : Instr) (words : Nat)
  deriving DecidableEq, Repr

/-- `decode` of R81 after n words of the chain. -/
def decodeFrom (c : Chain) (n : Nat) : List IWord → Decoded
  | [] => .more
  | w :: rest =>
    if isChainWord w then
      if n = 4 then .bad .fiveChainWords 5 else decodeFrom (c.add w) (n + 1) rest
    else
      match finishBundle c w with
      | .ok i => .instr i (n + 1)
      | .error bad => .bad bad (n + 1)

/-- `decode` of R81: the first bundle of a list of words. -/
def decode (ws : List IWord) : Decoded := decodeFrom .empty 0 ws

/-- An instruction word (R77). -/
def encodeWord (op6 : Nat) (a b : BitVec 5) : IWord := BitVec.ofNat 16 (op6 * 1024 + a.toNat * 32 + b.toNat)

/-- A word of a chain (R78). -/
def encodeChainWord (op6 : Nat) (p : BitVec 10) : IWord := BitVec.ofNat 16 (op6 * 1024 + p.toNat)

def encodeRgx (r : Rgx) : BitVec 10 :=
  BitVec.ofNat 10 (r.c.toNat * 32 + (if r.a5 then 16 else 0) + (if r.b5 then 8 else 0) + r.hold.toNat)

def encodeQlx (q : Qlx) : BitVec 10 :=
  BitVec.ofNat 10 (q.pred.toNat * 128 + (if q.neg then 64 else 0) + q.scope.toNat * 8 + q.ord.toNat * 2 + (if q.flag then 1 else 0))

/-- The words of a bundle of an instruction, in the order of R98: IMX, RGX, QLX, PGX, the instruction word. -/
def encodeBundle (op : Op) (w : Bundle) : List IWord :=
  w.imx.map (encodeChainWord 60) ++
    (w.rgx.map (fun r => encodeChainWord 61 (encodeRgx r))).toList ++
    (w.qlx.map (fun q => encodeChainWord 63 (encodeQlx q))).toList ++
    (if w.pgx then [encodeChainWord 62 (BitVec.ofNat 10 op.page)] else []) ++
    [encodeWord op.op6 w.a w.b]

/-- The words of an instruction; the steps of other agents have none. -/
def encode (i : Instr) : List IWord :=
  match i.code? with
  | some (op, w) => encodeBundle op w
  | none => []

/-- The 16-bit words of a number whose low bits are the first word. -/
def splitWords (w : Nat) : Nat → List IWord
  | 0 => []
  | n + 1 => BitVec.ofNat 16 w :: splitWords (w / 65536) n

/-- What the decoder reads from an instruction numbered as spec/opcode_table.json numbers it: the words of `w` and zero words up to
the longest bundle (R79). -/
def decodeTableWord (nbits w : Nat) : Option Instr :=
  match decode (splitWords (w % 2 ^ nbits) 5) with
  | .instr i _ => some i
  | _ => none

end Sys2Proof
end

