-- ==== Sys2Proof/Config.lean ====
section
/-! DEFINITION. What an implementation fixes and the spec leaves open: constants without a body (free values, log entry 3), and
the sizes that the spec binds. -/

namespace Sys2Proof.Config

/-- Free value (log entry 3): which entry of a full translation buffer or instruction cache is displaced; spec 13 R377 and 08 R233
give the sizes and no replacement rule. Indexed by the state's counter. -/
opaque victim : Nat → Nat

/-- Free value (log entry 3): the handle of a Primrose reply. -/
opaque reply : Nat → Word

/-- Free values (log entry 3) of what 16 R431 measures and the spec does not give: the digest of the Snowdrop ROM, and the fuses that are blown at
manufacture. -/
opaque romHash : BitVec 256
opaque fuseBytes : List Byte

/-- Free value (log entry 3): the stepping and the two fused-out tiles of each compute die (16 R435), fixed at manufacture. -/
opaque stepping : BitVec 4
opaque fusedTile : Nat → Nat → Nat

/-- Free values (log entry 3) of the identity tree (16 R430), which a fused secret gives: the identifier and root of its public key, the 1,120 bytes after the
type of the one-time signature of a leaf over a message, the 640 bytes of a leaf's path. -/
opaque identity : BitVec 384
opaque lmsOts : Nat → List Byte → BitVec 8960
opaque lmsPath : Nat → BitVec 5120

/-- Free values (log entry 3) of 16 R430 and R431: what stands before and after the identity key in the certificate chain; the point, the secret and the MAC of a
key exchange, by the state's counter. -/
opaque certHead : List Byte
opaque certTail : List Byte
opaque exchangePoint : Nat → BitVec 768
opaque exchangeSecret : Nat → BitVec 384
opaque exchangeMac : Nat → BitVec 256

/-- Free value (log entry 3): the hash fused for a key slot of the boot image and whether that slot is revoked (16 R428). -/
opaque fusedKeyHash : Nat → BitVec 256
opaque keySlotRevoked : Nat → Bool

/-- Free values (log entry 3) of Ultra Ethernet, whose algorithms spec 14 R402 does not give: the entropy value of a packet, and the packets that congestion
control lets stand unacknowledged, by the policy parameters. -/
opaque entropy : Nat → Nat
opaque ueWindow : Nat → Word → Nat

/-- Free values (log entry 3) of a step that leaves several open: by the state's counter, which the step then advances, and by their place. -/
opaque choice : Nat → Nat → Nat

end Sys2Proof.Config
end

