-- ==== Sys2Proof/Machine/Flags.lean ====
section
/-! DEFINITION. The floating-point flags (spec 01 R38; 02 R54 to R56, R60): a set of six bits, in the places of `fpflg` and `fpen`. Which
operation sets which is written with its result in Fp.lean. -/

namespace Sys2Proof.Machine

/-- The flags of R38 as a bit set. -/
abbrev Flags := BitVec 6

/-- No flag. -/
def flNone : Flags := 0#6
/-- Invalid operation. -/
def flNV : Flags := 1#6
/-- Division by zero. -/
def flDZ : Flags := 2#6
/-- Overflow. -/
def flOF : Flags := 4#6
/-- Underflow. -/
def flUF : Flags := 8#6
/-- Inexact. -/
def flNX : Flags := 16#6
/-- Saturation. -/
def flSA : Flags := 32#6

end Sys2Proof.Machine
end

