-- ==== Sys2Proof/Machine/Fp.lean ====
section
/-! DEFINITION. Number formats, rounding, overflow, flags and the arithmetic of spec 02 (R47 to R61, R68 to R72). Every finite value
is an exact dyadic number; the only roundings are those the rules write. -/

namespace Sys2Proof.Machine

/-- The floating-point formats of R47 (E8M0 is handled as a scale by itself). -/
inductive FFmt where
  | f64 | f32 | bf16 | f16 | e4m3 | e5m2 | e2m1
  deriving DecidableEq, Repr

/-- Exponent bits of a format (R47). -/
def FFmt.eb : FFmt → Nat
  | .f64 => 11 | .f32 => 8 | .bf16 => 8 | .f16 => 5 | .e4m3 => 4 | .e5m2 => 5 | .e2m1 => 2

/-- Mantissa bits of a format (R47). -/
def FFmt.mb : FFmt → Nat
  | .f64 => 52 | .f32 => 23 | .bf16 => 7 | .f16 => 10 | .e4m3 => 3 | .e5m2 => 2 | .e2m1 => 1

/-- Exponent bias of a format (R47). -/
def FFmt.bias : FFmt → Nat
  | .f64 => 1023 | .f32 => 127 | .bf16 => 127 | .f16 => 15 | .e4m3 => 7 | .e5m2 => 15 | .e2m1 => 1

/-- Bits of an encoding. -/
def FFmt.width (f : FFmt) : Nat := 1 + f.eb + f.mb

/-- The canonical NaN (R47); E2M1 has none and a NaN becomes code 0 (R48). -/
def FFmt.nanCode : FFmt → Nat
  | .f64 => 0x7FF8000000000000 | .f32 => 0x7FC00000 | .bf16 => 0x7FC0 | .f16 => 0x7E00
  | .e4m3 => 0x7F | .e5m2 => 0x7E | .e2m1 => 0

/-- Whether the format has infinities (R47). -/
def FFmt.hasInf : FFmt → Bool
  | .e4m3 => false | .e2m1 => false | _ => true

/-- The code of the largest finite magnitude (R47). -/
def FFmt.maxCode : FFmt → Nat
  | .e4m3 => 0x7E
  | .e2m1 => 0x7
  | f => (2 ^ f.eb - 1) * 2 ^ f.mb - 1

/-- The code of +∞ where the format has one. -/
def FFmt.infCode (f : FFmt) : Nat := (2 ^ f.eb - 1) * 2 ^ f.mb

/-- The sign bit in place. -/
def FFmt.signBit (f : FFmt) (neg : Bool) : Nat := if neg then 2 ^ (f.eb + f.mb) else 0

/-- The deterministic rounding modes of R52, in the codes of `rmode.mode` (R37). -/
inductive RMode where
  | rne | rtz | rdn | rup
  deriving DecidableEq, Repr

def rmodeOf (n : Nat) : RMode :=
  match n % 4 with
  | 0 => .rne | 1 => .rtz | 2 => .rdn | _ => .rup

/-- A number as an instruction reads it or as an exact result: NaN (and whether it must raise nv), an infinity, or a finite value
of magnitude m·2^e; `st` says that the magnitude lies strictly between m·2^e and (m+1)·2^e (a quotient or a root). -/
inductive Num where
  | nan (nv : Bool)
  | inf (neg : Bool)
  | fin (neg : Bool) (m : Nat) (e : Int) (st : Bool)
  deriving DecidableEq, Repr

/-- A value with the flags it raises. -/
structure NumF where
  num : Num
  fl : Flags
  deriving DecidableEq, Repr

/-- R47 to R50: the value of a code. A NaN is signalling when its top mantissa bit is 0 in FP64, FP32, BF16 and FP16 (R48). -/
def decodeF (f : FFmt) (code : Nat) : Num :=
  let neg := code.testBit (f.eb + f.mb)
  let ex := (code / 2 ^ f.mb) % 2 ^ f.eb
  let mant := code % 2 ^ f.mb
  let quietOnly : Bool := f == .e4m3 || f == .e5m2
  if f.hasInf && ex == 2 ^ f.eb - 1 then
    if mant == 0 then .inf neg else .nan (!quietOnly && !mant.testBit (f.mb - 1))
  else if f == .e4m3 && ex == 15 && mant == 7 then .nan false
  else if ex == 0 then .fin neg mant (1 - (f.bias : Int) - f.mb) false
  else .fin neg (mant + 2 ^ f.mb) ((ex : Int) - f.bias - f.mb) false

/-- A zero of a sign. -/
def zeroNum (neg : Bool) : Num := .fin neg 0 0 false

def Num.isNan : Num → Bool
  | .nan _ => true
  | _ => false

def Num.isZero : Num → Bool
  | .fin _ m _ st => m == 0 && !st
  | _ => false

def Num.neg : Num → Num
  | .nan s => .nan s
  | .inf n => .inf (!n)
  | .fin n m e st => .fin (!n) m e st

def Num.abs : Num → Num
  | .nan s => .nan s
  | .inf _ => .inf false
  | .fin _ m e st => .fin false m e st

def Num.isNeg : Num → Bool
  | .nan _ => false
  | .inf n => n
  | .fin n _ _ _ => n

/-- The signed mantissa of a finite value. -/
def signedMant (neg : Bool) (m : Nat) : Int := if neg then -(m : Int) else m

/-- The finite number of an integer mantissa; `zneg` is the sign an exact zero takes. -/
def numOfInt (v : Int) (e : Int) (zneg : Bool) : Num :=
  if v = 0 then zeroNum zneg else .fin (decide (v < 0)) v.natAbs e false

/-- What the narrowing of a magnitude to a format picks (R52): the integer significand, its exponent, and whether a value was lost. -/
structure Pick where
  q : Nat
  qe : Int
  inexact : Bool
  deriving DecidableEq, Repr

/-- R52: the neighbour of a non-zero magnitude among the values of the format with the exponent range extended upwards. -/
def pickNeighbour (f : FFmt) (mode : RMode) (neg : Bool) (m : Nat) (e : Int) (st : Bool) : Pick :=
  let top : Int := e + (Nat.log2 m : Int)
  let qe : Int := max (top - f.mb) (1 - (f.bias : Int) - f.mb)
  let sh : Int := qe - e
  if sh ≤ 0 then { q := m <<< (-sh).toNat, qe := qe, inexact := st }
  else
    let k := sh.toNat
    let q0 := m >>> k
    let rem := m % 2 ^ k
    let half := 2 ^ (k - 1)
    let inexact := rem != 0 || st
    let up : Bool :=
      match mode with
      | .rne => decide (half < rem) || (rem == half && (st || q0 % 2 == 1))
      | .rtz => false
      | .rdn => neg && inexact
      | .rup => !neg && inexact
    { q := if up then q0 + 1 else q0, qe := qe, inexact := inexact }

/-- The code of a picked magnitude, with the exponent field as large as it needs (R52). -/
def pickCode (f : FFmt) (p : Pick) : Nat :=
  if p.q < 2 ^ f.mb then p.q
  else
    let q := if 2 ^ (f.mb + 1) ≤ p.q then p.q / 2 else p.q
    let qe := if 2 ^ (f.mb + 1) ≤ p.q then p.qe + 1 else p.qe
    (qe + f.bias + f.mb).toNat * 2 ^ f.mb + (q - 2 ^ f.mb)

/-- R54: whether overflow in this mode goes away from zero. -/
def directedAway (mode : RMode) (neg : Bool) : Bool :=
  match mode with
  | .rne => true
  | .rtz => false
  | .rup => !neg
  | .rdn => neg

/-- R54: whether the format saturates (`nosat8` = 0, or E2M1). -/
def saturates (f : FFmt) (nosat8 : Bool) : Bool :=
  match f with
  | .e2m1 => true
  | .e4m3 => !nosat8
  | .e5m2 => !nosat8
  | _ => false

/-- R54, finite overflow: the code and the flags. -/
def overflowF (f : FFmt) (mode : RMode) (nosat8 neg : Bool) : Nat × Flags :=
  if saturates f nosat8 then (f.signBit neg + f.maxCode, flSA ||| flOF ||| flNX)
  else if directedAway mode neg then
    ((if f == .e4m3 then f.nanCode else f.signBit neg + f.infCode), flOF ||| flNX)
  else (f.signBit neg + f.maxCode, flOF ||| flNX)

/-- R54, an infinite input. -/
def infF (f : FFmt) (nosat8 neg : Bool) : Nat × Flags :=
  match f with
  | .e2m1 => (f.signBit neg + f.maxCode, flSA)
  | .e4m3 => if nosat8 then (f.nanCode, flNV) else (f.signBit neg + f.maxCode, flSA)
  | _ => (f.signBit neg + f.infCode, flNone)

/-- R48: a NaN result; E2M1 has none and gives +0 with nv. -/
def nanF (f : FFmt) (nv : Bool) : Nat × Flags :=
  (f.nanCode, if nv || f == .e2m1 then flNV else flNone)

/-- How a result is delivered: the mode of R52, `rmode.nosat8` (R54), and `rmode.ftz` where it applies (R55). -/
structure RoundCtl where
  mode : RMode
  nosat8 : Bool
  ftz : Bool
  deriving DecidableEq, Repr

/-- Round to nearest even, honouring subnormals; FP8 and FP4 saturate. -/
def rneCtl : RoundCtl := { mode := .rne, nosat8 := false, ftz := false }

/-- Whether `rmode.ftz` can act on a format (R55). -/
def FFmt.flushes : FFmt → Bool
  | .f64 => true | .f32 => true | .bf16 => true | .f16 => true | _ => false

/-- R55, R56: the delivered code and flags of a picked finite non-zero magnitude. -/
def deliver (f : FFmt) (c : RoundCtl) (neg : Bool) (p : Pick) : Nat × Flags :=
  let code := pickCode f p
  if f.maxCode < code then overflowF f c.mode c.nosat8 neg
  else
    let tiny : Bool := decide (code < 2 ^ f.mb)
    if tiny && c.ftz && f.flushes then (f.signBit neg, flUF ||| flNX)
    else (f.signBit neg + code, (if p.inexact then flNX else flNone) ||| (if tiny && p.inexact then flUF else flNone))

/-- `round(x, fmt, mode)` of R52 with the flags of R54 to R56. -/
def roundF (f : FFmt) (c : RoundCtl) : Num → Nat × Flags
  | .nan nv => nanF f nv
  | .inf neg => infF f c.nosat8 neg
  | .fin neg m e st =>
    if m == 0 && !st then (f.signBit neg, flNone)
    else deliver f c neg (pickNeighbour f c.mode neg m e st)

/-- The delivered value of a result that already carries flags. -/
def roundNF (f : FFmt) (c : RoundCtl) (x : NumF) : Nat × Flags :=
  let r := roundF f c x.num
  (r.1, r.2 ||| x.fl)

/-- R55: an input as `ftz` lets the vector unit read it. -/
def ftzIn (f : FFmt) (ftz : Bool) (x : Num) : Num :=
  match x with
  | .fin neg m e _ =>
    if ftz && f.flushes && m != 0 && decide ((Nat.log2 m : Int) + e < 1 - (f.bias : Int)) then zeroNum neg else .fin neg m e false
  | x => x

/-- A code read by the vector unit. -/
def readF (f : FFmt) (ftz : Bool) (code : Nat) : Num := ftzIn f ftz (decodeF f code)

/-! Exact operations. A NaN operand gives a NaN that raises nv when one of the operands is signalling (R48). -/

def nanOf (a b : Num) : Num :=
  match a, b with
  | .nan s, .nan t => .nan (s || t)
  | .nan s, _ => .nan s
  | _, .nan t => .nan t
  | _, _ => .nan true

/-- a + b; `rdn` decides the sign of an exact zero of operands of opposite sign (R52). -/
def addNum (rdn : Bool) (a b : Num) : Num :=
  match a, b with
  | .nan s, b => nanOf (.nan s) b
  | a, .nan t => nanOf a (.nan t)
  | .inf n, .inf k => if n == k then .inf n else .nan true
  | .inf n, _ => .inf n
  | _, .inf k => .inf k
  | .fin n1 m1 e1 _, .fin n2 m2 e2 _ =>
    let e := min e1 e2
    let v : Int := signedMant n1 (m1 <<< (e1 - e).toNat) + signedMant n2 (m2 <<< (e2 - e).toNat)
    numOfInt v e (if n1 == n2 then n1 else rdn)

/-- a · b. -/
def mulNum (a b : Num) : Num :=
  match a, b with
  | .nan s, b => nanOf (.nan s) b
  | a, .nan t => nanOf a (.nan t)
  | .inf n, b => if b.isZero then .nan true else .inf (n != b.isNeg)
  | a, .inf n => if a.isZero then .nan true else .inf (n != a.isNeg)
  | .fin n1 m1 e1 _, .fin n2 m2 e2 _ =>
    if m1 == 0 || m2 == 0 then zeroNum (n1 != n2) else .fin (n1 != n2) (m1 * m2) (e1 + e2) false

/-- Whether a product is 0 × ∞ (R140). -/
def zeroTimesInf (a b : Num) : Bool :=
  match a, b with
  | .inf _, b => b.isZero
  | a, .inf _ => a.isZero
  | _, _ => false

/-- s · t + d with one rounding to come (R140): 0 × ∞ raises nv even when d is a quiet NaN. -/
def fmaNum (rdn : Bool) (s t d : Num) : Num :=
  if zeroTimesInf s t then .nan true
  else
    match mulNum s t, d with
    | .nan a, .nan b => .nan (a || b)
    | p, d => addNum rdn p d

/-- a / b (R68), with dz for a finite non-zero value over zero (R56). -/
def divNum (a b : Num) : NumF :=
  match a, b with
  | .nan s, b => ⟨nanOf (.nan s) b, flNone⟩
  | a, .nan t => ⟨nanOf a (.nan t), flNone⟩
  | .inf _, .inf _ => ⟨.nan true, flNone⟩
  | .inf n, b => ⟨.inf (n != b.isNeg), flNone⟩
  | a, .inf n => ⟨zeroNum (n != a.isNeg), flNone⟩
  | .fin n1 m1 e1 _, .fin n2 m2 e2 _ =>
    if m2 == 0 then
      if m1 == 0 then ⟨.nan true, flNone⟩ else ⟨.inf (n1 != n2), flDZ⟩
    else if m1 == 0 then ⟨zeroNum (n1 != n2), flNone⟩
    else
      let k := 140 + Nat.log2 m2
      let q := (m1 <<< k) / m2
      ⟨.fin (n1 != n2) q (e1 - e2 - k) ((m1 <<< k) % m2 != 0), flNone⟩

/-- The integer square root, one result bit a step from the highest. -/
def isqrtGo : Nat → Nat → Nat → Nat
  | 0, _, r => r
  | k + 1, n, r =>
    let c := r + 2 ^ k
    isqrtGo k n (if c * c ≤ n then c else r)

def isqrt (n : Nat) : Nat := isqrtGo (Nat.log2 n / 2 + 1) n 0

/-- √a (R68). -/
def sqrtNum (a : Num) : NumF :=
  match a with
  | .nan s => ⟨.nan s, flNone⟩
  | .inf n => if n then ⟨.nan true, flNone⟩ else ⟨.inf false, flNone⟩
  | .fin n m e _ =>
    if m == 0 then ⟨zeroNum n, flNone⟩
    else if n then ⟨.nan true, flNone⟩
    else
      let k := if (e - 260) % 2 = 0 then 260 else 261
      let v := m <<< k
      let r := isqrt v
      ⟨.fin false r ((e - k) / 2) (r * r != v), flNone⟩

/-- 1 / √a (R68). -/
def rsqNum (a : Num) : NumF :=
  match a with
  | .nan s => ⟨.nan s, flNone⟩
  | .inf n => if n then ⟨.nan true, flNone⟩ else ⟨zeroNum false, flNone⟩
  | .fin n m e _ =>
    if m == 0 then ⟨.inf n, flDZ⟩
    else if n then ⟨.nan true, flNone⟩
    else
      let k0 := 280 + Nat.log2 m
      let k : Nat := if (e + k0) % 2 = 0 then k0 else k0 + 1
      let v := 2 ^ k / m
      let r := isqrt v
      ⟨.fin false r ((-e - k) / 2) (r * r != v || 2 ^ k % m != 0), flNone⟩

/-- The exact order of two numbers that are no NaN; −0 equals +0. -/
def ltNum (a b : Num) : Bool :=
  match a, b with
  | .nan _, _ => false
  | _, .nan _ => false
  | .inf n, .inf k => n && !k
  | .inf n, _ => n
  | _, .inf k => !k
  | .fin n1 m1 e1 _, .fin n2 m2 e2 _ =>
    let e := min e1 e2
    decide (signedMant n1 (m1 <<< (e1 - e).toNat) < signedMant n2 (m2 <<< (e2 - e).toNat))

def eqNum (a b : Num) : Bool :=
  match a, b with
  | .nan _, _ => false
  | _, .nan _ => false
  | a, b => !ltNum a b && !ltNum b a

/-- R48: the smaller value; a NaN operand gives a NaN, −0 orders below +0. -/
def minNum (a b : Num) : Num :=
  if a.isNan || b.isNan then nanOf a b
  else if ltNum a b then a
  else if ltNum b a then b
  else if a.isNeg then a else b

/-- R48: the larger value. -/
def maxNum (a b : Num) : Num :=
  if a.isNan || b.isNan then nanOf a b
  else if ltNum b a then a
  else if ltNum a b then b
  else if a.isNeg then b else a

/-- x · 2^k. -/
def scaleNum (x : Num) (k : Int) : Num :=
  match x with
  | .fin n m e st => .fin n m (e + k) st
  | x => x

/-- The integer a finite number is rounded to in a mode (R57), and whether it was none. -/
def toIntegral (mode : RMode) (neg : Bool) (m : Nat) (e : Int) : Int × Bool :=
  if 0 ≤ e then (signedMant neg (m <<< e.toNat), false)
  else
    let k := (-e).toNat
    let q0 := m >>> k
    let rem := m % 2 ^ k
    let half := 2 ^ (k - 1)
    let inexact := rem != 0
    let up : Bool :=
      match mode with
      | .rne => decide (half < rem) || (rem == half && q0 % 2 == 1)
      | .rtz => false
      | .rdn => neg && inexact
      | .rup => !neg && inexact
    (signedMant neg (if up then q0 + 1 else q0), inexact)

/-- The floor of a finite number. -/
def floorNum (neg : Bool) (m : Nat) (e : Int) : Int := (toIntegral .rdn neg m e).1

/-- R57: a float to an integer of `w` bits, signed or not. -/
def floatToInt (mode : RMode) (w : Nat) (signed : Bool) (x : Num) : Nat × Flags :=
  let lo : Int := if signed then -(2 ^ (w - 1) : Nat) else 0
  let hi : Int := if signed then (2 ^ (w - 1) : Nat) - 1 else (2 ^ w : Nat) - 1
  match x with
  | .nan _ => (0, flNV)
  | .inf neg => (wrapInt (if neg then lo else hi) w, flNV ||| flSA)
  | .fin neg m e _ =>
    let r := toIntegral mode neg m e
    if r.1 < lo then (wrapInt lo w, flNV ||| flSA)
    else if hi < r.1 then (wrapInt hi w, flNV ||| flSA)
    else (wrapInt r.1 w, if r.2 then flNX else flNone)

/-- The number of an integer (R57). -/
def intNum (v : Int) : Num := numOfInt v 0 false

/-! Stochastic rounding (R58). -/

/-- The 32-bit xorshift step of R58. -/
def xorshift (s : Nat) : Nat :=
  let s1 := s ^^^ (s * 2 ^ 13 % 2 ^ 32)
  let s2 := s1 ^^^ (s1 / 2 ^ 17)
  s2 ^^^ (s2 * 2 ^ 5 % 2 ^ 32)

/-- R58: whether a format can be the destination of stochastic rounding. -/
def FFmt.stochastic : FFmt → Bool
  | .bf16 => true | .e4m3 => true | .e5m2 => true | .e2m1 => true | _ => false

/-- `sround` of R58 for one element: the code, the flags, the new state. -/
def sround (f : FFmt) (c : RoundCtl) (srst : Nat) (x : Num) : (Nat × Flags) × Nat :=
  let s := xorshift srst
  match x with
  | .fin neg m e false =>
    if m == 0 then (roundF f { c with mode := .rne } x, s)
    else
      let lo := pickNeighbour f .rtz neg m e false
      if !lo.inexact then (roundF f { c with mode := .rne } x, s)
      else
        let k := (lo.qe - e).toNat
        let g := 2 ^ 32 * (m % 2 ^ k) / 2 ^ k
        let p : Pick := if 2 ^ 32 ≤ g + s then { lo with q := lo.q + 1 } else lo
        (deliver f { c with mode := .rne } neg p, s)
  | x => (roundF f { c with mode := .rne } x, s)

/-! Microscaling (R51, R59). -/

/-- The exponent of an E8M0 code; none for NaN. -/
def e8m0 (code : Nat) : Option Int := if code = 255 then none else some ((code : Int) - 127)

/-- R59: an element times its block scale; a scale of 0xFF counts as a quiet NaN. -/
def mxNum (x : Num) (scale : Nat) : Num :=
  match e8m0 scale with
  | none =>
    match x with
    | .nan s => .nan s
    | _ => .nan false
  | some k => scaleNum x k

/-- floor(log2 |x|) of a finite non-zero number. -/
def floorLog2 (m : Nat) (e : Int) : Int := e + (Nat.log2 m : Int)

/-- The magnitude order of finite numbers, for amax. -/
def maxAbs (xs : List Num) : Num := xs.foldl (fun acc x => maxNum acc x.abs) (zeroNum false)

/-- `emax` of R60. -/
def mxEmax : FFmt → Int
  | .e4m3 => 8 | .e5m2 => 15 | _ => 2

/-- One converted block: codes, scale, flags, the stochastic state after it. -/
structure BlockOut where
  codes : List Nat
  scale : Nat
  fl : Flags
  srst : Nat
  deriving DecidableEq, Repr

/-- Elements rounded in index order, deterministic or stochastic (R53, R58). -/
def roundList (f : FFmt) (c : RoundCtl) (sr : Bool) (srst : Nat) : List Num → List Nat × Flags × Nat
  | [] => ([], flNone, srst)
  | x :: xs =>
    let r : (Nat × Flags) × Nat := if sr then sround f c srst x else (roundF f c x, srst)
    let rest := roundList f c sr r.2 xs
    (r.1.1 :: rest.1, r.1.2 ||| rest.2.1, rest.2.2)

/-- R60: a block of 32 values quantised; the conversions saturate whatever `nosat8` holds. -/
def quantBlock (f : FFmt) (c : RoundCtl) (sr : Bool) (srst : Nat) (xs : List Num) : BlockOut :=
  let c := { c with nosat8 := false }
  let skipped := if sr then iterate xorshift xs.length srst else srst
  if xs.any (fun x => match x with | .fin _ _ _ _ => false | _ => true) then
    { codes := xs.map (fun _ => 0), scale := 255, fl := flNV, srst := skipped }
  else if xs.all Num.isZero then
    { codes := xs.map (fun x => f.signBit x.isNeg), scale := 0, fl := flNone, srst := skipped }
  else
    match maxAbs xs with
    | .fin _ m e _ =>
      let scale := (satInt (floorLog2 m e - mxEmax f + 127) 0 254).toNat
      let r := roundList f c sr srst (xs.map (fun x => scaleNum x (127 - (scale : Int))))
      { codes := r.1, scale := scale, fl := r.2.1, srst := r.2.2 }
    | _ => { codes := xs.map (fun _ => 0), scale := 255, fl := flNV, srst := skipped }

/-! The defined transcendentals (R69 to R72). FP32 encodings are handled as codes. -/

/-- T[i] = 2^(i/64) rounded to FP32 (R69). -/
def tabT : List Nat :=
  [ 0x3f800000, 0x3f8164d2, 0x3f82cd87, 0x3f843a29, 0x3f85aac3, 0x3f871f62, 0x3f88980f, 0x3f8a14d5,
    0x3f8b95c2, 0x3f8d1adf, 0x3f8ea43a, 0x3f9031dc, 0x3f91c3d3, 0x3f935a2b, 0x3f94f4f0, 0x3f96942d,
    0x3f9837f0, 0x3f99e046, 0x3f9b8d3a, 0x3f9d3eda, 0x3f9ef532, 0x3fa0b051, 0x3fa27043, 0x3fa43516,
    0x3fa5fed7, 0x3fa7cd94, 0x3fa9a15b, 0x3fab7a3a, 0x3fad583f, 0x3faf3b79, 0x3fb123f6, 0x3fb311c4,
    0x3fb504f3, 0x3fb6fd92, 0x3fb8fbaf, 0x3fbaff5b, 0x3fbd08a4, 0x3fbf179a, 0x3fc12c4d, 0x3fc346cd,
    0x3fc5672a, 0x3fc78d75, 0x3fc9b9be, 0x3fcbec15, 0x3fce248c, 0x3fd06334, 0x3fd2a81e, 0x3fd4f35b,
    0x3fd744fd, 0x3fd99d16, 0x3fdbfbb8, 0x3fde60f5, 0x3fe0ccdf, 0x3fe33f89, 0x3fe5b907, 0x3fe8396a,
    0x3feac0c7, 0x3fed4f30, 0x3fefe4ba, 0x3ff28177, 0x3ff5257d, 0x3ff7d0df, 0x3ffa83b3, 0x3ffd3e0c ]

/-- Rc[i] = 64/(64 + i) rounded to FP32 (R69). -/
def tabRc : List Nat :=
  [ 0x3f800000, 0x3f7c0fc1, 0x3f783e10, 0x3f74898d, 0x3f70f0f1, 0x3f6d7304, 0x3f6a0ea1, 0x3f66c2b4,
    0x3f638e39, 0x3f607038, 0x3f5d67c9, 0x3f5a740e, 0x3f579436, 0x3f54c77b, 0x3f520d21, 0x3f4f6475,
    0x3f4ccccd, 0x3f4a4588, 0x3f47ce0c, 0x3f4565c8, 0x3f430c31, 0x3f40c0c1, 0x3f3e82fa, 0x3f3c5264,
    0x3f3a2e8c, 0x3f381703, 0x3f360b61, 0x3f340b41, 0x3f321643, 0x3f302c0b, 0x3f2e4c41, 0x3f2c7692,
    0x3f2aaaab, 0x3f28e83f, 0x3f272f05, 0x3f257eb5, 0x3f23d70a, 0x3f2237c3, 0x3f20a0a1, 0x3f1f1166,
    0x3f1d89d9, 0x3f1c09c1, 0x3f1a90e8, 0x3f191f1a, 0x3f17b426, 0x3f164fda, 0x3f14f209, 0x3f139a86,
    0x3f124925, 0x3f10fdbc, 0x3f0fb824, 0x3f0e7835, 0x3f0d3dcb, 0x3f0c08c1, 0x3f0ad8f3, 0x3f09ae41,
    0x3f088889, 0x3f0767ab, 0x3f064b8a, 0x3f053408, 0x3f042108, 0x3f03126f, 0x3f020821, 0x3f010204 ]

/-- L[i] = −log2(Rc[i]) rounded to FP32 (R69). -/
def tabL : List Nat :=
  [ 0x00000000, 0x3cb73cb3, 0x3d35d690, 0x3d8759c9, 0x3db31fb7, 0x3dde420e, 0x3e0462c4, 0x3e195751,
    0x3e2e00d1, 0x3e42615f, 0x3e567aef, 0x3e6a4f70, 0x3e7de0b5, 0x3e88983f, 0x3e92203d, 0x3e9b8925,
    0x3ea4d3c2, 0x3eae00d1, 0x3eb71110, 0x3ec0052d, 0x3ec8ddd3, 0x3ed19baf, 0x3eda3f60, 0x3ee2c97e,
    0x3eeb3a9e, 0x3ef39355, 0x3efbd42a, 0x3f01fed4, 0x3f060828, 0x3f0a0650, 0x3f0df98a, 0x3f11e20e,
    0x3f15c01a, 0x3f1993e4, 0x3f1d5da0, 0x3f211d84, 0x3f24d3c3, 0x3f28808d, 0x3f2c2410, 0x3f2fbe7f,
    0x3f335004, 0x3f36d8ca, 0x3f3a58fe, 0x3f3dd0c9, 0x3f41404e, 0x3f44a7bb, 0x3f480731, 0x3f4b5ed6,
    0x3f4eaecf, 0x3f51f740, 0x3f553847, 0x3f58720a, 0x3f5ba4a5, 0x3f5ed038, 0x3f61f4e5, 0x3f6512c6,
    0x3f6829fa, 0x3f6b3aa0, 0x3f6e44cf, 0x3f7148a2, 0x3f744636, 0x3f773da2, 0x3f7a2f03, 0x3f7d1a71 ]

def f32 (code : Nat) : Num := decodeF .f32 code
def rne32 (x : Num) : Num := f32 (roundF .f32 rneCtl x).1
def fma32 (a b c : Num) : Num := rne32 (fmaNum false a b c)
def mul32 (a b : Num) : Num := rne32 (mulNum a b)
def add32 (a b : Num) : Num := rne32 (addNum false a b)
def div32 (a b : Num) : Num := rne32 (divNum a b).num

/-- `exp2core` of R70 for a finite x from −160 to below 128, before its last rounding. -/
def exp2Exact (neg : Bool) (mm : Nat) (ee : Int) : Num :=
  let m := floorNum neg mm (ee + 6)
  let t : Num := .fin neg mm (ee + 6) false
  let f := scaleNum (addNum false t (intNum (-m))) (-6)
  let i := (m % 64).toNat
  let e := (m - i) / 64
  let ti := f32 (tabT.getD i 0)
  let q1 := fma32 f (f32 0x3d635847) (f32 0x3e75fdf0)
  let q2 := fma32 f q1 (f32 0x3f317218)
  let p := mul32 f q2
  scaleNum (fma32 ti p ti) e

def exp2core (neg : Bool) (mm : Nat) (ee : Int) : Num := rne32 (exp2Exact neg mm ee)

/-- A transcendental's FP32 result with its flags, before it is narrowed. -/
structure TransOut where
  num : Num
  fl : Flags
  deriving DecidableEq, Repr

/-- R70. -/
def exp2F (x : Num) : TransOut :=
  match x with
  | .nan s => ⟨.nan s, flNone⟩
  | .inf neg => if neg then ⟨zeroNum false, flNone⟩ else ⟨.inf false, flNone⟩
  | .fin neg m e _ =>
    let x : Num := .fin neg m e false
    if !ltNum x (intNum 128) then ⟨.inf false, flOF ||| flNX⟩
    else if ltNum x (intNum (-160)) then ⟨zeroNum false, flUF ||| flNX⟩
    else
      let r := toIntegral .rdn neg m e
      let exact : Bool := !r.2 && decide (-149 ≤ r.1) && decide (r.1 ≤ 127)
      let y := exp2core neg m e
      let tiny : Bool := ltNum y (.fin false 1 (-126) false)
      ⟨y, if exact then flNone else flNX ||| (if tiny then flUF else flNone)⟩

/-- R71. -/
def log2F (x : Num) : TransOut :=
  match x with
  | .nan s => ⟨.nan s, flNone⟩
  | .inf neg => if neg then ⟨.nan true, flNone⟩ else ⟨.inf false, flNone⟩
  | .fin neg m e _ =>
    if m == 0 then ⟨.inf true, flDZ⟩
    else if neg then ⟨.nan true, flNone⟩
    else
      let lg := Nat.log2 m
      let ex : Int := e + lg
      let mm : Num := .fin false m (-(lg : Int)) false
      let i := (floorNum false (m - 2 ^ lg) (6 - (lg : Int))).toNat
      let z := fma32 mm (f32 (tabRc.getD i 0)) (intNum (-1))
      let q1 := fma32 z (f32 0xbeb8aa3b) (f32 0x3ef63851)
      let q2 := fma32 z q1 (f32 0xbf38aa3b)
      let q3 := fma32 z q2 (f32 0x3fb8aa3b)
      let p := mul32 z q3
      let s := add32 (f32 (tabL.getD i 0)) p
      ⟨add32 (intNum ex) s, if m == 2 ^ lg then flNone else flNX⟩

/-- R72. -/
def tanhF (x : Num) : TransOut :=
  match x with
  | .nan s => ⟨.nan s, flNone⟩
  | .inf neg => ⟨if neg then intNum (-1) else intNum 1, flNone⟩
  | .fin neg m e _ =>
    if m == 0 then ⟨zeroNum neg, flNone⟩
    else
      let a : Num := .fin false m e false
      let y : Num :=
        if ltNum a (.fin false 1 (-3) false) then
          let a2 := mul32 a a
          let q := fma32 a2 (f32 0x3e088889) (f32 0xbeaaaaab)
          fma32 (mul32 a a2) q a
        else if ltNum a (intNum 10) then
          match mul32 a (f32 0x4038aa3b) with
          | .fin n2 m2 e2 _ => addNum false (intNum 1) (div32 (intNum 2) (add32 (exp2core n2 m2 e2) (intNum 1))).neg
          | _ => intNum 1
        else intNum 1
      let y32 := rne32 y
      let tiny : Bool := ltNum y32.abs (.fin false 1 (-126) false)
      ⟨if neg then y32.neg else y32, flNX ||| (if tiny then flUF else flNone)⟩

/-- R69: an element of a transcendental, widened exactly, computed in FP32, narrowed with `rne`; `ftz` acts on the input and on the
final result only. -/
def transElem (g : Num → TransOut) (f : FFmt) (ftz : Bool) (code : Nat) : Nat × Flags :=
  let r := g (readF f ftz code)
  let d := roundF f { mode := .rne, nosat8 := false, ftz := ftz } r.num
  let tinyNx : Flags := if decide (d.1 % 2 ^ (f.eb + f.mb) < 2 ^ f.mb) && (r.fl &&& flNX) != 0#6 && !r.num.isZero then flUF else flNone
  (d.1, d.2 ||| r.fl ||| tinyNx)

end Sys2Proof.Machine
end

