-- ==== Sys2Proof/Machine/State.lean ====
section
/-! DEFINITION. The state of one package (spec 00 R3, R11, R12; 01 R19 to R46; INVENTORY.md lists every field with its rule), the
reasons a step can stop, and the state right after reset. All of it is plain data. -/

namespace Sys2Proof.Machine

/-! Cores: frames, channels, timers (01, 07, 09). -/

/-- The trap causes of 15 R411. -/
inductive Cause where
  | illegal | migrate | migrateWhileClaimed | misalign | xlate | perm | claim | window | swizzle | header | fpx | tenant
  | absent | brk | trap
  deriving DecidableEq, Repr

/-- An entry of a frame's claim stack (07 R203). -/
structure Claim where
  res : Nat
  thr : Nat
  deriving DecidableEq, Repr

/-- The target of a release event (07 R205): core key, package, and whether the Governor of its die receives it. -/
structure Target where
  core : Nat
  pkg : Nat
  gov : Bool
  deriving DecidableEq, Repr

/-- A successor descriptor (07 R207). -/
structure Descr where
  handler : Word
  target : Target
  level : Nat
  args : List Word
  deriving DecidableEq, Repr

/-- A late fault waiting to be raised (05 R137, 06 R171, 07 R195, 15 R414). `stamp` is the place of its bundle in program order, `restore` the
descriptor that becomes pending again at the trap (07 R207). -/
structure LateFault where
  cause : Cause
  pc : Nat
  eaddr : Word
  eseq : Nat
  stamp : Nat
  restore : Option (Option Descr)
  deriving DecidableEq, Repr

/-- A register result of a vector bundle. -/
inductive RegWrite where
  | x (n : Nat) (v : Word)
  | v (n : Nat) (v : VReg)
  | k (n : Nat) (v : Word)
  deriving DecidableEq, Repr

/-- A dispatched vector bundle that has not completed (05 R137): its sequence number, first word, flags, results, the stochastic
state it leaves, a fault found in execution, its memory operation, the channel form it will execute, the registers it names, the
controls that its completion uses (01 R34). -/
structure VEntry where
  seq : Nat
  stamp : Nat
  pc : Nat
  fl : Flags
  writes : List RegWrite
  srst : Option Nat
  stoch : Bool
  fault : Option (Cause × Word)
  op : Option Nat
  chan : Option (Op × Bundle)
  named : List Named
  rmode : Word
  fpen : Word
  deriving DecidableEq, Repr

/-- What kind of frame stands on a stack: a task, a trap handler, the X9's fixed atomic handler, an `ahnd` handler, the collective
handler, an away marker that names the core the task moved to (09 R248, R255, R273). -/
inductive FrameKind where
  | task
  | trapHandler
  | fixedAtomic (op : Nat)
  | userAtomic (op : Nat)
  | collective (coll block : Nat)
  | away (toCore : Nat)
  deriving DecidableEq, Repr

/-- The state held once for each level of a core while a task of that level exists (01 R32, R40, R43). -/
structure LevelState where
  fmta : Word
  fmtb : Word
  fmtc : Word
  scla : Word
  sclb : Word
  rmode : Word
  srst : Nat
  fpflg : Word
  fpen : Word
  ldc : Nat
  stc : Nat
  cpc : Nat
  tlc : Nat
  vq : List VEntry
  deriving DecidableEq, Repr

/-- The exception registers (01 R32). -/
structure ExcRegs where
  ecause : Word
  epc : Word
  eaddr : Word
  eseq : Word
  deriving DecidableEq, Repr

/-- A frame of a core's stack (01 R19, R43; 09 R248, R252). `start` is a fault to be raised before its first bundle (01 R23, R24),
`mig` a migration that waits for its drain (09 R270: 0 migrate trap, 1 `migr`, 2 predictor, with the target), `migMark` the mark of
15 R413, `idle` the progress of an `idle` bundle (04 R131: 1 waiting, 2 ended), `arrive` that of an arrival at another die's unit (07 R220: 1 sent,
2 acknowledged, 3 no member, 4 no unit), `hold` the `ldf` that holds up issue (07 R195),
`follows` the end of a `follow` (04 R119: the bundle at which the task goes on), `spilledX` how many of its scalar units are in the frame save store, `slots`
the slots of the spill area that hold its vector units, lowest registers first (09 R254). -/
structure Frame where
  kind : FrameKind
  task : Nat
  level : Nat
  ltag : Nat
  handler : Word
  pc : Nat
  x : KMap Word
  v : KMap VReg
  k : KMap Word
  thr : Nat
  item : Word
  acb : Nat
  arows : Nat
  fsb : Nat
  fscr : Nat
  wins : Word
  exc : ExcRegs
  claims : List Claim
  src : Source
  lv : LevelState
  pending : Option Descr
  late : List LateFault
  start : Option (Cause × Word)
  usedPlanes : Bool
  lastRemote : Option Nat
  lastPredMig : Option Nat
  spilledX : Nat
  slots : List Nat
  gov : Option (Nat × Nat)
  origin : Option Nat
  migMark : Option Word
  mig : Option (Nat × Word)
  idle : Nat
  arrive : Nat
  hold : Option Nat
  follows : Option Nat
  deriving DecidableEq, Repr

/-- A receive channel (01 R31, 07 R218): the binding word, its level, the launch of the task that bound it, the queue of words with their end tags. -/
structure Chan where
  bind : Word
  level : Nat
  ltag : Nat
  q : List (Word × Bool)
  deriving DecidableEq, Repr

/-- An entry of the coprocessor ring (01 R42); `disc` marks a discarded bundle (05 R137, 06 R184). -/
structure CpEntry where
  seq : Nat
  lvl : Nat
  pc : Nat
  done : Bool
  flt : Bool
  disc : Bool
  deriving DecidableEq, Repr

/-- An armed timer (07 R210). -/
structure Timer where
  deadline : Nat
  handle : Word
  descr : Descr
  item : Word
  ltag : Nat
  after : List Nat
  deriving DecidableEq, Repr

/-- A completed, unpopped job status of a level (07 R227). -/
structure JobStatus where
  level : Nat
  engine : Nat
  job : Nat
  status : Nat
  deriving DecidableEq, Repr

/-- A bundle that a leader forwarded: the instruction, its first word, the leader's next program counter (04 R120, R123). -/
structure Forwarded where
  instr : Instr
  words : Nat
  pc : Nat
  next : Nat
  deriving DecidableEq, Repr

/-- Follow mode of a core (04 R119, R121); a follower whose stream has closed drains the bundles that were forwarded to it. -/
inductive Follow where
  | free
  | leading (n : Nat)
  | waiting (n since : Nat)
  | attached (n : Nat) (fwd : List Forwarded)
  | draining (fwd : List Forwarded)
  deriving DecidableEq, Repr

/-- An operand latch (01 R29). -/
abbrev Latch := Option (Nat × VReg)

/-- Where an access is performed: a global address with its policy (10 R280) and home (slice, tile or package), or an offset of a
tile's array. -/
inductive Loc where
  | global (policy home pa : Nat)
  | array (tile off : Nat)
  deriving DecidableEq, Repr

/-- A release that has been performed before the accesses it orders (10 R298, R299): its agent, its scope, the accesses still to come. -/
structure Rel where
  core : Nat
  scope : Nat
  ops : List Nat
  deriving DecidableEq, Repr

/-- A value that a core has read at its home before the load that may return it (10 R298, R302): what stands there as far as the stores of cores tell,
the agents that have written there since or know of it, the releases read with it, and the load that has issued at the place. -/
structure Foreseen where
  core : Nat
  loc : Loc
  size : Nat
  value : Nat
  now : Nat
  news : List Nat
  rels : List Rel
  op : Option Nat
  deriving DecidableEq, Repr

/-- An acquire load of a narrow scope that a later access of its core has been performed before (10 R298): no agent of that scope may tell, so it returns
`now`, which only agents beyond the scope change, up to the first of those within it that reaches its bytes (`closed`). -/
structure Ahead where
  acquire : Nat
  core : Nat
  scope : Nat
  loc : Loc
  size : Nat
  now : Nat
  closed : Bool
  deriving DecidableEq, Repr

/-- One core (01 R43). Frames stand top first; inbox entries oldest first. `behind` holds the accesses that every later access of the core follows, as
its frames acquired them (10 R299, R301), `seen` the releases that it has read without an acquire; `owner` names the launch that last had each 256 bytes of a
gateway core's scratch (01 R26). -/
structure Core where
  frames : List Frame
  inbox : List REvent
  chans : KMap Chan
  cseq : Nat
  cpring : List CpEntry
  cpsel : Nat
  mwt : Nat
  sat : Nat
  ceil : List Nat
  latchA : Latch
  latchB : Latch
  latchC : Latch
  masks : BitVec 16
  timers : KMap Timer
  timerArms : Nat
  pushes : Nat
  statuses : List JobStatus
  icache : KMap (List Byte)
  follow : Follow
  credit : KMap Nat
  rbuf : KMap (List Byte)
  behind : List Nat := []
  seen : List Rel := []
  owner : KMap Nat := []
  deriving DecidableEq, Repr

/-! Tiles (06, 10, 11). -/

/-- A stationary plane (06 R160): element codes W[k][n] at 64k + n, and the column scales. -/
structure Plane where
  fmt : Nat
  q : Nat
  cent : Bool
  w : KMap Nat
  scales : KMap Nat
  deriving DecidableEq, Repr

/-- The controls a job samples at dispatch (06 R169). -/
structure Sampled where
  fmta : Word
  fmtb : Word
  fmtc : Word
  scla : Word
  sclb : Word
  rmode : Word
  fpen : Word
  deriving DecidableEq, Repr

/-- An operand header in scratch (06 R165): the tensor's offset, base, rows, format, planes, span, plane stride. -/
structure OpHeader where
  off : Nat
  base : Nat
  rows : Nat
  fmt : Nat
  planes : Nat
  span : Nat
  pstride : Nat
  deriving DecidableEq, Repr

/-- A page-3 job in an engine queue (06 R161): what it was dispatched with, the frame it works for, and its progress; `undoBytes`, `undoRows` and
`undoWords` say what a job that has run ahead of an earlier vector bundle has written (place, old, new) and taken from its channel, for the case
that it is discarded with no effect (05 R137), `accepted` how many targets have accepted the end word of a `rankch` (06 R188). -/
structure Job where
  op : Op
  word : Bundle
  seq : Nat
  stamp : Nat
  pc : Nat
  task : Nat
  item : Word
  ltag : Nat
  xa : Word
  xb : Word
  xc : Word
  active : Bool
  sampled : Sampled
  hdr : OpHeader
  acb : Nat
  arows : Nat
  fsb : Nat
  fscr : Nat
  succ : Option Descr
  started : Bool
  unit : Nat
  pos : Nat
  outPos : Nat
  units : Nat
  buf : List Byte
  ended : Bool
  finished : Bool
  srst : Option Nat
  fl : Flags
  fault : Option (Cause × Word)
  after : List Nat
  undoBytes : List (Nat × Byte × Byte)
  undoRows : List (Nat × BitVec 32 × BitVec 32)
  undoWords : List (Word × Bool)
  accepted : Nat
  deriving DecidableEq, Repr

/-- A line of a cache (10 R282, R289, 13 R360). `res` marks a reservation whose fill has not come. -/
structure CLine where
  line : Nat
  way : Nat
  dirty : Bool
  res : Bool
  replica : Bool
  stamp : Nat
  data : List Byte
  deriving DecidableEq, Repr

/-- A translation-buffer entry (13 R377): tenant, page base, log2 of the page size, the leaf. -/
structure TlbEntry where
  tenant : Nat
  base : Nat
  lg : Nat
  leaf : Nat
  deriving DecidableEq, Repr

/-- A predictor entry (10 R285). -/
structure PredEntry where
  handler : Word
  home : Nat
  count : Nat
  deriving DecidableEq, Repr

/-- One tile (10 R289, 06 R160, 11 R308, R313). -/
structure Tile where
  array : Mem
  scratchKiB : Nat
  acc : KMap (BitVec 32)
  planes : KMap Plane
  tabs : KMap (BitVec 16)
  layouts : KMap (List Word)
  queues : KMap (List Job)
  turnCore : Nat
  turnUsed : Nat
  pred : List PredEntry
  lines : List CLine
  utlb : List TlbEntry
  launch : Nat
  reserved : Bool
  copyTurn : Nat
  deriving DecidableEq, Repr

/-! Dies: Governors, barriers (09). -/

/-- A range of virtual bytes (09 R264). -/
structure Range where
  base : Nat
  len : Nat
  deriving DecidableEq, Repr

/-- A record of a Governor's ready queue (09 R261): affinity and named die (07 R209), the package of a migration;
`forwarded` when another die sent it here (09 R263). -/
structure GovRec where
  id : Nat
  ev : REvent
  aff : Nat
  affDie : Nat
  planes : Bool
  after : List Nat
  forwarded : Bool := false
  deriving DecidableEq, Repr

/-- A ready record on its way to the Governor of another die (09 R263, R265). -/
structure GivenRec where
  src : Nat
  dst : Nat
  rec_ : GovRec
  deriving DecidableEq, Repr

/-- A registered record of the range matcher (09 R264), with the core that spawned it. -/
structure RangeEntry where
  id : Nat
  ltag : Nat
  rd : Range
  wr : Range
  spawner : Nat := 0
  deriving DecidableEq, Repr

/-- A pending `bwait` successor (09 R268), with the scope of its `bwait` and the accesses that this released. -/
structure BWaiter where
  phase : Nat
  ev : REvent
  target : Target
  scope : Nat
  after : List Nat
  deriving DecidableEq, Repr

/-- A barrier unit (09 R266). Members are core keys. -/
structure Barrier where
  ltag : Nat
  members : List Nat
  leads : KMap Nat
  phase : Nat
  store : List BWaiter
  overflow : List BWaiter
  after : List Rel
  deriving DecidableEq, Repr

/-- One compute die. -/
structure Die where
  ready : List GovRec
  ranges : List RangeEntry
  steals : List Nat
  stealNext : Nat
  idCount : Nat
  barriers : KMap Barrier
  sgTlb : KMap (List TlbEntry)
  tlb : List TlbEntry
  inReset : Bool
  gate : Nat
  temp : Nat
  tripped : Bool
  deriving DecidableEq, Repr

/-! Outstanding memory operations (07 R194 to R200, 10 R282). -/

/-- A fault found at the home (07 R197; 14 R388); `tenant` only for scratch of another package (07 R225), `timeout` only for another package's `ahnd` whose
handler has been discarded (07 R200). -/
inductive HomeFault where
  | absent | perm | ecc | tenant | timeout
  deriving DecidableEq, Repr

/-- One aligned access of an operation: its bytes, the data it stores, the data it has read, whether it was performed, whether a
request for it has left the package or its handler has been sent, the fault found at its home, whether its home has accepted the request
(13 R360) or, for a vector store to another package, checked it (05 R157). -/
structure Elem where
  ix : Nat
  loc : Loc
  va : Nat
  size : Nat
  data : Nat
  got : Nat
  done : Bool
  asked : Bool
  bad : Option HomeFault := none
  taken : Bool := false
  deriving DecidableEq, Repr

/-- What an operation does at the home. -/
inductive OpKind where
  | load
  | store
  | atomic (op : Op) (ty : Nat) (arg cmp : Nat)
  deriving DecidableEq, Repr

/-- The register an operation writes; `buffer` keeps a line read from another package or the host for the core that asked, `remote`
answers a request of another package (`raw` when that is not to be compressed, 14 R400), `copy` is an access of a copy segment. -/
inductive Dest where
  | none
  | scalar (n ty : Nat)
  | float (n ty : Nat)
  | vector (n ty : Nat)
  | buffer
  | remote (peer op elem : Nat) (raw : Bool)
  | copy (job seg : Nat)
  deriving DecidableEq, Repr

/-- An outstanding load, store or atomic (01 R40). `ord` is the ordering of R78, `vec` says that it belongs to a vector bundle, `nt` that it is
non-temporal (07 R196), `scope` its scope, `start` the accesses that its frame acquired at its start, `behind` those that it has acquired itself (10 R299),
`mute` that the failure of its task has been reported (15 R414, R415). -/
structure MemOp where
  core : Nat
  level : Nat
  task : Nat
  item : Word
  ltag : Nat
  tenant : Nat
  pc : Nat
  kind : OpKind
  dest : Dest
  ord : Nat
  vec : Bool
  elems : List Elem
  fault : Option HomeFault
  handler : Option Nat
  nt : Bool := false
  scope : Nat := 6
  start : List Nat := []
  behind : List Nat := []
  mute : Bool := false
  deriving DecidableEq, Repr

/-! The Millrace (11). -/

/-- A message in the network or at its target router: the router it enters at, its preference (R325), its tag there (R318), the flits that have
been ejected, its target router. -/
structure NetMsg where
  msg : Msg
  src : Nat
  pref : Nat
  tag : Option Nat
  flits : Nat
  arrived : Nat
  drow : Nat
  dcol : Nat
  edge : Bool
  deriving DecidableEq, Repr

/-- A flit in flight (11 R318): the message it belongs to, the router it stands at, the input port it came by, its age,
whether its message was not taken and goes back into the network (R326), the cycles for which it has waited to be injected (R322). -/
structure Flit where
  msg : Nat
  router : Nat
  port : Nat
  age : Nat
  first : Bool
  last : Bool
  pref : Nat
  injected : Bool
  bounced : Bool := false
  waited : Nat
  deriving DecidableEq, Repr

/-- A router (11 R324, R326; 13 R369): hold store, ordered window, wheelpit, the next sequence number that each pair expects here and
that each pair which enters here has used. The membership map of R323 is a function of the tenant table (13 R363). -/
structure Router where
  hold : List Msg
  window : List Msg
  wheelpit : List Flit
  expect : KMap Nat
  seqs : KMap Nat
  deriving DecidableEq, Repr

/-- A migration package (09 R271), with the releases that the core it leaves has read (10 R301). -/
structure Package where
  frame : Frame
  rows : List (BitVec 32)
  scratch : List Byte
  planes : List Plane
  fromCore : Nat
  viaTrap : Bool
  status : Option Nat
  seen : List Rel := []
  deriving DecidableEq, Repr

/-! Engines (11). -/

/-- A segment of a copy job (11 R308): what it reads and writes, as displacements from the job's two addresses with lengths; once it
has started, the places these translate to, the bytes read, the accesses of other packages and the host still under way, and whether
the writes have been made. -/
structure Segment where
  reads : List (Nat × Nat)
  writes : List (Nat × Nat)
  started : Bool
  src : List (Loc × Nat)
  dst : List (Loc × Nat)
  data : List Byte
  left : Nat
  wrote : Bool
  deriving DecidableEq, Repr

/-- A copy job (07 R225) with the layout program its push named; `mfail` is the status of a failed tile of a multicast (11 R316), `acksSent` the super-groups whose acknowledgement has set out, `boxDone` that the clip
box has been accepted (11 R315), `failCycle` the cycle in
which its first failure was detected (11 R310). -/
structure CopyJob where
  core : Nat
  level : Nat
  task : Nat
  item : Word
  ltag : Nat
  tenant : Nat
  ident : Nat
  words : List Word
  succ : Option Descr
  segs : List Segment
  planned : Bool
  startCycle : Option Nat
  status : Option Nat
  failAddr : Word
  failCycle : Nat := 0
  boxSent : Bool
  acks : KMap Nat
  mfail : Nat
  acksSent : List Nat := []
  boxDone : Bool := false
  prog : List Word
  fsb : Nat
  fscr : Nat
  after : List Nat
  deriving DecidableEq, Repr

/-- A rank's command of a collective (11 R331); `lost` when its die has been reset since (15 R419). -/
structure CollCmd where
  rank : Nat
  lost : Bool
  core : Nat
  level : Nat
  task : Nat
  item : Word
  ident : Nat
  words : List Word
  succ : Option Descr
  after : List Nat
  deriving DecidableEq, Repr

/-- A collective in progress (11 R331 to R335): the commands of this package's ranks, the results of each block that are still to be
combined, the blocks in a handler, sent to the other packages, joined with theirs, delivered and failed, the results that other packages
sent (by block and package), the missing contributors and the status of a failure; the commands of ranks on other packages (rank, job identity,
words) and whether this package has told its own; its number among those of its group, the packages that have told that all their blocks have been
delivered, and whether this one has. -/
structure Collective where
  ltag : Nat
  tenant : Nat
  group : Nat
  cmds : List CollCmd
  parts : KMap (List (List Byte))
  handled : List Nat
  sent : List Nat
  joined : List Nat
  peers : KMap (List Byte)
  finished : List Nat
  failed : List Nat
  started : Nat
  missing : List Nat
  status : Option Nat
  others : List (Nat × Nat × List Word)
  told : Bool
  ord : Nat := 0
  dones : List Nat := []
  toldDone : Bool := false
  deriving DecidableEq, Repr

/-! Launches and contexts (13). -/

/-- The state of a context (13 R364), before its launch starts and when an ERROR of its interface has ended it too (14 R394). -/
inductive CtxState where
  | waiting
  | running
  | out
  | trapped
  | ended
  deriving DecidableEq, Repr

/-- What a switched-out or trapped context has saved (13 R370): cores, tiles, Governor records and range entries by die, barrier units, messages of hold
stores and windows by router, wheelpit flits; and the cycle of the save. -/
structure Saved where
  cores : KMap Core
  tiles : KMap Tile
  recs : List (Nat × GovRec)
  ranges : List (Nat × RangeEntry)
  barriers : List (Nat × Nat × Barrier)
  held : List (Nat × Msg)
  window : List (Nat × Msg)
  wheel : List Flit
  cycle : Nat
  deriving DecidableEq, Repr

/-- An entry of a completion queue that is due (15 R416). -/
structure CqEntry where
  kind : Nat
  status : Nat
  cause : Nat
  w1 : Word
  w2 : Word
  w3 : Word
  deriving DecidableEq, Repr

/-- A launch from acceptance to its end (13 R349, R350, R364). `words` are the record's 32 words, `starts` its start-list entries, `started`
the tiles on which it has started, `startLeft` the start tasks that still wait for room, by tile, `tabs` the rank tables that every tile gets, `urgent`
that its leat has been full (11 R327), `cqPend` the entries that are due while it is not known whether the ring has room, `cqSeen` the consumed count as last
read from outside the package (15 R418), `collSeq` how many collectives of each group have begun (11 R331). -/
structure Context where
  tenant : Nat
  fn : Nat
  queue : Nat
  homeDie : Nat
  words : List Word
  foot : List Nat
  state : CtxState
  order : Nat
  started : List Nat
  ceil : List Nat
  alloc : KMap (List Nat)
  ahand : List Word
  rclass : List (Nat × Word)
  groups : List (List (Nat × Nat))
  cqCount : Nat
  cqLost : Nat
  failures : Nat
  starts : List (List Word)
  leat : List Msg
  leatHead : Nat
  leatTail : Nat
  saved : Option Saved
  instDone : List (Nat × Nat)
  thrPred : Nat
  tabs : KMap (BitVec 16)
  urgent : Bool
  startLeft : KMap (List (Nat × REvent))
  cqPend : List CqEntry := []
  cqSeen : Nat := 0
  collSeq : KMap Nat := []
  deriving DecidableEq, Repr

/-- A launch queue of a function (14 R389). -/
structure LaunchQueue where
  loc : Nat
  base : Nat
  lg : Nat
  en : Bool
  tail : Nat
  head : Nat
  overflow : Bool
  fault : Bool
  deriving DecidableEq, Repr

/-! Host, links, network, management (14, 16). -/

/-- The TDISP states of 14 R394. -/
inductive Tdi where
  | unlocked | locked | run | error
  deriving DecidableEq, Repr

/-- A PCIe function (14 R384 to R394). -/
structure PcieFn where
  tdi : Tdi
  tenant : Nat
  bound : Bool
  wbase : Nat
  ide : Option Nat
  queues : KMap LaunchQueue
  deriving DecidableEq, Repr

/-- An invalidation in progress (13 R378, R379): the address of its record, then what the record asks for, the number of its messages, and whether every die has
acknowledged. -/
structure InvalJob where
  addr : Nat
  loaded : Bool
  tenant : Nat
  kind : Nat
  base : Nat
  len : Nat
  token : Nat := 0
  acked : Bool := false
  deriving DecidableEq, Repr

/-- The invalidation interface of the management function (14 R388): the address register, whether the last record was refused, the
invalidations in progress. -/
structure Inval where
  addr : Nat
  refused : Bool
  jobs : List InvalJob
  deriving DecidableEq, Repr

/-- A selective IDE stream (14 R393). -/
structure IdeStream where
  key : Option Word
  insecure : Bool
  deriving DecidableEq, Repr

/-- A sent packet that has not been acknowledged: how often it was sent, and when last. -/
structure Sent where
  packet : ScalePacket
  count : Nat
  time : Nat
  deriving DecidableEq, Repr

/-- A scale-up connection (14 R397 to R399), by peer and class. `waiting` holds packets beyond the window or without a context. -/
structure Conn where
  nextSeq : Nat
  expect : Nat
  unacked : List Sent
  waiting : List ScalePacket
  stash : List ScalePacket
  epoch : Nat
  failed : Bool
  spilled : Bool
  used : Nat
  deriving DecidableEq, Repr

/-- A posted network work request (14 R403 to R408): the PSNs of its packets, for a READ the offsets whose data has come. -/
structure UeJob where
  core : Nat
  level : Nat
  task : Nat
  item : Word
  ltag : Nat
  tenant : Nat
  ident : Nat
  words : List Word
  succ : Option Descr
  psns : List Nat
  arrived : List Nat
  sentAll : Bool
  status : Option Nat
  failAddr : Word
  after : List Nat
  deriving DecidableEq, Repr

/-- A pair of an Ultra Ethernet context and endpoint (14 R406, R407): sent packets without acknowledgement, each with how often it was sent
and when last (0 times: it waits for the congestion control); the lowest PSN not yet received and those received beyond it; how often this side of the
pair has been reset, and, as far as is known here, the other side. -/
structure UePair where
  nextPsn : Nat
  pending : List (UePacket × Nat × Nat)
  cumul : Nat
  seen : List Nat
  epoch : Nat := 0
  peerEpoch : Nat := 0
  deriving DecidableEq, Repr

/-- A partly received Ultra Ethernet message (14 R404, R405): for a SEND the receive-list entry that it took, its buffer and its counter; the
bytes placed so far, and the stores of them that had to leave the package or wait. -/
structure UeMsg where
  ctx : Nat
  peer : Nat
  msgId : Nat
  entry : Nat
  base : Word
  size : Nat
  counter : Word
  got : Nat
  stores : List Nat
  deriving DecidableEq, Repr

/-- A gang's switches (13 R366 to R372), by the number that Primrose gives its partition: the planned time with the READY and GO that have come, the contexts that come in and go out, the packages,
the failures, the contexts for which a region is reserved, and whether the outgoing ones have been stopped. -/
structure Gang where
  ready : List (Nat × Nat)
  go : List Nat
  incoming : List Nat
  outgoing : List Nat
  pkgs : List Nat
  planned : Option Nat
  failures : Nat
  placeFailures : Nat
  reservedFor : List Nat
  stopped : Bool
  deriving DecidableEq, Repr

/-- What an SPDM responder supports (16 R431). -/
inductive SpdmCap where
  | cert | chal | meas | keyEx | encrypt | mac
  deriving DecidableEq, Repr

inductive SpdmAlg where
  | sha256 | lmsH20 | secp384r1 | aes256gcm
  deriving DecidableEq, Repr

structure SpdmParams where
  version : Nat × Nat
  caps : List SpdmCap
  hash : SpdmAlg
  sign : SpdmAlg
  exchange : SpdmAlg
  aead : SpdmAlg
  deriving DecidableEq, Repr

/-- A secure session (16 R431): the parameters, the leaf that signed its exchange, the ECDHE secret that its AEAD and MAC keys come from. -/
structure SpdmSession where
  params : SpdmParams
  leaf : Nat
  secret : BitVec 384
  deriving DecidableEq, Repr

/-- Snowdrop, Primrose and the management registers (16): the boot and its results, the identity counter, SPDM sessions and the times of signatures,
power and temperature, telemetry, and per row of DRAM the times of corrected errors with the rows to be replaced (15 R424). `hot` names the
Bedstone and, from 12 on, Sluice dies that have not cooled (R433), `window` holds what the host has written to the recovery window (R429). -/
structure Boot where
  stage : Nat
  err : Nat
  done : Bool
  leaf : Nat
  spent : Bool
  secver : Nat
  fused : Nat
  image : List Byte
  window : Mem := []
  measured : List (BitVec 256)
  session : KMap SpdmSession
  signs : List Nat
  dramOk : Bool
  linkOk : Bool
  spares : Nat
  pcap : Nat
  fstep : Nat
  hot : List Nat
  power : Nat
  tlim : Nat
  counters : KMap Nat
  rowErrors : KMap (List Nat)
  rowRepair : List Nat
  deriving DecidableEq, Repr

/-- The policies of 15 R425 that Primrose has set. -/
structure Policies where
  stealRecords : Nat
  stealInterval : Nat
  predThreshold : Nat
  gangQuantum : Nat
  reserveAfter : Nat
  connSpill : Bool
  replicas : List Nat
  collLimit : Nat
  scrubPeriod : Nat
  signRate : Nat
  ueTimeout : Nat
  ueCongestion : Word := 0#64
  noComp : List Nat
  deriving DecidableEq, Repr

/-- An end notice on its way (09 R273): the core whose away marker it pops, the task, and what the frame beneath then follows (10 R301). -/
structure Notice where
  core : Nat
  task : Nat
  after : List Nat
  seen : List Rel
  deriving DecidableEq, Repr

/-- An acknowledgement of channel words on its way (11 R328): the sender, the target (as `credit` numbers it), the words, for the end word of a
`rankch` job its queue and stamp, the number of the message that carries it, the launch of the sender, the copy whose clip box it is (11 R315). -/
structure Ack where
  sender : Nat
  target : Nat
  words : Nat
  job : Option (Nat × Nat)
  token : Nat
  ltag : Nat := 0
  copy : Option Nat := none
  deriving DecidableEq, Repr

/-- What has left the package for the outside world (log entry 1): scale-up packets with their ports, Ultra Ethernet packets with their ports and entropy values (14 R402), requests to host memory with
the function that issues them (14 R388) and, in RUN, the IDE stream that carries them with the T bit set (R394), answers to the host, reports to system
software. -/
inductive Egress where
  | scale (port : Nat) (packet : ScalePacket)
  | scaleAck (peer cls upTo : Nat) (missing : List Nat)
  | ue (port entropy : Nat) (packet : UePacket)
  | ueAck (ctx endpoint epoch cumulative : Nat) (bitmap : Word)
  | hostRead (fn : Nat) (ide : Option Nat) (op elem addr len : Nat)
  | hostWrite (fn : Nat) (ide : Option Nat) (op elem addr : Nat) (data : List Byte)
  | hostAtomic (fn : Nat) (ide : Option Nat) (op elem addr size slot arg cmp : Nat)
  | hostReply (data : List Byte)
  | interrupt (fn : Nat)
  | report (what : Nat) (arg : Word)
  | signature (value : BitVec 14176)
  | spdm (params : SpdmParams)
  deriving DecidableEq, Repr

/-- A soft error that comes to light (15 R423): one that ECC corrects, with the line of DRAM if it was read from there (R424); one in the registers, the scratch or the spilled units that a core's running frame
reads, in what the head of a matrix queue or a copy job reads, in a line of DRAM, or in a cached line, with the access that found it if one did. -/
inductive SoftError where
  | corrected (line : Option Nat)
  | frame (core : Nat)
  | job (core level : Nat)
  | copy (job : Nat)
  | dram (line : Nat)
  | cached (policy home line : Nat) (op : Option Nat)
  deriving DecidableEq, Repr

/-- What happens next (log entry 1): a core issues, another agent takes a step of the table, time passes, a core reads ahead,
a load takes what was read ahead (10 R302), a migration service traps (09 R276; log entry 36), or a soft error comes to light (log entry 16). -/
inductive Move where
  | issue (core : Nat)
  | event (i : Instr)
  | tick (cycles : Nat)
  | foresee (core va size : Nat)
  | foreseeScratch (core sel off size : Nat)
  | confirm (op : Nat)
  | serviceTrap (core : Nat)
  | soft (e : SoftError)
  deriving DecidableEq, Repr

/-- The state of the package. `sched`, `cur`, `nextId`, `freeIx`, `uses` and `egress` are the model's own (log entries 1 and 3); `uses` numbers the uses
of cached lines (10 R289), `rels` holds the releases performed before what they order, by place and size, `foreseen` the values read ahead, `voids` the numbers that messages for other packages which could not leave still have to consume (11 R324), `given` the records between Governors, `aheads` the acquires that later accesses have been performed before, `portTurn` is the scale-up port after the
one last used (14 R396). -/
structure State where
  sched : List Move
  cur : Nat
  nextId : Nat
  freeIx : Nat
  egress : List Egress
  pkg : Nat
  time : Nat
  subNs : Nat
  cycle : Nat
  uses : Nat
  rels : List (Loc × Nat × Rel)
  foreseen : List Foreseen
  aheads : List Ahead
  cores : KMap Core
  tiles : KMap Tile
  dies : KMap Die
  slices : KMap (List CLine)
  dram : Mem
  badLines : List Nat
  ops : KMap MemOp
  msgs : KMap NetMsg
  voids : List Msg
  given : List GivenRec
  flits : List Flit
  routers : KMap Router
  packs : KMap Package
  notices : List Notice
  acks : List Ack
  retired : List (Nat × Nat)
  copies : KMap CopyJob
  colls : KMap Collective
  ctxs : KMap Context
  lastTag : Nat
  acceptSeq : Nat
  tenants : KMap TenantEntry
  fns : KMap PcieFn
  streams : KMap IdeStream
  inval : Inval
  routes : KMap Nat
  conns : KMap Conn
  portsDown : List Nat
  portTurn : Nat
  netCtxs : KMap NetContext
  uePairs : KMap UePair
  ueJobs : KMap UeJob
  ueMsgs : List UeMsg
  gangs : KMap Gang
  boot : Boot
  policy : Policies
  deriving DecidableEq, Repr

/-- Why the machine stops. -/
inductive Fault where
  /-- Raised by the meaning of an encoded instruction when the current core has no frame that can issue: such a core issues no
  bundles (09 R248), so no run of `step` raises it. Safe. -/
  | noRunningFrame
  deriving DecidableEq, Repr

/-- Why the machine refuses an instruction. -/
inductive Refusal where
  /-- Raised by `exec` for an instruction that has no meaning in the model. Safe. -/
  | notModelled (mnemonic : String)
  deriving DecidableEq, Repr

/-- A core with no launch (01 R46). -/
def Core.reset : Core :=
  { frames := [], inbox := [], chans := [], cseq := 0, cpring := [], cpsel := 0, mwt := 1, sat := 0, ceil := [],
    latchA := none, latchB := none, latchC := none, masks := 0#16, timers := [], timerArms := 0, pushes := 0,
    statuses := [], icache := [], follow := .free, credit := [], rbuf := [] }

/-- A plane of zero bits, BF16, q = 8 (06 R164). -/
def Plane.zero : Plane := { fmt := 0, q := 8, cent := false, w := [], scales := [] }

/-- A tile after a reset (01 R46, 15 R419 step 4). -/
def Tile.reset : Tile :=
  { array := [], scratchKiB := 0, acc := [], planes := [], tabs := [], layouts := [], queues := [], turnCore := 7,
    turnUsed := 16, pred := [], lines := [], utlb := [], launch := 0, reserved := false, copyTurn := 0 }

/-- A die after a reset (15 R419 step 4). -/
def Die.reset : Die :=
  { ready := [], ranges := [], steals := [], stealNext := 0, idCount := 0, barriers := [], sgTlb := [], tlb := [],
    inReset := false, gate := 0, temp := 0, tripped := false }

/-- A router with nothing in it. -/
def Router.reset : Router := { hold := [], window := [], wheelpit := [], expect := [], seqs := [] }

/-- A launch queue (the reset column of 14 R389). -/
def LaunchQueue.reset : LaunchQueue :=
  { loc := 0, base := 0, lg := 0, en := false, tail := 0, head := 0, overflow := false, fault := false }

/-- A PCIe function (14 R394, 15 R419 step 5). -/
def PcieFn.reset : PcieFn :=
  { tdi := .unlocked, tenant := 0, bound := false, wbase := 0, ide := none, queues := [] }

/-- A gang for which no switch has been planned. -/
def Gang.reset : Gang :=
  { ready := [], go := [], incoming := [], outgoing := [], pkgs := [], planned := none, failures := 0, placeFailures := 0, reservedFor := [], stopped := false }

/-- A connection that has carried nothing (14 R397). -/
def Conn.reset : Conn :=
  { nextSeq := 0, expect := 0, unacked := [], waiting := [], stash := [], epoch := 0, failed := false, spilled := false, used := 0 }

/-- The package when power has come up and nothing has run: boot stage 0, every SRAM clear, no launch (01 R46, 16 R427, R435; the
values that the spec does not give are those of log entry 2). -/
def State.reset : State :=
  { sched := [], cur := 0, nextId := 1, freeIx := 0, egress := [], pkg := 0, time := 0, subNs := 0, cycle := 0, uses := 0, rels := [], foreseen := [], aheads := [], cores := [], tiles := [],
    dies := [], slices := [], dram := [], badLines := [], ops := [], msgs := [], voids := [], given := [], flits := [], routers := [], packs := [],
    notices := [], acks := [], retired := [], copies := [], colls := [], ctxs := [], lastTag := 0, acceptSeq := 0, tenants := [], fns := [], streams := [],
    inval := { addr := 0, refused := false, jobs := [] },
    routes := [], conns := [], portsDown := [], portTurn := 0, netCtxs := [], uePairs := [], ueJobs := [], ueMsgs := [],
    gangs := [],
    boot := { stage := 0, err := 0, done := false, leaf := 0, spent := false, secver := 0, fused := 0, image := [],
              measured := [], session := [], signs := [], spares := 0, pcap := 2400, fstep := 0, hot := [], dramOk := false, linkOk := false, power := 0,
              tlim := 95, counters := [], rowErrors := [], rowRepair := [] },
    policy := { stealRecords := 16, stealInterval := 1000, predThreshold := 6, gangQuantum := 10000000, reserveAfter := 4,
                connSpill := true, replicas := [], collLimit := 268435456, scrubPeriod := 86400, signRate := 24,
                ueTimeout := 64000, noComp := [] } }

end Sys2Proof.Machine
end

