-- ==== Sys2Proof/Machine/Compression.lean ====
section
/-! DEFINITION. How the scale-up ports encode the payloads of memory packets on the link (spec 14 R400, R401). -/

namespace Sys2Proof.Machine

/-! A block of 256 bytes (R401). -/

/-- A bitmap, bit i first. -/
def bitmapOf : List Bool → Nat
  | [] => 0
  | b :: bs => (if b then 1 else 0) + 2 * bitmapOf bs

/-- The pieces of n bytes of a run. -/
def cutBytes (n : Nat) : Nat → List Byte → List (List Byte)
  | 0, _ => []
  | k + 1, b => b.take n :: cutBytes n k (b.drop n)

/-- Whether a piece has a byte other than 0. -/
def anySet (b : List Byte) : Bool := b.any (fun x => x != 0#8)

/-- A bitmap of the pieces that are not zero, then those pieces. -/
def sparse (l : List (List Byte)) : List Byte := leBytes (bitmapOf (l.map anySet)) (l.length / 8) ++ (l.filter anySet).flatten

/-- The differences of neighbours, the first from 0. -/
def deltas (prev : Byte) : List Byte → List Byte
  | [] => []
  | b :: bs => (b - prev) :: deltas b bs

/-- Byte j of every element of e bytes. -/
def planeBytes (e j : Nat) (b : List Byte) : List Byte := (List.range (256 / e)).map (fun i => b.getD (e * i + j) 0#8)

def zeroRun (b : List Byte) : List Byte := 0x40#8 :: sparse (cutBytes 8 32 b)
def planeDelta (e : Nat) (b : List Byte) : List Byte :=
  (if e = 2 then 0x80#8 else 0x81#8) :: (List.range e).flatMap (fun j => sparse ((deltas 0#8 (planeBytes e j b)).map (fun d => [d])))
def literal (b : List Byte) : List Byte := 0x00#8 :: b

/-- The sender's encoding: the smallest, and of equals the first in the order zero-run, delta of 4, delta of 2, literal. -/
def encodeBlock (b : List Byte) : List Byte :=
  [planeDelta 4 b, planeDelta 2 b, literal b].foldl (fun best x => if x.length < best.length then x else best) (zeroRun b)

/-- Pieces of n bytes laid out by a bitmap; what is left of the bytes. -/
def spread (n : Nat) : List Bool → List Byte → Option (List Byte × List Byte)
  | [], w => some ([], w)
  | true :: fl, w => if w.length < n then none else (spread n fl (w.drop n)).map (fun r => (w.take n ++ r.1, r.2))
  | false :: fl, w => (spread n fl w).map (fun r => (List.replicate n 0#8 ++ r.1, r.2))

/-- k pieces of n bytes behind their bitmap. -/
def unsparse (n k : Nat) (w : List Byte) : Option (List Byte × List Byte) :=
  if w.length < k / 8 then none
  else spread n ((List.range k).map (fun i => (leValue (w.take (k / 8))).testBit i)) (w.drop (k / 8))

/-- The bytes that have given differences. -/
def sums (prev : Byte) : List Byte → List Byte
  | [] => []
  | d :: ds => (prev + d) :: sums (prev + d) ds

/-- Planes read one after the other. -/
def readPlanes (e : Nat) : Nat → List Byte → Option (List (List Byte) × List Byte)
  | 0, w => some ([], w)
  | k + 1, w =>
    match unsparse 1 (256 / e) w with
    | some (d, w) => (readPlanes e k w).map (fun r => (sums 0#8 d :: r.1, r.2))
    | none => none

/-- The elements of which the planes hold the bytes. -/
def joinPlanes (e : Nat) (l : List (List Byte)) : List Byte := (List.range 256).map (fun i => (l.getD (i % e) []).getD (i / e) 0#8)

/-- A block read from the link, in any mode, and what follows it; none for another header or an encoding cut short. -/
def decodeBlock (w : List Byte) : Option (List Byte × List Byte) :=
  match w with
  | 0x00#8 :: r => if r.length < 256 then none else some (r.take 256, r.drop 256)
  | 0x40#8 :: r => unsparse 8 32 r
  | 0x80#8 :: r => (readPlanes 2 2 r).map (fun x => (joinPlanes 2 x.1, x.2))
  | 0x81#8 :: r => (readPlanes 4 4 r).map (fun x => (joinPlanes 4 x.1, x.2))
  | _ => none

/-! A payload (R400). -/

def encodeBlocks : Nat → List Byte → List Byte
  | 0, b => b
  | n + 1, b => encodeBlock (b.take 256) ++ encodeBlocks n (b.drop 256)

def decodeBlocks : Nat → List Byte → Option (List Byte)
  | 0, w => some w
  | n + 1, w => (decodeBlock w).bind (fun r => (decodeBlocks n r.2).map (fun more => r.1 ++ more))

/-- Blocks of 256 bytes from its start, encoded; the rest is sent raw. -/
def encodePayload (b : List Byte) : List Byte := encodeBlocks (b.length / 256) b

/-- The payload of n bytes that a link's bytes stand for. -/
def decodePayload (n : Nat) (w : List Byte) : Option (List Byte) := (decodeBlocks (n / 256) w).filter (fun b => b.length == n)

/-! Packets. -/

/-- A packet as a port sends it: compressed when the port compresses, the packet does not forbid it (07 R225) and there is a whole block. -/
def State.onPort (s : State) (port : Nat) (p : ScalePacket) : ScalePacket :=
  match p.mem with
  | some m =>
    if s.policy.noComp.contains port || m.raw || decide (m.data.length < 256) then p
    else { p with mem := some { m with data := [] }, link := some (encodePayload m.data) }
  | none => p

/-- A packet as it was before its link; none is a link error. -/
def offLink (p : ScalePacket) : Option ScalePacket :=
  match p.link, p.mem with
  | some w, some m => (decodePayload m.size w).map (fun b => { p with mem := some { m with data := b }, link := none })
  | _, _ => some p

end Sys2Proof.Machine
end

