-- ==== Sys2Proof/Machine/Access.lean ====
section
/-! DEFINITION. Where things stand in the package (spec 00 R5 to R8) and the accessors of the state: cores, tiles, dies, frames and
registers, each with one way in and one way out. -/

namespace Sys2Proof.Machine

/-! Topology (R5 to R8). A core key is 4096 · space + the core field of 07 R205. -/

def keySpace (k : Nat) : Nat := k / 4096
def keyId (k : Nat) : Nat := k % 4096
def coreKey (space id : Nat) : Nat := 4096 * space + id

/-- A compute core. -/
def isCompute (k : Nat) : Bool := decide (k < 4096)

/-- The tile of a compute core (R6). -/
def tileOf (k : Nat) : Nat := k / 8

/-- The die of a tile (R6). -/
def dieOfTile (t : Nat) : Nat := t / 64

/-- The die of a compute core. -/
def dieOf (k : Nat) : Nat := k / 512

/-- The compute dies that are Aster (R3, 09 R263). -/
def isAster (d : Nat) : Bool := d == 0 || d == 2 || d == 5 || d == 7

/-- The profile of a core (R8, 01 R45). -/
def profileOf (k : Nat) : Profile :=
  match keySpace k with
  | 0 => if isAster (dieOf k) then .F else .L
  | 1 => .K
  | _ => .G

/-- Whether a core key names a core that exists (R5, 07 R205). -/
def coreExists (k : Nat) : Bool :=
  match keySpace k with
  | 0 => true
  | 1 => decide (keyId k / 16 < 12)
  | 2 => decide (keyId k / 64 < 2) && decide (keyId k % 64 < 36)
  | _ => false

/-- Package column and row of a tile (R7). -/
def tileCol (t : Nat) : Nat :=
  8 * (dieOfTile t % 4) + 4 * bitsOf t 4 4 + 2 * bitsOf t 2 2 + bitsOf t 0 0
def tileRow (t : Nat) : Nat :=
  8 * (dieOfTile t / 4) + 4 * bitsOf t 5 5 + 2 * bitsOf t 3 3 + bitsOf t 1 1

/-- The tile at a package column and row (R7). -/
def tileAt (col row : Nat) : Nat :=
  let x := col % 8
  let y := row % 8
  64 * (col / 8 + 4 * (row / 8)) + 16 * (x / 4) + 32 * (y / 4) + 4 * (x / 2 % 2) + 8 * (y / 2 % 2) + x % 2 + 2 * (y % 2)

/-- The super-group of a tile, numbered over the package. -/
def superGroupOf (t : Nat) : Nat := t / 16

/-! Records of the state. -/

def State.core (s : State) (k : Nat) : Core := kgetD s.cores k Core.reset
def State.setCore (s : State) (k : Nat) (c : Core) : State := { s with cores := kset s.cores k c }
def State.modCore (s : State) (k : Nat) (f : Core → Core) : State := s.setCore k (f (s.core k))

def State.tile (s : State) (t : Nat) : Tile := kgetD s.tiles t Tile.reset
def State.setTile (s : State) (t : Nat) (x : Tile) : State := { s with tiles := kset s.tiles t x }
def State.modTile (s : State) (t : Nat) (f : Tile → Tile) : State := s.setTile t (f (s.tile t))

def State.die (s : State) (d : Nat) : Die := kgetD s.dies d Die.reset
def State.setDie (s : State) (d : Nat) (x : Die) : State := { s with dies := kset s.dies d x }
def State.modDie (s : State) (d : Nat) (f : Die → Die) : State := s.setDie d (f (s.die d))

def State.router (s : State) (r : Nat) : Router := kgetD s.routers r Router.reset
def State.modRouter (s : State) (r : Nat) (f : Router → Router) : State := { s with routers := kset s.routers r (f (s.router r)) }

def State.fn (s : State) (n : Nat) : PcieFn := kgetD s.fns n PcieFn.reset
def State.modFn (s : State) (n : Nat) (f : PcieFn → PcieFn) : State := { s with fns := kset s.fns n (f (s.fn n)) }

def State.modCtx (s : State) (tag : Nat) (f : Context → Context) : State :=
  match kget s.ctxs tag with
  | some c => { s with ctxs := kset s.ctxs tag (f c) }
  | none => s

def State.modColl (s : State) (id : Nat) (f : Collective → Collective) : State :=
  match kget s.colls id with
  | some c => { s with colls := kset s.colls id (f c) }
  | none => s

def State.modOp (s : State) (id : Nat) (f : MemOp → MemOp) : State :=
  match kget s.ops id with
  | some o => { s with ops := kset s.ops id (f o) }
  | none => s

/-- A new name, and the state that has used it (log entry 1). -/
def State.fresh (s : State) : Nat × State := (s.nextId, { s with nextId := s.nextId + 1 })

/-- A free value drawn (log entry 3). -/
def State.draw (s : State) : Nat × State := (Config.victim s.freeIx, { s with freeIx := s.freeIx + 1 })

/-- Something leaves the package (log entry 1). -/
def State.emit (s : State) (e : Egress) : State := { s with egress := s.egress ++ [e] }

/-! Frames. -/

def State.top (s : State) (k : Nat) : Option Frame := (s.core k).frames.head?

/-- The frames of a core with the top one changed. -/
def modHead {α : Type} (f : α → α) : List α → List α
  | [] => []
  | x :: xs => f x :: xs

def State.modTop (s : State) (k : Nat) (f : Frame → Frame) : State :=
  s.modCore k (fun c => { c with frames := modHead f c.frames })

/-- The frame of a core that belongs to a task. -/
def State.frameOf (s : State) (k task : Nat) : Option Frame := (s.core k).frames.find? (fun f => f.task == task)

/-- The frame of a core at a level (09 R248: at most one). -/
def State.frameAt (s : State) (k level : Nat) : Option Frame := (s.core k).frames.find? (fun f => f.level == level)

/-- The frame of a task changed, wherever it stands on the core's stack. -/
def State.modTask (s : State) (k task : Nat) (f : Frame → Frame) : State :=
  s.modCore k (fun c => { c with frames := c.frames.map (fun fr => if fr.task = task then f fr else fr) })

def Frame.isAway (f : Frame) : Bool := match f.kind with | .away _ => true | _ => false
def Frame.isTrapHandler (f : Frame) : Bool := match f.kind with | .trapHandler => true | _ => false

/-- The frame that issues bundles on the current core (09 R248): its top frame, when that is no away marker and none of the X9's own
handlers that run no program. -/
def State.running (s : State) : Option Frame :=
  match s.top s.cur with
  | some f =>
    match f.kind with
    | .away _ => none
    | .fixedAtomic _ => none
    | _ => some f
  | none => none

/-! Registers (R19, R20). -/

/-- Scalar registers in the frame's window (01 R22). -/
def Frame.xWindow (f : Frame) : Nat := 8 * (field f.wins 31 29 + 1)

/-- Vector registers in the frame's window (01 R22). -/
def Frame.vWindow (f : Frame) : Nat := 6 * (field f.wins 28 26 + 1)

/-- R19: x0 reads zero. -/
def Frame.xGet (f : Frame) (n : Nat) : Word := if n = 0 then 0#64 else kgetD f.x n 0#64

/-- R20: a write to x0 is discarded. -/
def Frame.xSet (f : Frame) (n : Nat) (v : Word) : Frame := if n = 0 then f else { f with x := kset f.x n v }

def Frame.vGet (f : Frame) (n : Nat) : VReg := kgetD f.v n 0#512
def Frame.vSet (f : Frame) (n : Nat) (v : VReg) : Frame := { f with v := kset f.v n v }

/-- R19: k0 reads all ones. -/
def Frame.kGet (f : Frame) (n : Nat) : Word := if n = 0 then BitVec.allOnes 64 else kgetD f.k n 0#64

/-- R20: a write to k0 is discarded. -/
def Frame.kSet (f : Frame) (n : Nat) (v : Word) : Frame := if n = 0 then f else { f with k := kset f.k n v }

/-- n consecutive scalar registers from a number on. -/
def Frame.xRange (f : Frame) (n count : Nat) : List Word := (List.range count).map (fun i => f.xGet (n + i))

def Frame.apply (f : Frame) (r : RegWrite) : Frame :=
  match r with
  | .x n v => f.xSet n v
  | .v n v => f.vSet n v
  | .k n v => f.kSet n v

/-- The word of the governing predicate: complemented when QLX says so (R87). -/
def Frame.predicate (f : Frame) (w : Bundle) : Word :=
  let k := f.kGet w.qual.pred.toNat
  if w.qual.neg then ~~~k else k

/-- The level state changed. -/
def Frame.modLv (f : Frame) (g : LevelState → LevelState) : Frame := { f with lv := g f.lv }

/-- Flags ORed into `fpflg` (R38). -/
def Frame.orFlags (f : Frame) (fl : Flags) : Frame :=
  f.modLv (fun l => { l with fpflg := l.fpflg ||| fl.zeroExtend 64 })

/-- Whether a flag of a set is enabled by a value of `fpen` (R38). -/
def enables (fpen : Word) (fl : Flags) : Bool := (fl &&& fpen.setWidth 6) != 0#6

/-- Whether a flag of a set is enabled in a frame's `fpen` (R38). -/
def Frame.trapsOn (f : Frame) (fl : Flags) : Bool := enables f.lv.fpen fl

/-- The latches of a core emptied (R30). -/
def Core.dropLatches (c : Core) : Core := { c with latchA := none, latchB := none, latchC := none }

/-- The latches that hold a register emptied (R30). -/
def Core.dropLatch (c : Core) (n : Nat) : Core :=
  let keep (l : Latch) : Latch := match l with | some (m, v) => if m = n then none else some (m, v) | none => none
  { c with latchA := keep c.latchA, latchB := keep c.latchB, latchC := keep c.latchC }

/-! Follow mode (04 R118, R121). -/

/-- Whether a core follows a stream. -/
def Core.follows (c : Core) (n : Nat) : Bool := match c.follow with | .attached m _ => m == n | _ => false

/-- The stream that a core leads. -/
def Core.leads (c : Core) : Option Nat := match c.follow with | .leading n => some n | _ => none

/-- A core that follows nothing any more (04 R121). -/
def Core.detach (c : Core) : Core := { c.dropLatches with follow := .free }

/-- A follower whose stream has closed: it still executes the bundles forwarded to it, then goes on by its own fetch (04 R121). -/
def Core.drain (c : Core) : Core :=
  match c.follow with
  | .attached _ [] => c.detach
  | .attached _ fwd => { c with follow := .draining fwd }
  | _ => c

/-- The followers of a stream of a tile let go (04 R121). -/
def State.freeFollowers (s : State) (tile n : Nat) : State :=
  (List.range 8).foldl (fun s i =>
    let k := 8 * tile + i
    if (s.core k).follows n then s.modCore k Core.drain else s) s

/-- 04 R121: the stream that a leader leads closed. -/
def State.closeStream (s : State) (core : Nat) : State :=
  match (s.core core).leads with
  | some n => (s.freeFollowers (tileOf core) n).modCore core (fun c => { c with follow := .free })
  | none => s

/-! Launches. -/

def State.ctx (s : State) (tag : Nat) : Option Context := kget s.ctxs tag

/-- Bits of word i of a launch record (13 R350). -/
def Context.recBits (c : Context) (i hi lo : Nat) : Nat := field (c.words.getD i 0#64) hi lo

/-- The tenant of a launch; 0 where there is none. -/
def State.tenantOf (s : State) (tag : Nat) : Nat := ((s.ctx tag).map (·.tenant)).getD 0

/-- The trap-handler address of a launch (13 R350). -/
def Context.trapHandler (c : Context) : Word := c.words.getD 4 0#64

/-- The running launch that holds a compute core (07 R206). -/
def State.launchAt (s : State) (k : Nat) : Option Nat :=
  let tag := (s.tile (tileOf k)).launch
  match s.ctx tag with
  | some c => if c.state == .running && c.foot.contains k then some tag else none
  | none => none

/-- The frame scratch area per core of a launch, in bytes (13 R350). -/
def Context.frameScratch (c : Context) : Nat := 256 * c.recBits 1 24 16

/-- The footprint cores of a tile (13 R352). -/
def Context.coresOf (c : Context) (t : Nat) : List Nat := c.foot.filter (fun k => tileOf k == t)

/-- The inbox depth of a launch (13 R350, 12 R340). -/
def Context.depth (c : Context) : Nat := if c.recBits 0 23 20 = 0 then 16 else c.recBits 0 23 20

/-- Tiles of a tenant's sub-mesh (R362). -/
def tenantHasTile (t : TenantEntry) (tile : Nat) : Bool :=
  t.valid && decide (t.col0 ≤ tileCol tile) && decide (tileCol tile < t.col0 + t.width) &&
    decide (t.row0 ≤ tileRow tile) && decide (tileRow tile < t.row0 + t.height)

/-- Whether a tile lies in a tenant's sub-mesh. -/
def State.inMesh (s : State) (tenant tile : Nat) : Bool := ((kget s.tenants tenant).map (fun t => tenantHasTile t tile)).getD false

/-- Whether a compute die can run anything: the boot has reached its stage 3 (16 R427) and the die is not under reset (15 R419). -/
def State.dieHeld (s : State) (d : Nat) : Bool := decide (s.boot.stage < 3) || (s.die d).inReset

/-- Whether a launch is switched out or trapped (13 R364). -/
def State.parked (s : State) (tag : Nat) : Bool :=
  match s.ctx tag with | some c => c.state == .out || c.state == .trapped | none => false

/-- Whether a core stands still: a compute core whose die runs nothing or whose tile a parked launch holds, another one whose top frame is a parked
launch's (13 R368 step 1). -/
def State.stilled (s : State) (core : Nat) : Bool :=
  if isCompute core then s.dieHeld (dieOf core) || s.parked (s.tile (tileOf core)).launch
  else ((s.top core).map (fun f => s.parked f.ltag)).getD false

/-- What a parked launch has saved (13 R370). -/
def State.savedOf (s : State) (tag : Nat) : Option Saved := (s.ctx tag).bind (·.saved)

/-- A core of a launch changed where it is kept: in place, or with what the launch has saved. -/
def State.modCoreOf (s : State) (tag core : Nat) (f : Core → Core) : State :=
  match (s.savedOf tag).bind (fun v => kget v.cores core) with
  | some k => s.modCtx tag (fun c => { c with saved := c.saved.map (fun v => { v with cores := kset v.cores core (f k) }) })
  | none => s.modCore core f

/-- A tile of a launch changed where it is kept. -/
def State.modTileOf (s : State) (tag tile : Nat) (f : Tile → Tile) : State :=
  match (s.savedOf tag).bind (fun v => kget v.tiles tile) with
  | some t => s.modCtx tag (fun c => { c with saved := c.saved.map (fun v => { v with tiles := kset v.tiles tile (f t) }) })
  | none => s.modTile tile f

/-- Whether the frame of an operation is among what its launch has saved: the operation completes once it is back. -/
def State.ownerSaved (s : State) (o : MemOp) : Bool :=
  (((s.savedOf o.ltag).bind (fun v => kget v.cores o.core)).map (fun k => k.frames.any (fun f => f.task == o.task))).getD false

/-! Scale-up routes (14 R396, R398). -/

def connKey (peer cls : Nat) : Nat := 4 * peer + cls

/-- The port mask of a package (R396). -/
def State.route (s : State) (peer : Nat) : Nat := kgetD s.routes peer 0

/-- The Sluice die to which a connection belongs (R398). -/
def State.connDie (s : State) (k : Nat) : Nat := ((firstBelow (fun p => bitOf (s.route (k / 4)) p) 18).getD 0) / 9

/-! Released accesses (10 R298, R299). -/

/-- Whether an operation has been performed. -/
def MemOp.performed (o : MemOp) : Bool := o.elems.all (·.done)

/-- One access not yet performed. -/
def Elem.new (ix : Nat) (loc : Loc) (va size data : Nat) : Elem :=
  { ix := ix, loc := loc, va := va, size := size, data := data, got := 0, done := false, asked := false, bad := none }

/-- Whether released accesses have all been performed; one with a home-side fault has no effect and is not waited for. -/
def State.afterDone (s : State) (l : List Nat) : Bool :=
  l.all (fun id => match kget s.ops id with | some o => o.performed || o.fault.isSome | none => true)

/-- Those of a list of accesses that have not been performed. -/
def State.open_ (s : State) (l : List Nat) : List Nat := l.filter (fun id => !s.afterDone [id])

/-- The accesses of a core, issued before a given one, that are not yet performed, with those that its frames and its acquires have acquired (10 R299 to
R301). -/
def State.unperformedBefore (s : State) (core id : Nat) : List Nat :=
  let mine := s.ops.filter (fun o => decide (o.1 < id) && o.2.core == core && o.2.dest != .buffer)
  (mine.filter (fun o => !o.2.performed)).map (·.1) ++ s.open_ (mine.flatMap (fun o => o.2.behind)) ++ s.open_ (s.core core).behind

/-- The accesses that a release of a core now orders before what follows it. -/
def State.unperformed (s : State) (core : Nat) : List Nat := s.unperformedBefore core s.nextId

/-- The failure of a copy job, when it is the first, or of the same cycle with a lower status (11 R310). -/
def CopyJob.fail (j : CopyJob) (now status : Nat) (a : Word) : CopyJob :=
  match j.status with
  | some st => if j.failCycle = now ∧ status < st then { j with status := some status, failAddr := a } else j
  | none => { j with status := some status, failAddr := a, failCycle := now }

/-- A place a number of bytes further on, and the aligned 8-byte unit in which a place lies. -/
def Loc.shift (l : Loc) (k : Nat) : Loc := match l with | .global p h pa => .global p h (pa + k) | .array t off => .array t (off + k)
def Loc.unit (l : Loc) : Loc := match l with | .global p h pa => .global p h (pa / 8 * 8) | .array t off => .array t (off / 8 * 8)

/-! Scopes (10 R296). -/

/-- The die on which a core stands, numbered over the compute, Bedstone and Sluice dies. -/
def dieKey (k : Nat) : Nat :=
  match keySpace k with | 0 => dieOf k | 1 => 8 + keyId k / 16 | _ => 32 + keyId k / 64

/-- Whether a number stands for a core of another package or for the host (the model's numbers for their requests). -/
def fromOutside (k : Nat) : Bool := (decide (65536 ≤ k) && decide (k < 131072)) || (decide (917506 ≤ k) && decide (k < 983040))

/-- Whether the domain of a scope around one core holds another. -/
def scopeHolds (scope a b : Nat) : Bool :=
  let near (n : Nat) : Bool := a == b || (isCompute a && isCompute b && tileOf a / n == tileOf b / n)
  match scope with
  | 0 => a == b
  | 1 => near 1
  | 2 => near 4
  | 3 => near 16
  | 4 => dieKey a == dieKey b && fromOutside a == fromOutside b
  | 5 => fromOutside a == fromOutside b
  | _ => true

/-- Whether a release reaches an acquire of a core at a scope (R296, R299). -/
def Rel.reaches (r : Rel) (core scope : Nat) : Bool := scopeHolds r.scope r.core core && scopeHolds scope core r.core

/-- What a release at a scope hands to a core of this or, at `.sys`, of another package (R296, R299). -/
def State.handed (s : State) (core scope pkg target : Nat) : List Nat :=
  if (if pkg = s.pkg then scopeHolds scope core target else decide (6 ≤ scope)) then s.unperformed core else []

end Sys2Proof.Machine
end

