-- ==== Sys2Proof/Machine/Memory.lean ====
section
/-! DEFINITION. Global memory (spec 10 R279 to R288, 13 R374 to R377): page tables and translation buffers, homes, the caches of tiles
and slices, the bytes that stand at a home, instruction fetch. -/

namespace Sys2Proof.Machine

/-- R279: canonical when bits 63 to 57 equal bit 56. -/
def canonical (va : Word) : Bool :=
  let top := field va 63 56
  top == 0 || top == 255

/-- Whether the home of a line is a tile of this package (R280). Policy 8 is the model's code for a replica (R287). -/
def isTilePolicy (p : Nat) : Bool := p == 1 || p == 2 || p == 8

/-- The slice of a physical address (R280 code 0). -/
def sliceOf (pa : Nat) : Nat := pa / 4096 % 12

/-- h of R281. -/
def hashOf (pa : Nat) : Nat :=
  (bitsOf pa 14 6) ^^^ (bitsOf pa 23 15) ^^^ (bitsOf pa 32 24) ^^^ (bitsOf pa 41 33) ^^^ (bitsOf pa 50 42)

/-- The hashed home tile of a tenant's line (R281). -/
def hashedHome (t : TenantEntry) (pa : Nat) : Nat :=
  let n := t.width * t.height
  let i := hashOf pa % n
  tileAt (t.col0 + i % t.width) (t.row0 + i / t.width)

/-- The first physical address of the register aperture (14 R392). -/
def apertureBase : Nat := 0xFFF0000000000

/-- Whether a physical address lies in the register aperture. -/
def inAperture (pa : Nat) : Bool := decide (apertureBase ≤ pa)

/-- The line of an access. -/
def Loc.line (l : Loc) : Nat := match l with | .global _ _ pa => pa / 64 | .array _ _ => 0

/-! Caches. -/

/-- The lines that a home holds. -/
def State.homeLines (s : State) (policy home : Nat) : List CLine :=
  if isTilePolicy policy then (s.tile home).lines else kgetD s.slices home []

def State.setHomeLines (s : State) (policy home : Nat) (l : List CLine) : State :=
  if isTilePolicy policy then s.modTile home (fun t => { t with lines := l })
  else { s with slices := kset s.slices home l }

/-- Whether a cached line is the one that an access by a policy uses: a replica for policy 8, the home's own line otherwise. -/
def CLine.serves (c : CLine) (policy line : Nat) : Bool := c.line == line && c.replica == (policy == 8)

/-- A line with its data, at its home. -/
def findLine (l : List CLine) (line : Nat) : Option CLine := l.find? (fun c => c.serves 0 line && !c.res)

/-- The line with its data that serves an access by a policy. -/
def State.lineAt (s : State) (policy home line : Nat) : Option CLine :=
  (s.homeLines policy home).find? (fun c => c.serves policy line && !c.res)

/-- The bytes of a physical range as they stand at a home: in its cache, or in the backing store (R282). -/
def State.readHome (s : State) (policy home pa n : Nat) : List Byte :=
  (List.range n).map (fun i =>
    match s.lineAt policy home ((pa + i) / 64) with
    | some c => c.data.getD ((pa + i) % 64) 0#8
    | none => memGet s.dram (pa + i))

/-- One byte stored in a line. -/
def setLineByte (l : List CLine) (pa : Nat) (b : Byte) : List CLine :=
  l.map (fun c => if c.serves 0 (pa / 64) && !c.res then { c with data := c.data.set (pa % 64) b, dirty := true } else c)

/-- One byte stored at a home: into the cached line when the home holds it, into the backing store otherwise. -/
def State.writeHomeByte (s : State) (policy home pa : Nat) (b : Byte) : State :=
  if (findLine (s.homeLines policy home) (pa / 64)).isSome then
    s.setHomeLines policy home (setLineByte (s.homeLines policy home) pa b)
  else { s with dram := memSet s.dram pa b }

/-- Bytes stored at a home. -/
def State.writeHome (s : State) (policy home pa : Nat) : List Byte → State
  | [] => s
  | b :: bs => (s.writeHomeByte policy home pa b).writeHome policy home (pa + 1) bs

/-- The use of a line recorded, for least-recently-used replacement (R289); a non-temporal use makes it the first to be displaced (07 R196). -/
def State.useLine (s : State) (policy home line : Nat) (nt : Bool) : State :=
  let n := s.uses + 1
  let stamped : List CLine := (s.homeLines policy home).map (fun (c : CLine) =>
    if c.serves policy line then { c with stamp := if nt then 0 else n } else c)
  State.setHomeLines { s with uses := n } policy home stamped

/-- The cache-side ways of a tile (R289). -/
def Tile.cacheWays (t : Tile) : List Nat := (List.range 20).drop (t.scratchKiB / 16)

/-- The set of a line in a tile cache (R289). -/
def setOfLine (line : Nat) : Nat := line % 256

/-- The way a miss reserves (R360): the lowest way of the set that is empty, or the least recently used. Nothing when every way of
the set is a reservation. -/
def Tile.pickWay (t : Tile) (line : Nat) : Option Nat :=
  let inSet := t.lines.filter (fun c => setOfLine c.line == setOfLine line)
  match t.cacheWays.find? (fun w => !(inSet.any (fun c => c.way == w))) with
  | some w => some w
  | none =>
    let cand := inSet.filter (fun c => !c.res)
    match sortBy (fun (a b : CLine) => decide (a.stamp < b.stamp)) cand with
    | c :: _ => some c.way
    | [] => none

/-- A line written back to its backing store when it is dirty (R282). -/
def State.writeBack (s : State) (c : CLine) : State :=
  if c.dirty && !c.res then { s with dram := memSetBytes s.dram (64 * c.line) c.data } else s

/-- The lines that a slice of 64 MiB holds (00 R11). -/
def sliceLines : Nat := 1048576

/-- R360: a miss at a home reserves a place for the line, evicting what stands there; the line that a full slice gives up is a free value
(log entry 3). -/
def State.reserveLine (s : State) (policy home line : Nat) : State :=
  if (s.homeLines policy home).any (fun c => c.serves policy line) then s
  else if isTilePolicy policy then
    let s := { s with uses := s.uses + 1 }
    let t := s.tile home
    match t.pickWay line with
    | none => s
    | some w =>
      let old := t.lines.filter (fun c => setOfLine c.line == setOfLine line && c.way == w)
      let s := old.foldl State.writeBack s
      s.modTile home (fun t =>
        { t with lines := t.lines.filter (fun c => !(setOfLine c.line == setOfLine line && c.way == w)) ++
                   [{ line := line, way := w, dirty := false, res := true, replica := policy == 8, stamp := s.uses, data := [] }] })
  else
    let new : CLine := { line := line, way := 0, dirty := false, res := true, replica := false, stamp := s.uses, data := [] }
    let l := s.homeLines policy home
    if l.length < sliceLines then s.setHomeLines policy home (l ++ [new])
    else
      let (victim, s) := s.draw
      let held := l.filter (fun c => !c.res)
      match held[victim % held.length]? with
      | some c => (s.writeBack c).setHomeLines policy home (l.erase c ++ [new])
      | none => s

/-- The bytes of a line in the backing store. -/
def State.fillData (s : State) (line : Nat) : List Byte := memGetBytes s.dram (64 * line) 64

/-- The line as the cache of its home holds it, wherever that is. -/
def State.cachedLine (s : State) (line : Nat) : Option CLine :=
  match s.tiles.findSome? (fun t => findLine t.2.lines line) with
  | some c => some c
  | none => s.slices.findSome? (fun l => findLine l.2 line)

/-- The bytes of a line as its home holds them (R287). -/
def State.currentLine (s : State) (line : Nat) : List Byte := ((s.cachedLine line).map (·.data)).getD (s.fillData line)

/-- Reserved lines filled: a replica from the line's home, the others from the backing store. -/
def fillLines (line : Nat) (own rep : List Byte) (l : List CLine) : List CLine :=
  l.map (fun c => if c.line = line ∧ c.res = true then { c with res := false, data := if c.replica then rep else own } else c)

/-- A line reserved and filled at its home. -/
def State.placeLine (s : State) (policy home line : Nat) : State :=
  let s := s.reserveLine policy home line
  s.setHomeLines policy home (fillLines line (s.fillData line) (s.currentLine line) (s.homeLines policy home))

/-- The bytes that the 12 stacks of 64 GB hold (00 R11, R13). -/
def dramBytes : Nat := 768000000000

/-- Whether a home cannot be reached: its die is under reset (07 R197), or no stack holds the address (log entry 10). -/
def State.homeDown (s : State) (policy home pa : Nat) : Bool :=
  (isTilePolicy policy && (s.die (dieOfTile home)).inReset) || (!inAperture pa && decide (dramBytes ≤ pa))

/-- Whether the bytes of a line can come only from DRAM that has an uncorrectable error there (15 R423). -/
def State.lineBad (s : State) (policy home line : Nat) : Bool :=
  s.badLines.contains line && (s.lineAt policy home line).isNone && (policy != 8 || (s.cachedLine line).isNone)

/-- Whether an access and another reach a common byte. -/
def locsMeet (a : Loc) (n : Nat) (b : Loc) (m : Nat) : Bool :=
  match a, b with
  | .global p h x, .global q k y =>
    if p = 3 ∨ q = 3 then p == q && h == k && overlaps x n y m
    else if p = 4 ∨ q = 4 then p == q && overlaps x n y m
    else overlaps x n y m
  | .array t x, .array u y => t == u && overlaps x n y m
  | _, _ => false

/-- Whether a running `ahnd` handler of another operation holds the bytes of an access (07 R200). -/
def State.heldByHandler (s : State) (id : Nat) (l : Loc) (n : Nat) : Bool :=
  s.ops.any (fun o => o.1 != id && o.2.handler.isSome && o.2.elems.any (fun d => !d.done && locsMeet d.loc d.size l n))

/-- Whether an acquire still orders what follows it: it or what it acquired has not been performed (10 R298, R299). -/
def State.acquiring (s : State) (o : MemOp) : Bool := o.ord % 2 == 1 && o.fault.isNone && !(o.performed && s.afterDone o.behind)

/-! Translation (13 R374 to R377). -/

/-- What an access needs of a page (R376). -/
inductive Need where
  | load | store | atomic | fetch
  deriving DecidableEq, Repr

/-- Why an address is not translated: a cause, a word of the tables that an `ahnd` handler holds (07 R200), or one with an uncorrectable soft error
(15 R423). -/
inductive NoPhys where
  | cause (c : Cause)
  | held
  | ecc
  deriving DecidableEq, Repr

/-- A translated address. -/
structure Phys where
  policy : Nat
  home : Nat
  pa : Nat
  deriving DecidableEq, Repr

/-- The levels of a page table: shift and index bits (R374). -/
def tableLevels : List (Nat × Nat) := [(45, 12), (34, 11), (29, 5), (21, 8), (16, 5)]

/-- R392: a page of the aperture is the 64 KiB page of the tenant's own function, with policy 0. -/
def aperturePageOk (s : State) (tenant leaf lg : Nat) : Bool :=
  let base := bitsOf leaf 51 16 * 65536
  !inAperture (base + 2 ^ lg - 1) ||
    (lg == 16 && bitsOf leaf 7 5 == 0 && ((kget s.tenants tenant).map (·.function)) == some ((base - apertureBase) / 65536))

/-- A leaf accepted by R376 for a page of 2^lg bytes. -/
def leafOk (s : State) (tenant leaf lg : Nat) : Bool :=
  let policy := bitsOf leaf 7 5
  (policy == 4 || aperturePageOk s tenant leaf lg) &&
  decide (bitsOf leaf 51 16 * 65536 % 2 ^ lg = 0) && decide (policy < 5) &&
    (policy != 2 || s.inMesh tenant (bitsOf leaf 60 52)) && !(bitOf leaf 8 && bitOf leaf 3)

/-- R374, R376: a walk from a table on; levels are numbered from `n`. An entry that no stack holds translates nothing (log entry 10). -/
def walkFrom (s : State) (tenant va : Nat) (n table : Nat) : List (Nat × Nat) → Except NoPhys (Nat × Nat)
  | [] => .error (.cause .xlate)
  | (shift, bits) :: rest =>
    let addr := table + 8 * (bitsOf va (shift + bits - 1) shift)
    if dramBytes ≤ addr then .error (.cause .xlate)
    else if s.heldByHandler 0 (.global 0 (sliceOf addr) addr) 8 then .error .held
    else if s.lineBad 0 (sliceOf addr) (addr / 64) then .error .ecc
    else
      let e := leValue (s.readHome 0 (sliceOf addr) addr 8)
      if !bitOf e 0 then .error (.cause .xlate)
      else if bitOf e 1 then
        if n = 0 then .error (.cause .xlate) else if leafOk s tenant e shift then .ok (e, shift) else .error (.cause .xlate)
      else walkFrom s tenant va (n + 1) (bitsOf e 51 12 * 4096) rest

/-- R376: a walk of a tenant's tables; the leaf and log2 of the page size. -/
def State.walk (s : State) (tenant va : Nat) : Except NoPhys (Nat × Nat) :=
  match kget s.tenants tenant with
  | some t => if t.valid then walkFrom s tenant va 0 t.root tableLevels else .error (.cause .xlate)
  | none => .error (.cause .xlate)

/-- The first leaf of a tree of tables that maps a physical address and passes a test: the tables searched from one level on. -/
def leafFrom (s : State) (tenant pa : Nat) (ok : Nat → Bool) (n table : Nat) : List (Nat × Nat) → Option Nat
  | [] => none
  | (shift, bits) :: rest =>
    (List.range (2 ^ bits)).findSome? (fun i =>
      let addr := table + 8 * i
      let e := leValue (s.readHome 0 (sliceOf addr) addr 8)
      if !bitOf e 0 then none
      else if bitOf e 1 then
        if n != 0 && leafOk s tenant e shift && ok e && pa / 2 ^ shift == bitsOf e 51 16 * 65536 / 2 ^ shift then some e else none
      else leafFrom s tenant pa ok (n + 1) (bitsOf e 51 12 * 4096) rest)

/-- A leaf of a tenant's tables that maps a physical address and passes a test. -/
def State.leafFor (s : State) (tenant pa : Nat) (ok : Nat → Bool) : Option Nat :=
  (kget s.tenants tenant).bind (fun e => if e.valid then leafFrom s tenant pa ok 0 e.root tableLevels else none)

/-- A translation-buffer lookup (R377). -/
def tlbFind (l : List TlbEntry) (tenant va : Nat) : Option TlbEntry :=
  l.find? (fun e => e.tenant == tenant && va / 2 ^ e.lg == e.base / 2 ^ e.lg)

/-- A translation buffer with an entry put in, displacing one when it is full (R377; which one is a free value, log entry 3). -/
def tlbInsert (size victim : Nat) (l : List TlbEntry) (e : TlbEntry) : List TlbEntry :=
  if l.length < size then l ++ [e] else l.eraseIdx (victim % size) ++ [e]

/-- R377: the leaf of an address for a core's die, through the translation buffers where the core has them (a compute core's tile,
super-group and die), with every level that missed filled on the way back. -/
def State.lookup (s : State) (core tenant va : Nat) : Except NoPhys TlbEntry × State :=
  let walked : Except NoPhys TlbEntry := (s.walk tenant va).map (fun r => { tenant := tenant, base := va / 2 ^ r.2 * 2 ^ r.2, lg := r.2, leaf := r.1 })
  if isCompute core then
    let t := tileOf core
    let d := dieOf core
    let sg := superGroupOf t
    match tlbFind (s.tile t).utlb tenant va with
    | some e => (.ok e, s)
    | none =>
      let found : Except NoPhys TlbEntry :=
        match tlbFind (kgetD (s.die d).sgTlb sg []) tenant va with
        | some e => .ok e
        | none =>
          match tlbFind (s.die d).tlb tenant va with
          | some e => .ok e
          | none => walked
      match found with
      | .error w => (.error w, s)
      | .ok e =>
        let (victim, s) := s.draw
        let s := s.modTile t (fun x => { x with utlb := tlbInsert 64 victim x.utlb e })
        let s := s.modDie d (fun x =>
          let sgl := kgetD x.sgTlb sg []
          if (tlbFind sgl tenant va).isSome then x
          else
            { x with
              sgTlb := kset x.sgTlb sg (tlbInsert 1024 victim sgl e),
              tlb := if (tlbFind x.tlb tenant va).isSome then x.tlb else tlbInsert 8192 victim x.tlb e })
        (.ok e, s)
  else (walked, s)

/-- Whether a leaf grants what an access needs (R376). -/
def grants (leaf : Nat) (need : Need) : Bool :=
  match need with
  | .load => bitOf leaf 2
  | .store => bitOf leaf 3
  | .atomic => bitOf leaf 2 && bitOf leaf 3
  | .fetch => bitOf leaf 4

/-- Whether reads of a page by a core are served from a replica (R287); lines of policies 3 and 4 are never cached here (R282). -/
def State.replicated (s : State) (core tenant leaf : Nat) (need : Need) : Bool :=
  bitOf leaf 8 && decide (bitsOf leaf 7 5 < 3) && isCompute core && s.policy.replicas.contains tenant &&
    (match need with | .load => true | .fetch => true | _ => false)

/-- The home of a physical address under a leaf (R280, R281, R287). -/
def State.homeOf (s : State) (core tenant leaf pa : Nat) (need : Need) : Phys :=
  if s.replicated core tenant leaf need then
    { policy := 8, home := 64 * dieOf core + hashOf pa % 64, pa := pa }
  else
    match bitsOf leaf 7 5 with
    | 0 => { policy := 0, home := sliceOf pa, pa := pa }
    | 1 => { policy := 1, home := ((kget s.tenants tenant).map (fun t => hashedHome t pa)).getD 0, pa := pa }
    | 2 => { policy := 2, home := bitsOf leaf 60 52, pa := pa }
    | 3 => { policy := 3, home := bitsOf leaf 61 52, pa := pa }
    | p => { policy := p, home := 0, pa := pa }

/-- The translation of a virtual address for an access of a core (R376). -/
def State.translate (s : State) (core tenant : Nat) (va : Word) (need : Need) : Except NoPhys Phys × State :=
  if !canonical va then (.error (.cause .xlate), s)
  else
    let v := va.toNat % 2 ^ 57
    match s.lookup core tenant v with
    | (.error w, s) => (.error w, s)
    | (.ok e, s) =>
      if grants e.leaf need then
        let pa := bitsOf e.leaf 51 16 * 65536 / 2 ^ e.lg * 2 ^ e.lg + v % 2 ^ e.lg
        (.ok (s.homeOf core tenant e.leaf pa need), s)
      else (.error (.cause .perm), s)

/-! Values read ahead (10 R298, R302). -/

/-- The bytes of a place in this package. -/
def State.valueAt (s : State) (l : Loc) (n : Nat) : Nat :=
  match l with
  | .global p h pa => leValue (s.readHome p h pa n)
  | .array t off => memGetN (s.tile t).array off n

/-- The number that stands for an agent that is no core. -/
def someAgent : Nat := 2 ^ 40

/-- Whether what was read ahead still stands at its home. -/
def Foreseen.fresh (x : Foreseen) (s : State) : Bool := x.news.isEmpty && s.valueAt x.loc x.size == x.now

/-- A value read ahead when a core has reached its bytes: what stands there now, and who knows of it. -/
def Foreseen.reached (x : Foreseen) (before s : State) (core : Nat) : Foreseen :=
  let other := before.valueAt x.loc x.size != x.now
  let now := s.valueAt x.loc x.size
  if x.news.isEmpty && !other && now == x.now then x
  else { x with now := now, news := x.news ++ (if other then [core, someAgent] else [core]) }

/-- An acquire that later accesses have been performed before, when an agent has reached its bytes: one within its scope closes it, and so does an engine's
write, which its bytes tell. -/
def Ahead.reached (x : Ahead) (before s : State) (agent : Nat) : Ahead :=
  if x.closed || agent == x.core then x
  else if before.valueAt x.loc x.size != x.now || agent == someAgent || scopeHolds x.scope x.core agent then { x with closed := true }
  else { x with now := s.valueAt x.loc x.size }

/-- An access of a core to its bytes has been performed between two states: what the core itself has read ahead there is of no use any more (10 R297), and it
knows what others have read ahead too early. -/
def State.noteAccess (before s : State) (core : Nat) (l : Loc) (n : Nat) : State :=
  let agent := if core < 12288 ∨ fromOutside core = true then core else someAgent
  { s with
    foreseen := s.foreseen.filterMap (fun x =>
      if !locsMeet x.loc x.size l n then some x else if x.core == core then none else some (x.reached before s agent)),
    aheads := s.aheads.map (fun x => if locsMeet x.loc x.size l n then x.reached before s agent else x) }

/-- Whether a value read ahead belongs to a load that comes after operation `id` of its core in program order. -/
def Foreseen.isAfter (x : Foreseen) (id : Nat) : Bool := (x.op.map (fun o => decide (id < o))).getD true

/-- Everything that a core has read ahead for what follows operation `id` is of no use any more. -/
def State.forget (s : State) (core id : Nat) : State := { s with foreseen := s.foreseen.filter (fun x => !(x.core == core && x.isAfter id)) }

/-- R298: a core has performed an acquire or a fence of a scope, which comes before everything after operation `id`: what it has read ahead for that stays
good when no agent within the scope has written there since or knows of it. What others have written is known to it from now on. -/
def State.acquiredAt (s : State) (core scope id : Nat) : State :=
  let good (x : Foreseen) : Bool :=
    s.valueAt x.loc x.size == x.now && !x.news.any (fun k => k == someAgent || scopeHolds scope core k)
  { s with foreseen := (s.foreseen.filter (fun x => x.core != core || !x.isAfter id || good x)).map (fun x =>
      if x.core == core || x.fresh s then x else { x with news := x.news ++ [core] }) }

/-! Accesses performed before an acquire of a narrow scope (10 R296, R298). -/

/-- Whether accesses that come after an acquire may be performed before it: it is a load at one place of this package that could be performed there and then,
and whose scope leaves out some agent. -/
def State.passable (s : State) (id : Nat) (o : MemOp) : Bool :=
  s.aheads.any (fun x => x.acquire == id) ||
    match o.elems with
    | [e] =>
      o.kind == .load && decide (o.scope < 6) && !e.done && e.bad.isNone && o.fault.isNone && s.afterDone o.start && !s.heldByHandler id e.loc e.size &&
        (match e.loc with | .global p h pa => p != 3 && p != 4 && !inAperture pa && !s.homeDown p h pa && !s.lineBad p h (pa / 64) | .array _ _ => true) &&
        !s.ops.any (fun x => decide (x.1 < id) && x.2.core == o.core && x.2.dest != .buffer && x.2.fault.isNone &&
          x.2.elems.any (fun d => !d.done && locsMeet d.loc d.size e.loc e.size)) &&
        !s.rels.any (fun r => locsMeet r.1 r.2.1 e.loc e.size && r.2.2.core != o.core && r.2.2.reaches o.core o.scope && !s.afterDone r.2.2.ops)
    | _ => false

/-- The acquires of a core before operation `id` that stand open now are passed by an access that comes after them. -/
def State.passAcquires (s : State) (core id : Nat) : State :=
  let open_ := s.ops.filter (fun o => decide (o.1 < id) && o.2.core == core && s.acquiring o.2 && !s.aheads.any (fun x => x.acquire == o.1))
  if open_.isEmpty then s
  else
    { s with aheads := s.aheads.filter (fun x => ((kget s.ops x.acquire).map (fun o => s.acquiring o)).getD false) ++
        open_.filterMap (fun o => o.2.elems.head?.map (fun e =>
          { acquire := o.1, core := core, scope := o.2.scope, loc := e.loc, size := e.size, now := s.valueAt e.loc e.size, closed := false })) }

/-! Reads that an instruction or a push makes in place. -/

/-- The outcome of reading virtual bytes: the bytes, bytes of a line homed elsewhere that have not come yet, a line that is not
there now, a fault with its address, or an uncorrectable soft error with its address (15 R423). -/
inductive ReadOut where
  | ok (bytes : List Byte)
  | wait (p : Phys) (n : Nat)
  | busy
  | fault (c : Cause) (addr : Word)
  | ecc (addr : Word)
  deriving DecidableEq, Repr

def Phys.loc (p : Phys) : Loc := .global p.policy p.home p.pa

/-- 10 R298: a read that an instruction makes in place waits for the earlier accesses of its core to the same bytes, for an earlier acquire that it may not
pass, and for what its frames have acquired. -/
def State.readBlocked (s : State) (core : Nat) (p : Phys) (n : Nat) : Bool :=
  !s.afterDone (s.core core).behind ||
    s.ops.any (fun o => o.2.core == core && o.2.dest != .buffer && o.2.fault.isNone &&
      ((s.acquiring o.2 && !s.passable o.1 o.2) || o.2.elems.any (fun e => !e.done && locsMeet e.loc e.size p.loc n)))

/-- Whether a place is one of the register aperture of this package (14 R392). -/
def Phys.isRegister (p : Phys) : Bool := p.policy != 4 && inAperture p.pa

/-- The number under which a core keeps a copy of a line: lines of other packages and of the host stand apart. -/
def Phys.lineKey (p : Phys) : Nat :=
  p.pa / 64 + 2 ^ 46 * (if p.policy = 3 then 1 + p.home else if p.policy = 4 then 1025 else 0)

/-- The number under which a core keeps n bytes that it has asked for. -/
def Phys.bytesKey (p : Phys) (n : Nat) : Nat := (p.lineKey * 64 + p.pa % 64) * 128 + n

/-- The core that stands for the home of an access, when that is reached by the Millrace (10 R283, 11 R320): a tile, a slice, or the Sluice towards
another package or the host. -/
def State.homeCore (s : State) (core : Nat) (l : Loc) : Option Nat :=
  match l with
  | .global 3 peer _ => some (coreKey 2 (64 * s.connDie (connKey peer 0)))
  | .global 4 _ _ => some (coreKey 2 0)
  | .global p home pa =>
    if inAperture pa then none
    else if isTilePolicy p then (if isCompute core && tileOf core == home then none else some (8 * home))
    else if keySpace core == 1 && keyId core / 16 == home then none
    else some (coreKey 1 (16 * home))
  | .array _ _ => none

/-- Whether a place is homed elsewhere for a core (R283); agents that are no cores reach every home of the package at once (log entry 22). -/
def State.farFrom (s : State) (core : Nat) (p : Phys) : Bool :=
  p.policy == 3 || p.policy == 4 || (decide (core < 12288) && (s.homeCore core p.loc).isSome)

/-- The home controller accepts a request for a line (13 R360): the use of one that stands there is recorded, another reserves its place. -/
def State.acceptLine (s : State) (policy home line : Nat) (nt : Bool) : State :=
  if (s.homeLines policy home).any (fun c => c.serves policy line) then s.useLine policy home line nt else s.reserveLine policy home line

/-- An access of an operation accepted by its home. -/
def MemOp.accept (o : MemOp) (ix : Nat) : MemOp :=
  { o with elems := o.elems.map (fun d => if d.ix = ix then { d with taken := true } else d) }

/-- Access `e` of an operation accepted, unless it has been, or every way of its set is a reservation. -/
def State.acceptAccess (s : State) (id : Nat) (o : MemOp) (e : Elem) : State :=
  match e.loc with
  | .global p h pa =>
    if e.taken || e.done then s
    else
      let t := s.acceptLine p h (pa / 64) o.nt
      if (t.homeLines p h).any (fun c => c.serves p (pa / 64)) then t.modOp id (fun o => o.accept e.ix) else s
  | .array _ _ => s

/-- Whether an access of a core is one to its own tile, which the home takes in issue order (13 R360). -/
def Loc.onOwnTile (l : Loc) (core : Nat) : Bool :=
  isCompute core && (match l with | .global p h _ => isTilePolicy p && h == tileOf core | .array _ _ => false)

/-- Whether the home has accepted what a core has asked of its own tile before operation `id`. -/
def State.earlierAccepted (s : State) (core id : Nat) : Bool :=
  s.ops.all (fun o => !(decide (o.1 < id) && o.2.core == core && o.2.dest != .buffer && o.2.fault.isNone &&
    o.2.elems.any (fun e => e.loc.onOwnTile core && !e.taken && !e.done && e.bad.isNone)))

/-- R360: the requests of a core to its own tile that it has issued before operation `id` are accepted first, in the order issued. -/
def State.acceptEarlier (s : State) (core id : Nat) : State :=
  s.ops.foldl (fun t o =>
    if o.1 < id && o.2.core == core && o.2.dest != .buffer && o.2.fault.isNone then
      o.2.elems.foldl (fun t e => if e.loc.onOwnTile core then t.acceptAccess o.1 o.2 e else t) t
    else t) s

/-- R283: an in-place read or a fetch brings its line into the cache of the home, unless that waits for another's fill. -/
def State.bringLine (s : State) (core : Nat) (p : Phys) : State :=
  let line := p.pa / 64
  if p.policy = 3 ∨ p.policy = 4 ∨ s.homeDown p.policy p.home p.pa = true ∨ s.lineBad p.policy p.home line = true then s
  else
    let s := s.acceptEarlier core s.nextId
    let s := if (s.homeLines p.policy p.home).any (fun c => c.serves p.policy line) then s else s.placeLine p.policy p.home line
    s.useLine p.policy p.home line false

/-- The bytes of a physical address for a core, up to n of them within one line. DESIGN CHOICE: a fetch or an in-place read whose home cannot be reached is
an exact ABSENT (log entry 7). -/
def State.readPhys (s : State) (core : Nat) (p : Phys) (n : Nat) : ReadOut :=
  if s.farFrom core p then
    match kget (s.core core).rbuf (p.bytesKey n) with
    | some b => .ok b
    | none =>
      match s.ops.find? (fun o => o.2.core == core && o.2.dest == .buffer && o.2.fault.isSome && o.2.elems.any (fun e => e.loc == p.loc && e.size == n)) with
      | some o => if o.2.fault = some .ecc then .ecc 0#64 else .fault (if o.2.fault = some .perm then .perm else .absent) 0#64
      | none => .wait p n
  else if s.homeDown p.policy p.home p.pa then .fault .absent 0#64
  else if s.lineBad p.policy p.home (p.pa / 64) then .ecc 0#64
  else if (s.lineAt p.policy p.home (p.pa / 64)).isNone then .busy
  else .ok (s.readHome p.policy p.home p.pa n)

/-- The line of a place that stands near a core brought into the cache of its home. -/
def State.bringNear (s : State) (core : Nat) (p : Phys) : State := if s.farFrom core p then s else s.bringLine core p

/-- Virtual bytes read piece by piece, each piece within one line. -/
def State.readPieces (s : State) (core tenant : Nat) (need : Need) : List (Word × Nat) → ReadOut × State
  | [] => (.ok [], s)
  | (va, n) :: rest =>
    match s.translate core tenant va need with
    | (.error .held, s) => (.busy, s)
    | (.error .ecc, s) => (.ecc va, s)
    | (.error (.cause c), s) => (.fault c va, s)
    | (.ok p, s) =>
      if p.isRegister then (.fault .perm va, s)
      else if s.heldByHandler 0 p.loc n || (need == .load && s.readBlocked core p n) then (.busy, s)
      else
      let s := s.bringNear core p
      match s.readPhys core p n with
      | .ok bytes =>
        match (if need == .load then (if s.farFrom core p then s else s.noteAccess s core p.loc n).passAcquires core s.nextId else s).readPieces core tenant need rest with
        | (.ok more, s) => (.ok (bytes ++ more), s)
        | r => r
      | .fault c _ => (.fault c va, s)
      | .ecc _ => (.ecc va, s)
      | r => (r, s)

/-- A virtual range cut at line boundaries. -/
def linePieces (va : Word) (n fuel : Nat) : List (Word × Nat) :=
  match fuel with
  | 0 => []
  | fuel + 1 =>
    if n = 0 then []
    else
      let room := 64 - va.toNat % 64
      if n ≤ room then [(va, n)] else (va, room) :: linePieces (va + BitVec.ofNat 64 room) (n - room) fuel

/-- n virtual bytes read by a core. -/
def State.readV (s : State) (core tenant : Nat) (va : Word) (n : Nat) (need : Need) : ReadOut × State :=
  s.readPieces core tenant need (linePieces va n (n / 64 + 2))

/-! Instruction fetch (R81, 04 R130, 08 R233). -/

/-- The instruction cache with a line put in, at most 128 lines; which one is displaced is a free value (log entry 3). -/
def icacheInsert (victim : Nat) (c : KMap (List Byte)) (line : Nat) (data : List Byte) : KMap (List Byte) :=
  if c.length < 128 then kset c line data else kset (c.eraseIdx (victim % 128)) line data

/-- `fetch16`: one instruction word at a virtual address, through the core's instruction cache. DESIGN CHOICE: of the values that a word
has held since its line entered the cache, a fetch without `fencei` returns the one at the fill (04 R130; log entry 35). -/
def State.fetch16 (s : State) (core tenant : Nat) (va : Word) : ReadOut × State :=
  match s.translate core tenant va .fetch with
  | (.error .held, s) => (.busy, s)
  | (.error .ecc, s) => (.ecc va, s)
  | (.error (.cause c), s) => (.fault c va, s)
  | (.ok p, s) =>
    match kget (s.core core).icache p.lineKey with
    | some line => (.ok ((line.drop (p.pa % 64)).take 2), s)
    | none =>
      let l : Phys := { p with pa := p.pa / 64 * 64 }
      if p.isRegister then (.fault .perm va, s)
      else if s.heldByHandler 0 l.loc 64 then (.busy, s)
      else
      let s := s.bringNear core l
      match s.readPhys core l 64 with
      | .ok line =>
        let (victim, s) := s.draw
        let s := s.modCore core (fun c => { c with icache := icacheInsert victim c.icache p.lineKey line })
        (.ok ((line.drop (p.pa % 64)).take 2), s)
      | .fault c _ => (.fault c va, s)
      | .ecc _ => (.ecc va, s)
      | r => (r, s)

end Sys2Proof.Machine
end

