-- ==== Sys2Proof/Machine/Ops.lean ====
section
/-! DEFINITION. The shared operations: the X9's own reads and writes, completion-queue entries (spec 15 R415 to R418), messages
put on the Millrace (11 R317 to R319), pushes and pops of frames (09 R252 to R254), taking a trap (09 R255, 15 R411 to R414) and
returning from one (04 R127). -/

namespace Sys2Proof.Machine

/-- The code of a cause (15 R411). -/
def Cause.code : Cause → Nat
  | .illegal => 1 | .migrate => 2 | .migrateWhileClaimed => 3 | .misalign => 4 | .xlate => 5 | .perm => 6 | .claim => 7
  | .window => 8 | .swizzle => 9 | .header => 10 | .fpx => 11 | .tenant => 12 | .absent => 13 | .brk => 14 | .trap => 15

/-! Reads and writes of the X9's own agents: Governors, completion queues, leats. They walk the tables of the tenant. -/

/-- Where a tenant's virtual address lies, with no translation buffer and no permission asked; nowhere where its home cannot be reached or its tables have an
uncorrectable error. DESIGN CHOICE: a word of the tables that an `ahnd` handler holds counts with the value that stands there (log entry 22). -/
def State.ownPhys (s : State) (tenant : Nat) (va : Word) : Option Phys :=
  if !canonical va then none
  else
    let v := va.toNat % 2 ^ 57
    match State.walk { s with ops := [] } tenant v with
    | .ok r =>
      let p := s.homeOf 4096 tenant r.1 (bitsOf r.1 51 16 * 65536 / 2 ^ r.2 * 2 ^ r.2 + v % 2 ^ r.2) .store
      if p.policy < 3 ∧ s.homeDown p.policy p.home p.pa = true then none else some p
    | .error _ => none

/-- Whether a place of the X9's own reads can be read at once: in this package, and held by no handler (07 R200) and no uncorrectable error. -/
def State.ownReadable (s : State) (p : Phys) (n : Nat) : Bool :=
  decide (p.policy < 3) && !s.heldByHandler 0 p.loc n && !s.lineBad p.policy p.home (p.pa / 64)

def State.ownReadPieces (s : State) (tenant : Nat) : List (Word × Nat) → Option (List Byte)
  | [] => some []
  | (va, n) :: rest =>
    match s.ownPhys tenant va with
    | some p =>
      if s.ownReadable p n then (s.ownReadPieces tenant rest).map (fun more => s.readHome p.policy p.home p.pa n ++ more) else none
    | none => none

/-- n bytes at a tenant's virtual address; none where it does not translate to memory of this package that can be read at once. -/
def State.ownRead (s : State) (tenant : Nat) (va : Word) (n : Nat) : Option (List Byte) :=
  s.ownReadPieces tenant (linePieces va n (n / 64 + 2))

/-- The pseudo core of the X9's own agents (log entry 22). -/
def ownAgent : Nat := 917504

/-- The PCIe function of a tenant (13 R362), which issues its requests to host memory (14 R388). -/
def State.fnOfTenant (s : State) (tenant : Nat) : Nat := ((kget s.tenants tenant).map (·.function)).getD 0

/-- The IDE stream that carries the requests of a function, with the T bit set: its own in RUN (14 R394). -/
def State.ideOf (s : State) (fn : Nat) : Option Nat := if (s.fn fn).tdi = .run then (s.fn fn).ide else none

/-- An access of the X9's own agents at a place where it cannot be performed at once: in another package, held by an `ahnd` handler (07 R200), or before
other accesses have been performed. Those of one tenant are performed in order, so that the entries of a completion queue are (15 R417). -/
def State.ownOp (s : State) (tenant : Nat) (p : Phys) (va : Word) (n data : Nat) (kind : OpKind) (after : List Nat := []) (ord : Nat := 0) : State :=
  let o : MemOp :=
    { core := ownAgent, level := 8, task := 0, item := 0#64, ltag := 0, tenant := tenant, pc := 0, kind := kind, dest := .copy 0 0, ord := ord,
      vec := false, elems := [Elem.new 0 p.loc va.toNat n data], fault := none, handler := none,
      start := after ++ (s.ops.filter (fun o => o.2.core == ownAgent && o.2.tenant == tenant)).map (·.1) }
  { s.fresh.2 with ops := kset s.fresh.2.ops s.fresh.1 o }

/-- Whether the X9's own agents have accesses of a tenant still to perform. -/
def State.ownPending (s : State) (tenant : Nat) : Bool := s.ops.any (fun o => o.2.core == ownAgent && o.2.tenant == tenant)

/-- Bytes written piece by piece: at once, or by an access that waits; a release (`ord` 2, at scope `.sys`) follows what those before it still write. -/
def State.ownWritePieces (s : State) (tenant : Nat) (after : List Nat) (ord : Nat) (bytes : List Byte) : List (Word × Nat) → State
  | [] => s
  | (va, n) :: rest =>
    let s :=
      match s.ownPhys tenant va with
      | some p =>
        if p.policy = 3 ∨ s.afterDone after = false ∨ (p.policy < 3 ∧ s.heldByHandler 0 p.loc n = true) ∨ (2 ≤ ord ∧ s.ownPending tenant = true) then
          s.ownOp tenant p va n (leValue (bytes.take n)) .store after ord
        else if p.policy = 4 then s.emit (.hostWrite (s.fnOfTenant tenant) (s.ideOf (s.fnOfTenant tenant)) 0 0 p.pa (bytes.take n))
        else s.writeHome p.policy p.home p.pa (bytes.take n)
      | none => s
    s.ownWritePieces tenant after ord (bytes.drop n) rest

/-- Bytes written at a tenant's virtual address by the X9's own agents, once some accesses have been performed; nothing where it does not translate. -/
def State.ownWriteAs (s : State) (tenant : Nat) (va : Word) (bytes : List Byte) (after : List Nat) (ord : Nat) : State :=
  s.ownWritePieces tenant after ord bytes (linePieces va bytes.length (bytes.length / 64 + 2))

/-- Bytes written with nothing to wait for. -/
def State.ownWrite (s : State) (tenant : Nat) (va : Word) (bytes : List Byte) : State := s.ownWriteAs tenant va bytes [] 0

/-! Messages (11 R317 to R320, R324). -/

def torusDist (n a b : Nat) : Nat := min ((a + n - b) % n) ((b + n - a) % n)

/-- The attachment columns of a Bedstone die (R317). -/
def bedstoneCols (b : Nat) : List Nat := (List.range 4).map (fun i => 5 * (b % 6) + 1 + i)

/-- The column of a list nearest to a column; ties go to the lower number (R317). -/
def nearestCol (cols : List Nat) (c : Nat) : Nat :=
  cols.foldl (fun best x => if torusDist 32 x c < torusDist 32 best c then x else best) (cols.headD 0)

/-- The router (by tile identity) to which a message for a core goes from a column and row, and whether it leaves there by the edge
port (R317). -/
def targetRouter (core col row : Nat) : Nat × Bool :=
  match keySpace core with
  | 0 => (tileOf core, false)
  | 1 =>
    let b := keyId core / 16
    (tileAt (nearestCol (bedstoneCols b) col) (if b < 6 then 0 else 15), true)
  | _ => (tileAt (if keyId core / 64 = 0 then 0 else 31) row, true)

/-- The column and the row where a core lies, as far as routes go: its tile's, the first attachment column of a Bedstone die on its edge, a Sluice's column
in row 0. -/
def coreCol (core : Nat) : Nat :=
  match keySpace core with
  | 0 => tileCol (tileOf core)
  | 1 => (bedstoneCols (keyId core / 16)).headD 0
  | _ => if keyId core / 64 = 0 then 0 else 31
def coreRow (core : Nat) : Nat :=
  match keySpace core with
  | 0 => tileRow (tileOf core)
  | 1 => if keyId core / 16 < 6 then 0 else 15
  | _ => 0

/-- The router at which a core's messages enter: its tile's, or the attachment router nearest to the target (log entry 9). -/
def sourceRouter (core target : Nat) : Nat :=
  if isCompute core then tileOf core else (targetRouter core (coreCol target) (coreRow target)).1

/-- The age with which a flit of a core's message enters its first router: the step through an edge port is a hop (R317, R318). -/
def entryAge (m : Msg) (pkg : Nat) : Nat := if m.src.space = 0 ∧ m.src.pkg = pkg then 0 else 1

/-- The core key of a message's target. -/
def msgTarget (m : Msg) : Nat := coreKey m.dspace m.dcore

/-- Flits of a message (R320). -/
def flitCount (m : Msg) (dataFlits : Nat) : Nat :=
  match m.kind with
  | 0 => 2
  | 1 => 2
  | 2 => 2
  | 3 => 2
  | 8 => 1
  | _ => 1 + dataFlits

/-- The number of an ordered pair (R324): one sequence for active messages and channel words. DESIGN CHOICE: the order that 09 R260 gives events of each
other kind, and not against one another, is kept by a sequence for each of those kinds; each launch has its own, since ordered windows are saved with a context
(13 R370; log entry 9). -/
def pairKey (kind ltag pkg a b : Nat) : Nat := ((((if kind = 2 then 0 else kind) * 65536 + ltag) * 1024 + pkg) * 16384 + a) * 16384 + b

/-- A message put at a router, its flits waiting to be injected (R318, R321). An ordered one of this package takes its pair's next number (R324). Messages
to other packages go to the Sluice of their connection. -/
def State.inject (s : State) (router : Nat) (m : Msg) (dataFlits pref : Nat) : State :=
  let (id, s) := s.fresh
  let pk := pairKey m.kind m.ltag m.dpkg (coreKey m.src.space m.src.core) (msgTarget m)
  let seq := kgetD (s.router router).seqs pk 0
  let own := m.ordered && m.src.pkg == s.pkg
  let s := if own then s.modRouter router (fun r => { r with seqs := kset r.seqs pk ((seq + 1) % 4096) }) else s
  let m := if own then { m with pseq := seq } else m
  let here := if m.dpkg = s.pkg then targetRouter (msgTarget m) (tileCol router) (tileRow router)
    else (tileAt (if s.connDie (connKey m.dpkg 1) = 0 then 0 else 31) (tileRow router), true)
  let n := flitCount m dataFlits
  let nm : NetMsg :=
    { msg := m, src := router, pref := pref, tag := none, flits := n, arrived := 0, drow := tileRow here.1, dcol := tileCol here.1, edge := here.2 }
  let fl : List Flit := (List.range n).map (fun i =>
    { msg := id, router := router, port := 4, age := entryAge m s.pkg, first := i == 0, last := i + 1 == n, pref := pref, injected := false, waited := 0 })
  { s with msgs := kset s.msgs id nm, flits := s.flits ++ fl }

/-- The output preference of a core's route class (R325): a compute core holds the entries of its launch, another core those of its top frame's launch. -/
def State.prefOf (s : State) (core cls : Nat) : Nat :=
  let tag := if isCompute core then some (s.tile (tileOf core)).launch else (s.top core).map (·.ltag)
  ((tag.bind s.ctx).map (fun c => (c.rclass.getD cls (0, 0#64)).1)).getD 0 % 4

/-- The output preference of a launch's memory class (R325; 13 R350). -/
def State.memPref (s : State) (ltag : Nat) : Nat :=
  ((s.ctx ltag).map (fun c => (c.rclass.getD (c.recBits 0 37 34) (0, 0#64)).1)).getD 0 % 4

/-- The source field of a core (R204). -/
def State.sourceOf (s : State) (core : Nat) : Source := { core := keyId core, pkg := s.pkg, space := keySpace core }

/-- A message of a kind that programs never observe (R320 kinds 4 to 7 and 10), which travels under the launch's memory class. -/
def State.sendInternal (s : State) (kind src dst dataFlits ltag : Nat) (ev : EvKind) : State :=
  let m : Msg :=
    { kind := kind, dpkg := s.pkg, dcore := keyId dst, dspace := keySpace dst, src := s.sourceOf src, tenant := s.tenantOf ltag, cls := 0, level := 0,
      ordered := false, pseq := 0, rel := false, scope := 0, gov := false, words := [], endw := false, ltag := ltag, handler := 0#64, item := 0#64,
      ev := ev, rangeOf := none, after := [] }
  s.inject (sourceRouter src dst) m dataFlits (s.memPref ltag)

/-- The lines that an operation reaches elsewhere asked for (10 R284): a request for each; more than 8 bytes of store data take two data flits. -/
def State.sendRequests (s : State) (core ltag id : Nat) (elems : List Elem) (store : Bool) : State :=
  let far := elems.filter (fun e => (s.homeCore core e.loc).isSome)
  (far.map (fun e => e.loc.line)).eraseDups.foldl (fun t line =>
    let here := far.filter (fun e => e.loc.line == line)
    match here.head?.bind (fun e => s.homeCore core e.loc) with
    | some home =>
      t.sendInternal 4 core home (if store && decide (8 < (here.map (·.size)).foldl (· + ·) 0) then 2 else 0) ltag (.access id line)
    | none => t) s

/-- The launch on whose behalf a core fetches and reads in place. -/
def State.launchOf (s : State) (core : Nat) : Nat :=
  if isCompute core then (s.launchAt core).getD 0 else ((s.top core).map (·.ltag)).getD 0

/-- A request for bytes of a line homed elsewhere (R282, R283): an operation of the core that goes to the home and leaves the bytes with the core. -/
def State.requestBytes (s : State) (core tenant : Nat) (p : Phys) (n : Nat) : State :=
  if s.ops.any (fun o => o.2.core == core && o.2.dest == .buffer && o.2.elems.any (fun e => e.loc == p.loc && e.size == n)) then s
  else
    let id := s.fresh.1
    let op : MemOp :=
      { core := core, level := 8, task := 0, item := 0#64, ltag := 0, tenant := tenant, pc := 0, kind := .load, dest := .buffer,
        ord := 0, vec := false, elems := [Elem.new 0 p.loc p.pa n 0], fault := none, handler := none, start := s.open_ (s.core core).behind }
    let s := { s.fresh.2 with ops := kset s.fresh.2.ops id op }
    if core < 12288 then s.sendRequests core (s.launchOf core) id op.elems false else s

/-- Whether such a message is still on its way. -/
def State.underWay (s : State) (kind : Nat) (ev : EvKind) : Bool := s.msgs.any (fun m => m.2.msg.kind == kind && m.2.msg.ev == ev)

/-- A kind-1 release event sent from a core (R320), with the accesses it releases. -/
def State.raise (s : State) (core : Nat) (e : REvent) (t : Target) (after : List Nat) : State :=
  let m : Msg :=
    { kind := 1, dpkg := t.pkg, dcore := keyId t.core, dspace := keySpace t.core, src := e.src, tenant := s.tenantOf e.ltag,
      cls := 0, level := e.level, ordered := !t.gov, pseq := 0, rel := true, scope := 6, gov := t.gov, words := e.args,
      endw := false, ltag := e.ltag, handler := e.handler, item := e.item, ev := e.kind, rangeOf := e.gov, after := after }
  s.inject (sourceRouter core t.core) m 1 (s.prefOf core 0)

/-- The release of a successor descriptor (R204, R207). -/
def State.release (s : State) (core ltag : Nat) (item : Word) (d : Descr) (after : List Nat) : State :=
  s.raise core
    { kind := .task, handler := d.handler, level := d.level, args := d.args, item := item, src := s.sourceOf core, cls := none,
      ltag := ltag, gov := none } d.target after

/-! The completion queue (15 R415 to R418). -/

/-- The number of entries of a launch's ring. -/
def Context.cqSize (c : Context) : Nat := 2 ^ c.recBits 14 4 0
def Context.cqBase (c : Context) : Word := c.words.getD 13 0#64

/-- The pseudo core under which the X9 reads the consumed count of a launch, when that stands in the host or another package. -/
def cqCore (tag : Nat) : Nat := 983040 + tag

def Context.consumedAt (c : Context) : Word := c.cqBase + BitVec.ofNat 64 (32 * c.cqSize)

/-- Whether the ring has room (R418), by the number of entries that software has consumed (R416): not known while that has to be asked for in the host or
another package, or is held by a handler. A count that cannot be read at all is what it was when last read. -/
def State.cqRoom (s : State) (tag : Nat) (c : Context) : Option Bool :=
  let room (n : Nat) : Bool := (c.cqCount - n) % 2 ^ 64 != c.cqSize
  match s.ownPhys c.tenant c.consumedAt with
  | none => some (room c.cqSeen)
  | some p =>
    if p.policy = 3 ∨ p.policy = 4 then
      if room c.cqSeen then some true
      else match s.readPhys (cqCore tag) p 8 with | .ok b => some (room (leValue b)) | .wait _ _ => none | _ => some false
    else if s.heldByHandler 0 p.loc 8 then none
    else some (room (leValue (s.readHome p.policy p.home p.pa 8)))

/-- The count asked for, when it stands outside the package; one that has come is noted and let go. -/
def State.askConsumed (s : State) (tag : Nat) (c : Context) : State :=
  match s.ownPhys c.tenant c.consumedAt with
  | some p =>
    if p.policy = 3 ∨ p.policy = 4 then
      match s.readPhys (cqCore tag) p 8 with
      | .ok b => { (s.modCtx tag (fun c => { c with cqSeen := leValue b })) with cores := kdel s.cores (cqCore tag) }
      | .wait p n => s.requestBytes (cqCore tag) c.tenant p n
      | _ => { s with ops := s.ops.filter (fun o => o.2.core != cqCore tag) }
    else s
  | none => s

/-- The accesses that an entry is released after (R416): those of its item, or of the whole launch. -/
def State.beforeEntry (s : State) (tag : Nat) (e : CqEntry) : List Nat :=
  (s.ops.filter (fun o => o.2.ltag == tag && o.2.dest != .buffer && !o.2.performed && o.2.fault.isNone && (e.kind != 1 || o.2.item == e.w1))).map (·.1)

/-- An entry written at its place, as a release at scope `.sys` (R416). -/
def State.cqPut (s : State) (tag : Nat) (e : CqEntry) : State :=
  match s.ctx tag with
  | none => s
  | some c =>
    let i := c.cqCount
    let phase := 1 - i / c.cqSize % 2
    let w0 := e.kind + e.status * 2 ^ 8 + e.cause * 2 ^ 16 + tag * 2 ^ 22 + phase * 2 ^ 63
    let at0 := c.cqBase + BitVec.ofNat 64 (32 * (i % c.cqSize))
    let s := s.ownWriteAs c.tenant at0 (leBytes w0 8 ++ leBytes e.w1.toNat 8 ++ leBytes e.w2.toNat 8 ++ leBytes e.w3.toNat 8) (s.beforeEntry tag e) 2
    s.modCtx tag (fun c => { c with cqCount := i + 1 })

/-- R418: the entry that counts the lost ones. -/
def State.cqOverflow (s : State) (tag : Nat) (c : Context) : State :=
  (s.cqPut tag { kind := 5, status := 0, cause := 0, w1 := BitVec.ofNat 64 c.cqLost, w2 := 0#64, w3 := 0#64 }).modCtx tag (fun c => { c with cqLost := 0 })

/-- The entries that are due written in their order: one that finds the ring full is lost, and the next place after lost ones goes to the entry that counts
them (R418). They wait while it is not known whether there is room. -/
def State.cqFlush (s : State) (tag : Nat) : Nat → State
  | 0 => s
  | n + 1 =>
    match s.ctx tag with
    | none => s
    | some c =>
      match c.cqPend with
      | [] => s
      | e :: rest =>
        let next (s : State) : State := s.modCtx tag (fun c => { c with cqPend := rest })
        match s.cqRoom tag c with
        | none => s.askConsumed tag c
        | some true => (if c.cqLost ≠ 0 then s.cqOverflow tag c else next (s.cqPut tag e)).cqFlush tag n
        | some false => (next ((s.askConsumed tag c).modCtx tag (fun c => { c with cqLost := c.cqLost + 1 }))).cqFlush tag n

/-- An entry that is due (R415, R417). -/
def State.cqEntry (s : State) (tag kind status cause : Nat) (w1 w2 w3 : Word) : State :=
  let e : CqEntry := { kind := kind, status := status, cause := cause, w1 := w1, w2 := w2, w3 := w3 }
  let s := s.modCtx tag (fun c => { c with failures := if kind = 1 then c.failures + 1 else c.failures, cqPend := c.cqPend ++ [e] })
  s.cqFlush tag (2 * ((s.ctx tag).map (·.cqPend.length)).getD 0)

/-- R415: the failure entry of an item. -/
def State.report (s : State) (tag status cause : Nat) (item source detail : Word) : State :=
  s.cqEntry tag 1 status cause item source detail

/-- The statuses of R227 and R416 that name failures. -/
def failedXlate : Nat := 3
def failedEcc : Nat := 4
def failedTenant : Nat := 5
def failedAbsent : Nat := 6
def failedTimeout : Nat := 7
def failedFault : Nat := 8

/-- The status of a cause that is reported and not trapped (R417). -/
def statusOfCause (c : Cause) : Nat :=
  match c with
  | .xlate => failedXlate | .perm => failedXlate | .tenant => failedTenant | .absent => failedAbsent | _ => failedFault

/-- The cause field that goes with it. -/
def causeField (c : Cause) : Nat := if statusOfCause c = failedFault then c.code else 0

/-! Admission and pushes (09 R248 to R250, R252, R254). -/

/-- R249: whether an arrival at a level would push. -/
def Core.admits (c : Core) (p : Nat) : Bool :=
  match c.frames with
  | [] => true
  | f :: _ => decide (f.level < p) && decide (f.thr < p)

/-- Whether an inbox entry is passed over because its class is masked (07 R217). -/
def Core.masked (c : Core) (e : REvent) : Bool := match e.cls with | some k => c.masks.getLsbD k | none => false

/-- R250: the entry that the admission check takes: the highest level that passes, oldest first. -/
def Core.candidate (c : Core) : Option REvent :=
  let ok := c.inbox.filter (fun e => c.admits e.level && !c.masked e)
  (sortBy (fun (a b : REvent) => decide (b.level < a.level)) ok).head?

/-- The tile whose array holds a core's frame scratch: its own, or a gateway core's private scratch (01 R45), which the model keeps
beside the 512 tiles. -/
def scratchTile (core : Nat) : Nat := if isCompute core then tileOf core else 1024 + core

/-- The accumulator rows of a core's share (01 R44) and where they start. -/
def rowShare (core : Nat) : Nat := if isCompute core then (if isAster (dieOf core) then 512 else 256) else 0

/-- The frame scratch area of a core: its first byte and its size (10 R290, 01 R45). -/
def State.scratchArea (s : State) (core ltag : Nat) : Nat × Nat :=
  if isCompute core then
    match s.ctx ltag with
    | some c =>
      let here := c.coresOf (tileOf core)
      let i := here.findIdx (· == core)
      (12288 * here.length + c.frameScratch * i, c.frameScratch)
    | none => (0, 0)
  else if keySpace core = 2 then (0, 65536) else (0, 0)

/-- What the reading of a frame word gives (01 R22, R23): the word with the fault of one that cannot be read, a wait, or a soft error. -/
inductive WordOut where
  | word (w : Nat) (fault : Option (Cause × Word))
  | wait (p : Phys) (n : Nat)
  | busy
  | ecc
  deriving DecidableEq, Repr

/-- R23: the frame word before a handler address. -/
def State.frameWord (s : State) (core tenant : Nat) (handler : Word) : WordOut × State :=
  match s.readV core tenant (handler - 4#64) 4 .fetch with
  | (.ok bytes, s) => (.word (leValue bytes) none, s)
  | (.wait p n, s) => (.wait p n, s)
  | (.busy, s) => (.busy, s)
  | (.fault c _, s) => (.word 0 (some (c, handler - 4#64)), s)
  | (.ecc _, s) => (.ecc, s)

/-- Vector and scalar units of a frame (R254); the X9's own atomic handler uses no vector register (R255). -/
def Frame.vUnits (f : Frame) : Nat := match f.kind with | .away _ => 0 | .fixedAtomic _ => 0 | _ => field f.wins 28 26 + 1
def Frame.xUnits (f : Frame) : Nat := if f.isAway then 0 else field f.wins 31 29 + 1

/-- The slots of a core's spill area in which none of its frames has a unit (R254). DESIGN CHOICE: a unit goes to the lowest of them (log entry 37). -/
def freeSlots (frames : List Frame) : List Nat := (List.range 32).filter (fun i => frames.all (fun f => !f.slots.contains i))

/-- Vector units spilled from the lowest frames until `need` are free (R254): frames bottom first. -/
def spillVector : Nat → List Nat → List Frame → List Frame
  | _, _, [] => []
  | need, free, f :: rest =>
    let here := min need (f.vUnits - f.slots.length)
    { f with slots := f.slots ++ free.take here } :: spillVector (need - here) (free.drop here) rest

/-- Scalar units spilled in the same way. -/
def spillScalar : Nat → List Frame → List Frame
  | _, [] => []
  | need, f :: rest =>
    let here := min need (f.xUnits - f.spilledX)
    { f with spilledX := f.spilledX + here } :: spillScalar (need - here) rest

/-- R254: a stack with room made for a new window of `nv` vector and `nx` scalar units. -/
def makeRoom (nv nx : Nat) (frames : List Frame) : List Frame :=
  let resident (get : Frame → Nat) : Nat := (frames.map get).foldl (· + ·) 0
  let needV := resident (fun f => f.vUnits - f.slots.length) + nv - 32
  let needX := resident (fun f => f.xUnits - f.spilledX) + nx - 48
  (spillScalar needX (spillVector needV (freeSlots frames) frames.reverse)).reverse

/-- The bytes of a vector unit of a frame. -/
def Frame.unitBytes (f : Frame) (i : Nat) : List Byte := (List.range 6).flatMap (fun j => leBytes (f.vGet (6 * i + j)).toNat 64)

/-- The units that have been spilled between two stages of a stack, each with its slot. -/
def newSpills (before after : List Frame) : List (Nat × List Byte) :=
  (before.zip after).flatMap (fun p => (p.2.slots.zipIdx.drop p.1.slots.length).map (fun u => (u.1, p.1.unitBytes u.2)))

/-- Units written to a spill area that begins at an array offset: 384 bytes for each slot (R254). -/
def spillOver (m : Mem) (base : Nat) (units : List (Nat × List Byte)) : Mem :=
  units.foldl (fun m u => memSetBytes m (base + 384 * u.1) u.2) m

/-- Where a core's spill area begins (10 R290). -/
def State.spillBase (s : State) (core ltag : Nat) : Nat :=
  12288 * (((s.ctx ltag).map (fun c => (c.coresOf (tileOf core)).findIdx (· == core))).getD 0)

/-- R254: the units that a push or a return on a compute core spills go to its tile's array. -/
def State.spill (s : State) (core ltag : Nat) (before after : List Frame) : State :=
  if isCompute core ∧ newSpills before after ≠ [] then
    s.modTile (tileOf core) (fun t => { t with array := spillOver t.array (s.spillBase core ltag) (newSpills before after) })
  else s

/-- The level state at the start of a task (01 R32, R39, R40). -/
def LevelState.fresh (item : Word) (fpen : Word) : LevelState :=
  let srst := (item.toNat % 2 ^ 32) ^^^ 0x2545F491
  { fmta := 0#64, fmtb := 0#64, fmtc := 0#64, scla := 0#64, sclb := 0#64, rmode := 0#64,
    srst := if srst = 0 then 0x2545F491 else srst, fpflg := 0#64, fpen := fpen, ldc := 0, stc := 0, cpc := 0, tlc := 0, vq := [] }

/-- No exception to describe (01 R32). -/
def ExcRegs.none : ExcRegs := { ecause := 0#64, epc := 0#64, eaddr := 0#64, eseq := 0#64 }

/-- Whether a job of a task that has left the stack still uses rows or scratch that a new frame would take (06 R173). -/
def State.storageHeld (s : State) (core acb arows fsb fscr : Nat) : Bool :=
  if isCompute core then
    let live := (s.core core).frames.map (·.task)
    ((s.tile (tileOf core)).queues.filter (fun q => q.1 / 8 == core)).any (fun q =>
      q.2.any (fun j => !live.contains j.task && (overlaps acb arows j.acb j.arows || overlaps fsb fscr j.fsb j.fscr)))
  else false

/-- Follow mode when something is pushed above the top frame (04 R119, R121, R132); the predictor decides again afterwards (10 R307). -/
def Core.interrupt (c : Core) : Core :=
  let wake (f : Frame) : Frame := { f with mig := match f.mig with | some (2, _) => none | m => m }
  match c.follow with
  | .waiting _ _ =>
    { c with follow := .free,
             frames := modHead (fun f => { wake f with pc := f.follows.getD f.pc, follows := none }) c.frames }
  | _ => { c with follow := .free, frames := modHead wake c.frames }

/-- The ceilings a core uses for a launch (09 R256, 07 R206). -/
def State.ceilOf (s : State) (ltag : Nat) : List Nat := ((s.ctx ltag).map (·.ceil)).getD []

/-- Bytes of a gateway core's private scratch that a frame gets read 0 when a frame of another launch had them last (01 R26); `owner` of the core tells
which launch that was, for every 256 bytes. -/
def State.clearGateway (s : State) (core ltag start size : Nat) : State :=
  if keySpace core = 2 then
    let old := ((List.range (size / 256)).map (fun i => start / 256 + i)).filter (fun b => kgetD (s.core core).owner b ltag != ltag)
    (s.modTile (scratchTile core) (fun t => { t with array := t.array.filter (fun b => !old.contains (b.1 / 256)) })).modCore core
      (fun c => { c with owner := (List.range (size / 256)).foldl (fun m i => kset m (start / 256 + i) ltag) c.owner })
  else s

/-- What a core has asked for to fetch or execute a bundle let go. -/
def State.dropBuffers (s : State) (core : Nat) : State :=
  { s with ops := s.ops.filter (fun o => !(o.2.core == core && o.2.dest == Dest.buffer)) }.modCore core (fun c => { c with rbuf := [] })

/-- A frame pushed above the stack of a core (R252): the frame word gives its windows and storage, and a storage that is refused, a
frame word that cannot be read or an odd handler is raised before its first bundle. None when the push has to wait. -/
def State.pushWith (s : State) (core : Nat) (kind : FrameKind) (e : REvent) (exc : ExcRegs) (w : Nat)
    (bad : Option (Cause × Word)) : Option State :=
  let c := s.core core
  let area := s.scratchArea core e.ltag
  let wordBits := BitVec.ofNat 64 (w / 256 * 256)
  let used := (c.frames.map (·.arows)).foldl (· + ·) 0
  let usedScr := (c.frames.map (·.fscr)).foldl (· + ·) 0
  let askRows := field wordBits 25 16
  let askScr := field wordBits 15 8
  let rowsOk := decide (used + askRows ≤ rowShare core)
  let scrOk := decide (usedScr + 256 * askScr ≤ area.2)
  let acb := rowShare core * (core % 8) + used
  let fsb := area.1 + usedScr
  let arows := if rowsOk then askRows else 0
  let fscr := if scrOk then 256 * askScr else 0
  if s.storageHeld core acb arows fsb fscr then none
  else
    let refused : Option (Cause × Word) :=
      if rowsOk && scrOk then none
      else some (.window, BitVec.ofNat 64 ((if rowsOk then 0 else askRows) + (if scrOk then 0 else askScr * 2 ^ 32)))
    let start : Option (Cause × Word) :=
      if e.handler.getLsbD 0 then some (.misalign, e.handler) else match bad with | some b => some b | none => refused
    let (task, s) := s.fresh
    let fpen := ((s.ctx e.ltag).map (fun c => BitVec.ofNat 64 (c.recBits 0 33 28))).getD 0#64
    let f : Frame :=
      { kind := kind, task := task, level := e.level, ltag := e.ltag, handler := e.handler, pc := e.handler.toNat,
        x := (List.range 4).foldl (fun m i => kset m (i + 1) (e.args.getD i 0#64)) [], v := [], k := [], thr := 0, item := e.item,
        acb := acb, arows := arows, fsb := fsb, fscr := fscr, wins := wordBits, exc := exc, claims := [], src := e.src,
        lv := LevelState.fresh e.item fpen, pending := none, late := [], start := start, usedPlanes := false, lastRemote := none,
        lastPredMig := none, spilledX := 0, slots := [], gov := e.gov, origin := none, migMark := none, mig := none, idle := 0, arrive := 0,
        hold := none, follows := none }
    let s := (((s.closeStream core).clearGateway core e.ltag fsb fscr).dropBuffers core).forget core s.nextId
    let beneath := (s.core core).interrupt.frames
    some (((s.acquiredAt core 6 s.nextId).modCore core (fun c =>
      let c := { c.interrupt.dropLatches with behind := s.open_ c.behind ++ e.after }
      { c with frames := f :: makeRoom f.vUnits f.xUnits c.frames,
               ceil := if isCompute core then c.ceil else s.ceilOf e.ltag })).spill core e.ltag beneath (makeRoom f.vUnits f.xUnits beneath))

/-! Pops (R253). -/

/-- R264: the retire notice of a registered record sets out for the Governor of its die. -/
def State.retire (s : State) (core ltag : Nat) (r : Nat × Nat) : State :=
  { s with retired := s.retired ++ [r] }.sendInternal 10 core (512 * r.1) 0 ltag (.token r.2)

/-- R273: the end notice of a task sets out for the core that it last left; the frame beneath then follows the task's accesses (10 R301), with those that
came before. -/
def State.notify (s : State) (core ltag origin task : Nat) (after : List Nat) (seen : List Rel) : State :=
  let mine := (s.ops.filter (fun o => o.2.core == core && o.2.task == task && !o.2.performed)).map (·.1)
  let n : Notice := { core := origin, task := task, after := after ++ mine ++ s.open_ (s.core core).behind, seen := seen ++ (s.core core).seen }
  { s with notices := s.notices ++ [n] }.sendInternal 10 core origin 0 ltag (.token task)

/-- A frame gone from its core's stack: a registered record retires (R264) and an away marker of the task is told (R273). -/
def State.leave (s : State) (core : Nat) (f : Frame) : State :=
  let s := match f.gov with | some r => s.retire core f.ltag r | none => s
  match f.origin with | some o => s.notify core f.ltag o f.task [] [] | none => s

/-- The stack without its top frame: the popped level's unpopped statuses are no longer held (07 R227), the frame below is made
resident, latches are empty (R30). -/
def State.pop (s : State) (core : Nat) : State :=
  match s.top core with
  | none => s
  | some f =>
    (((s.leave core f).closeStream core).dropBuffers core).modCore core (fun c =>
      let rest := modHead (fun g => { g with spilledX := 0, slots := [] }) c.frames.tail
      let c := { c with frames := rest, statuses := c.statuses.filter (fun j => j.level != f.level), follow := .free }
      let c := c.dropLatches
      { c with ceil := if isCompute core then c.ceil
                       else match rest with | g :: _ => s.ceilOf g.ltag | [] => [] })

/-- Whether an operation is a request of another package. -/
def MemOp.fromPackage (o : MemOp) : Bool := match o.dest with | .remote _ _ _ _ => true | _ => false

/-- 11 R335: a block of a collective fails, with the contributors that are missing. -/
def State.failBlock (s : State) (id block status : Nat) (missing : List Nat) : State :=
  s.modColl id (fun c =>
    { c with failed := if c.failed.contains block then c.failed else c.failed ++ [block], status := some (c.status.getD status),
             missing := c.missing ++ missing.filter (fun r => !c.missing.contains r) })

/-- R127, R255, R415: the item of a frame that is discarded reported; an `ahnd` handler that is discarded fails its operation
(07 R200), which another package reports itself when it is its own, one of the X9's own fails its atomic, and the block of a discarded collective handler
fails (11 R335). -/
def State.reportFrame (s : State) (f : Frame) (status cause : Nat) (source detail : Word) : State :=
  match f.kind with
  | .userAtomic op =>
    match kget s.ops op with
    | some o =>
      if o.fromPackage then s.modOp op (fun o => { o with fault := some (if status = failedEcc then .ecc else .timeout), handler := none })
      else
      let s := s.report o.ltag (if status = failedEcc then failedEcc else failedTimeout) 0 o.item (BitVec.ofNat 64 o.pc) 0#64
      if (s.frameOf o.core o.task).isSome || s.ownerSaved o then s.modOp op (fun o => { o with fault := some .absent, handler := none })
      else { s with ops := kdel s.ops op }
    | none => s
  | .collective coll block =>
    (s.report f.ltag status cause f.item source detail).failBlock coll block failedAbsent []
  | .fixedAtomic op => s.modOp op (fun o => if o.performed then o else { o with fault := some (if status = failedEcc then .ecc else .absent) })
  | _ => s.report f.ltag status cause f.item source detail

/-- R414, R415: a task whose failure has been reported fails no more: what its accesses still find at their homes is let go. -/
def State.muteTask (s : State) (core task : Nat) : State :=
  { s with ops := s.ops.map (fun o => if o.2.core = core ∧ o.2.task = task then (o.1, { o.2 with mute := true }) else o) }

/-- The top frame of a core discarded and its item reported. -/
def State.discard (s : State) (core status cause : Nat) (source detail : Word) : State :=
  match s.top core with
  | none => s
  | some f => ((s.reportFrame f status cause source detail).muteTask core f.task).pop core

/-- The frozen frame that a trap handler serves, with its core: the frame beneath it, or beneath the first of its away markers when the
handler has migrated (09 R273). -/
def State.frozenOf (s : State) (core : Nat) (h : Frame) : Option (Nat × Frame) :=
  let beneath (k : Nat) : Option (Nat × Frame) :=
    (((s.core k).frames.dropWhile (fun f => f.task != h.task))[1]?).map (fun f => (k, f))
  match h.origin with
  | none => beneath core
  | some _ =>
    match s.cores.find? (fun c => c.2.frames.any (fun f => f.task == h.task && f.isAway && f.origin.isNone)) with
    | some c => beneath c.1
    | none => none

/-- The frozen frame of a trap handler that has gone, discarded and its item reported (R127, R255). -/
def State.discardFrozen (s : State) (z : Option (Nat × Frame)) (h : Frame) : State :=
  match z with
  | none => s
  | some (k, f) =>
    if (s.top k).map (·.task) = some f.task then s.discard k failedFault (field h.exc.ecause 5 0) h.exc.epc h.exc.eaddr
    else
      (((s.reportFrame f failedFault (field h.exc.ecause 5 0) h.exc.epc h.exc.eaddr).muteTask k f.task).leave k f).modCore k (fun c =>
        { c with frames := c.frames.filter (fun g => g.task != f.task), statuses := c.statuses.filter (fun j => j.level != f.level) })

/-- A push of an event (R252): whether it was made, and the state. It waits for storage (06 R173), and for a frame word that is not there yet, which is
asked for when it stands in another package or the host. An uncorrectable soft error in the frame word discards the new frame (01 R23). DESIGN CHOICE: where that frame is a
trap handler's, the frozen frame beneath stays and meets its fault again (log entry 16). -/
def State.push (s : State) (core : Nat) (kind : FrameKind) (e : REvent) (exc : ExcRegs) : Bool × State :=
  match kind with
  | .fixedAtomic _ => (true, (s.pushWith core kind e exc 0 none).getD s)
  | _ =>
    match s.frameWord core (s.tenantOf e.ltag) e.handler with
    | (.wait p n, s) => (false, s.requestBytes core (s.tenantOf e.ltag) p n)
    | (.busy, s) => (false, s)
    | (.ecc, s) =>
      match s.pushWith core kind e exc 0 none with
      | some s => (true, s.discard core failedEcc 0 e.handler (e.handler - 4#64))
      | none => (false, s)
    | (.word w bad, s) =>
      match s.pushWith core kind e exc w bad with
      | some s => (true, s)
      | none => (false, s)

/-! Traps (09 R255, 15 R411 to R414). -/

/-- TAKING A TRAP, the one operation of all causes. Below level 7 the launch's trap handler is pushed directly above the frozen frame,
at level 7, with the exception registers written and x1 to x4 as 15 R412 gives; without a handler the frame is discarded (13 R350).
A level-7 frame that traps is discarded, and with a trap handler the frozen frame beneath it too, the handler's entry first. The block of a collective
handler that traps fails (11 R335). -/
def State.takeTrap (s : State) (core : Nat) (cause : Cause) (epc : Nat) (eaddr : Word) (eseq : Nat) : State :=
  match s.top core with
  | none => s
  | some f =>
    let pcw := BitVec.ofNat 64 epc
    if f.level = 7 then
      let z := s.frozenOf core f
      let s := s.discard core failedFault cause.code pcw eaddr
      if f.isTrapHandler then s.discardFrozen z f else s
    else
      match ((s.ctx f.ltag).map Context.trapHandler).getD 0#64 with
      | 0 => s.discard core failedFault cause.code pcw eaddr
      | h =>
        let exc : ExcRegs :=
          { ecause := BitVec.ofNat 64 (cause.code + f.level * 64), epc := BitVec.ofNat 64 (epc % 2 ^ 57), eaddr := eaddr,
            eseq := BitVec.ofNat 64 eseq }
        let e : REvent :=
          { kind := .task, handler := h, level := 7,
            args := [pcw, 0#64, eaddr, if cause = .fpx then f.lv.fpflg else 0#64], item := f.item, src := s.sourceOf core,
            cls := none, ltag := f.ltag, gov := none }
        let s := match f.kind with | .collective coll block => s.failBlock coll block failedAbsent [] | _ => s
        (s.push core .trapHandler e exc).2

/-- RETURNING FROM A TRAP (04 R127, 15 R413): with x2[0] = 0 the handler's frame pops and the frozen frame resumes at x1, moving first
when a `migr` of the handler marked it; with x2[0] = 1 the frozen frame is popped as well and its item reported. -/
def State.trapReturn (s : State) (core : Nat) (failed : Bool) : State :=
  match s.top core with
  | none => s
  | some h =>
    let z := s.frozenOf core h
    let s := s.pop core
    if failed then s.discardFrozen z h
    else
      match z with
      | none => s
      | some (k, f) =>
        s.modTask k f.task (fun f =>
          let f := if f.pc = (h.xGet 1).toNat then f else { f with arrive := 0, idle := 0 }
          { f with pc := (h.xGet 1).toNat, start := none, mig := match f.migMark with | some t => some (3, t) | none => none, migMark := none })

/-- An exact trap of the bundle that stands at the frame's program counter (R82). Lines asked for in vain are let go. -/
def State.exact (s : State) (core : Nat) (cause : Cause) (eaddr : Word) : State :=
  match s.top core with
  | some f =>
    let s := { s with ops := s.ops.filter (fun o => !(o.2.core == core && o.2.dest == Dest.buffer && o.2.fault.isSome)) }
    s.takeTrap core cause f.pc eaddr 0
  | none => s

/-- A late fault raised, with the sequence number of its bundle (01 R42); it stays pending while the push of the handler waits. -/
def State.raiseLate (s : State) (core : Nat) (l : LateFault) : State :=
  match s.top core with
  | some f =>
    let s' := s.takeTrap core l.cause l.pc l.eaddr l.eseq
    if (s'.core core).frames.length = (s.core core).frames.length then s'
    else
      s'.modTask core f.task (fun g =>
        { g with late := g.late.filter (fun x => x != l), pending := match l.restore with | some d => d | none => g.pending })
  | none => s

/-- The counter of an operation lowered, when its task is still on the core (01 R40). -/
def State.lowerFor (s : State) (o : MemOp) : State :=
  s.modTask o.core o.task (fun f =>
    f.modLv (fun l =>
      match o.kind with
      | .store => { l with stc := l.stc - 1 }
      | _ => { l with ldc := l.ldc - 1 }))

/-- The address that a home-side fault concerns: that of the lowest-numbered access that has one (05 R157). -/
def MemOp.faultVa (o : MemOp) : Nat := (((o.elems.find? (·.bad.isSome)).or o.elems.head?).map (·.va)).getD 0

/-- An operation gone. -/
def State.dropOp (s : State) (id : Nat) : State := { s with ops := kdel s.ops id }

/-- A home-side fault raised (07 R197): the operation ends, its counter is lowered, the trap describes its bundle; an uncorrectable
soft error discards the frame instead. -/
def State.raiseHome (s : State) (core id : Nat) : State :=
  match kget s.ops id with
  | none => s
  | some o =>
    let va := BitVec.ofNat 64 o.faultVa
    match o.fault with
    | none => s
    | some .ecc => ((s.lowerFor o).dropOp id).discard core failedEcc 0 (BitVec.ofNat 64 o.pc) va
    | some k =>
      let s' := s.takeTrap core (if k = .perm then .perm else .absent) o.pc va 0x10000
      if (s'.core core).frames.length = (s.core core).frames.length then s' else (s'.lowerFor o).dropOp id

end Sys2Proof.Machine
end

