-- ==== Sys2Proof/Machine/Links.lean ====
section
/-! DEFINITION. The sending side of scale-up connections (spec 14 R396 to R398, R400), which every agent that reaches another package
uses. -/

namespace Sys2Proof.Machine

def State.conn (s : State) (k : Nat) : Conn := kgetD s.conns k Conn.reset
def State.modConn (s : State) (k : Nat) (f : Conn → Conn) : State := { s with conns := kset s.conns k (f (s.conn k)) }

/-- The connections of a Sluice die that stand in its SRAM (R398). -/
def State.resident (s : State) (die : Nat) : KMap Conn := s.conns.filter (fun c => !c.2.spilled && s.connDie c.1 == die)

/-- R398: a connection brought into SRAM; none when every resident one has unacknowledged packets and there is no room. -/
def State.loadConn (s : State) (k : Nat) : Option State :=
  let here := s.resident (s.connDie k)
  let touch (s : State) : State := State.modConn { s with uses := s.uses + 1 } k (fun c => { c with spilled := false, used := s.uses + 1 })
  if here.any (fun c => c.1 == k) then some (touch s)
  else if here.length < 2048 then some (touch s)
  else if !s.policy.connSpill then none
  else
    match sortBy (fun (a b : Nat × Conn) => decide (a.2.used < b.2.used)) (here.filter (fun c => c.2.unacked.isEmpty)) with
    | c :: _ => some (touch (s.modConn c.1 (fun x => { x with spilled := true })))
    | [] => none

/-- The ports of a package's mask that are up; an up port always has credit (log entry 25). -/
def State.upPorts (s : State) (peer : Nat) : List Nat := (List.range 18).filter (fun p => bitOf (s.route peer) p && !s.portsDown.contains p)

/-- R396, R397: a packet leaves by one of the ports, round robin, one of the management class by each of them. -/
def State.sendPacket (s : State) (p : ScalePacket) : State :=
  let up := s.upPorts p.peer
  if p.cls = 3 then up.foldl (fun s port => s.emit (.scale port (s.onPort port p))) s
  else
    match (up.filter (fun port => decide (s.portTurn ≤ port))) ++ up with
    | port :: _ => State.emit { s with portTurn := (port + 1) % 18 } (.scale port (s.onPort port p))
    | [] => s

/-- A numbered packet leaves and stands unacknowledged (R397). -/
def State.launchPacket (s : State) (k : Nat) (p : ScalePacket) : State :=
  let c := s.conn k
  let p := { p with seq := c.nextSeq, epoch := c.epoch }
  let s := s.modConn k (fun c =>
    { c with nextSeq := (c.nextSeq + 1) % 65536, unacked := c.unacked ++ [{ packet := p, count := 1, time := s.time }] })
  s.sendPacket p

/-- The waiting packets that the window and the contexts now let go. -/
def State.pumpConn (s : State) (k : Nat) : Nat → State
  | 0 => s
  | n + 1 =>
    match (s.conn k).waiting with
    | [] => s
    | p :: rest =>
      if (s.conn k).unacked.length < 256 then
        match s.loadConn k with
        | some s => ((s.modConn k (fun c => { c with waiting := rest })).launchPacket k p).pumpConn k n
        | none => s
      else s

/-- R398: every connection with packets that wait goes on, as far as windows and contexts let it. -/
def State.pumpAll (s : State) : State :=
  ((s.conns.filter (fun c => !c.2.waiting.isEmpty)).map (·.1)).foldl (fun s k => s.pumpConn k (s.conn k).waiting.length) s

/-- A packet given to a connection: none when the package is unreachable or the connection has failed. -/
def State.sendPayload (s : State) (peer cls : Nat) (msg : Option Msg) (mem : Option MemPacket) (gang : Option GangMsg) : Option State :=
  let k := connKey peer cls
  if s.route peer = 0 ∨ (s.conn k).failed = true then none
  else
    let p : ScalePacket := { peer := peer, cls := cls, seq := 0, epoch := 0, msg := msg, mem := mem, gang := gang }
    let s := s.modConn k (fun c => { c with waiting := c.waiting ++ [p] })
    some (s.pumpConn k (s.conn k).waiting.length)

/-- A message or a memory request given to a connection. -/
def State.sendScale (s : State) (peer cls : Nat) (msg : Option Msg) (mem : Option MemPacket) : Option State := s.sendPayload peer cls msg mem none

end Sys2Proof.Machine
end

