-- ==== Sys2Proof/Machine/VecAlu.lean ====
section
/-! DEFINITION. What vector bundles compute, element by element (spec 05, 02 R57 to R63, R68 to R76): functions on register values;
no state. -/

namespace Sys2Proof.Machine

/-- The floating-point format of a type code (R133). -/
def fmtOfType (code : Nat) : FFmt :=
  match code with
  | 9 => .f64 | 10 => .f32 | 11 => .bf16 | 12 => .f16 | 13 => .e4m3 | 14 => .e5m2 | _ => .e2m1

/-- The delivery that `rmode` selects for the vector unit (R37, R53 to R55). -/
def ctlOf (rmode : Word) : RoundCtl :=
  { mode := rmodeOf (field rmode 1 0), nosat8 := bitOf rmode.toNat 4, ftz := bitOf rmode.toNat 3 }

/-- `rmode.sr` (R37). -/
def srOf (rmode : Word) : Bool := bitOf rmode.toNat 2

/-! Elements of a register (R133). -/

/-- Element i of width `bits`. -/
def vElem (bits : Nat) (v : VReg) (i : Nat) : Nat := (v.toNat >>> (bits * i)) % 2 ^ bits

/-- The number of elements of width `bits`. -/
def vLen (bits : Nat) : Nat := 512 / bits

/-- All elements of width `bits`. -/
def vElems (bits : Nat) (v : VReg) : List Nat := (List.range (vLen bits)).map (vElem bits v)

/-- The value whose elements are given, lowest first. -/
def packNat (bits : Nat) (l : List Nat) : Nat := l.foldr (fun x acc => x % 2 ^ bits + acc * 2 ^ bits) 0

/-- The register whose elements are given, lowest first. -/
def vPack (bits : Nat) (l : List Nat) : VReg := BitVec.ofNat 512 (packNat bits l)

/-- A result with flags. -/
structure VecOut where
  v : VReg
  fl : Flags
  deriving DecidableEq, Repr

def orFlags (l : List Flags) : Flags := l.foldl (· ||| ·) flNone

/-- Element-wise predication (R134): active elements are computed, the others keep the old value and raise no flag. -/
def mapActive (bits : Nat) (mask : Word) (d : VReg) (f : Nat → Nat × Flags) : VecOut :=
  let r := (List.range (vLen bits)).map (fun i => if mask.getLsbD i then f i else (vElem bits d i, flNone))
  { v := vPack bits (r.map (·.1)), fl := orFlags (r.map (·.2)) }

/-! Floating-point arithmetic (R139, R140). -/

/-- The function of one element of a two-source arithmetic bundle. -/
abbrev Elem2 := FFmt → RoundCtl → Nat → Nat → Nat × Flags

def isRdn (c : RoundCtl) : Bool := c.mode == .rdn

def fAdd : Elem2 := fun f c s t => roundF f c (addNum (isRdn c) (readF f c.ftz s) (readF f c.ftz t))
def fSub : Elem2 := fun f c s t => roundF f c (addNum (isRdn c) (readF f c.ftz s) (readF f c.ftz t).neg)
def fMul : Elem2 := fun f c s t => roundF f c (mulNum (readF f c.ftz s) (readF f c.ftz t))
def fDiv : Elem2 := fun f c s t => roundNF f c (divNum (readF f c.ftz s) (readF f c.ftz t))
def fMin : Elem2 := fun f c s t => roundF f c (minNum (readF f c.ftz s) (readF f c.ftz t))
def fMax : Elem2 := fun f c s t => roundF f c (maxNum (readF f c.ftz s) (readF f c.ftz t))

/-- The function of one element of a one-source bundle. -/
abbrev Elem1 := FFmt → RoundCtl → Nat → Nat × Flags

def fSqrt : Elem1 := fun f c s => roundNF f c (sqrtNum (readF f c.ftz s))
def fRcp : Elem1 := fun f c s => roundNF f c (divNum (intNum 1) (readF f c.ftz s))
def fRsq : Elem1 := fun f c s => roundNF f c (rsqNum (readF f c.ftz s))
def fExp2 : Elem1 := fun f c s => transElem exp2F f c.ftz s
def fLog2 : Elem1 := fun f c s => transElem log2F f c.ftz s
def fTanh : Elem1 := fun f c s => transElem tanhF f c.ftz s

/-- The function of one element of a bundle that reads d, s and t (R140). -/
abbrev Elem3 := FFmt → RoundCtl → Nat → Nat → Nat → Nat × Flags

def fFma : Elem3 := fun f c d s t =>
  roundF f c (fmaNum (isRdn c) (readF f c.ftz s) (readF f c.ftz t) (readF f c.ftz d))
def fFms : Elem3 := fun f c d s t =>
  roundF f c (fmaNum (isRdn c) (readF f c.ftz s) (readF f c.ftz t) (readF f c.ftz d).neg)
def fFnma : Elem3 := fun f c d s t =>
  roundF f c (fmaNum (isRdn c) (readF f c.ftz s).neg (readF f c.ftz t) (readF f c.ftz d))

/-! Integers (R141, R142). -/

/-- An element as a type reads it. -/
def readInt (ty : Nat) (x : Nat) : Int := if isSignedType ty then sextNat x (typeBits ty) else (x : Int)

/-- `fin` of R141. -/
def finInt (ty : Nat) (sat : Bool) (v : Int) : Nat × Flags :=
  let n := typeBits ty
  if sat then
    let lo : Int := if isSignedType ty then -(2 ^ (n - 1) : Nat) else 0
    let hi : Int := if isSignedType ty then (2 ^ (n - 1) : Nat) - 1 else (2 ^ n : Nat) - 1
    let r := satInt v lo hi
    (wrapInt r n, if r = v then flNone else flSA)
  else (wrapInt v n, flNone)

/-- Minimum and maximum of a type that is no floating-point type. -/
def intPick (ty : Nat) (larger : Bool) (s t : Nat) : Nat :=
  if (decide (readInt ty s < readInt ty t)) == larger then t else s

/-- vmin, vmax by type (R139). -/
def minMaxElem (ty : Nat) (c : RoundCtl) (larger : Bool) (s t : Nat) : Nat × Flags :=
  if isFloatType ty then (if larger then fMax else fMin) (fmtOfType ty) c s t else (intPick ty larger s t, flNone)

/-- vabs and vneg (R139). -/
def absElem (ty : Nat) (s : Nat) : Nat :=
  let n := typeBits ty
  if isFloatType ty then s % 2 ^ (n - 1) else wrapInt (sextNat s n).natAbs n

def negElem (ty : Nat) (s : Nat) : Nat :=
  let n := typeBits ty
  if isFloatType ty then s ^^^ 2 ^ (n - 1) else wrapInt (-(sextNat s n)) n

/-! Comparison (R143). -/

/-- Whether a condition holds, with the flags it raises. -/
def cmpElem (ty cond : Nat) (c : RoundCtl) (s t : Nat) : Bool × Flags :=
  if isFloatType ty then
    let f := fmtOfType ty
    let x := readF f c.ftz s
    let y := readF f c.ftz t
    let un := x.isNan || y.isNan
    let snan : Bool := un && (match nanOf x y with | .nan sg => sg | _ => false)
    let holds : Bool :=
      match cond with
      | 0 => !un && eqNum x y
      | 1 => un || !eqNum x y
      | 2 => !un && ltNum x y
      | 3 => !un && !ltNum y x
      | 4 => !un && ltNum y x
      | 5 => !un && !ltNum x y
      | 6 => un
      | _ => !un
    (holds, if snan || (un && decide (2 ≤ cond) && decide (cond ≤ 5)) then flNV else flNone)
  else
    let x := readInt ty s
    let y := readInt ty t
    let holds : Bool :=
      match cond with
      | 0 => decide (x = y)
      | 1 => decide (x ≠ y)
      | 2 => decide (x < y)
      | 3 => decide (x ≤ y)
      | 4 => decide (y < x)
      | _ => decide (y ≤ x)
    (holds, flNone)

/-- The predicate a `vcmp` writes (R143, R21). -/
def vcmpBits (ty cond : Nat) (c : RoundCtl) (mask : Word) (s t : VReg) : Word × Flags :=
  let n := typeBits ty
  let r := (List.range (vLen n)).map (fun i => if mask.getLsbD i then cmpElem ty cond c (vElem n s i) (vElem n t i) else (false, flNone))
  (BitVec.ofNat 64 (packNat 1 (r.map (fun p => if p.1 then 1 else 0))), orFlags (r.map (·.2)))

/-! Conversion (R147 to R149). -/

/-- One element converted without stochastic rounding. -/
def convElem (src dst : Nat) (c : RoundCtl) (x : Nat) : Nat × Flags :=
  if isFloatType src then
    let v := readF (fmtOfType src) c.ftz x
    if isFloatType dst then roundF (fmtOfType dst) c v
    else floatToInt c.mode (typeBits dst) (isSignedType dst) v
  else if isFloatType dst then roundF (fmtOfType dst) c (intNum (readInt src x))
  else finInt dst true (readInt src x)

/-- The number a conversion to a floating-point format rounds. -/
def convNum (src : Nat) (c : RoundCtl) (x : Nat) : Num :=
  if isFloatType src then readF (fmtOfType src) c.ftz x else intNum (readInt src x)

/-- A converted run with the stochastic state after it (R58: active elements in increasing index). -/
def convRun (src dst : Nat) (c : RoundCtl) (sr : Bool) (srst : Nat) : List (Bool × Nat × Nat) → List (Nat × Flags) × Nat
  | [] => ([], srst)
  | (active, old, x) :: rest =>
    if active then
      if sr && isFloatType dst && (fmtOfType dst).stochastic then
        let r := sround (fmtOfType dst) c srst (convNum src c x)
        let tail := convRun src dst c sr r.2 rest
        (r.1 :: tail.1, tail.2)
      else
        let tail := convRun src dst c sr srst rest
        (convElem src dst c x :: tail.1, tail.2)
    else
      let tail := convRun src dst c sr srst rest
      ((old, flNone) :: tail.1, tail.2)

/-- A vector result with flags and the stochastic state after it. -/
structure VecSr where
  v : VReg
  fl : Flags
  srst : Nat
  deriving DecidableEq, Repr

/-- A register with a run of elements replaced from an index on. -/
def vSplice (bits : Nat) (d : VReg) (start : Nat) (l : List Nat) : VReg :=
  let old := vElems bits d
  vPack bits (old.take start ++ l ++ old.drop (start + l.length))

/-- `vcvt` (R147). -/
def vcvtReg (src dst p : Nat) (c : RoundCtl) (sr : Bool) (srst : Nat) (mask : Word) (d s : VReg) : VecSr :=
  let ls := vLen (typeBits src)
  let ld := vLen (typeBits dst)
  let n := min ls ld
  let from0 := if ld < ls then p * n else 0
  let to0 := if ls < ld then p * n else 0
  let run := convRun src dst c sr srst
    ((List.range n).map (fun j => (mask.getLsbD j, vElem (typeBits dst) d (to0 + j), vElem (typeBits src) s (from0 + j))))
  { v := vSplice (typeBits dst) d to0 (run.1.map (·.1)), fl := orFlags (run.1.map (·.2)), srst := run.2 }

/-- The element format and width of a block type (R148): `.mxf8`, `.mxf4`, or E5M2 elements with a scale. -/
def blockFmt (ty : Nat) : FFmt :=
  match ty with
  | 16 => .e4m3 | 17 => .e2m1 | _ => .e5m2

/-- The result of `vqnt`: the register, the scale, flags and the stochastic state (R148). -/
structure QntOut where
  v : VReg
  scale : Nat
  fl : Flags
  srst : Nat
  deriving DecidableEq, Repr

/-- `vqnt` (R148, R60): the 32 source values come from one register or a pair. -/
def vqntReg (dst src p : Nat) (c : RoundCtl) (sr : Bool) (srst : Nat) (d s s1 : VReg) : QntOut :=
  let f := blockFmt dst
  let sf : FFmt := match src with | 0 => .f32 | 1 => .bf16 | _ => .f16
  let codes := if src = 0 then vElems 32 s ++ vElems 32 s1 else vElems 16 s
  let b := quantBlock f c sr srst (codes.map (readF sf c.ftz))
  { v := vSplice f.width d (32 * p) b.codes, scale := b.scale, fl := b.fl, srst := b.srst }

/-- `vdqnt` (R149, R61): the 32 results, in order. -/
def vdqntVals (dst src p scale : Nat) (c : RoundCtl) (sr : Bool) (srst : Nat) (s : VReg) : List Nat × Flags × Nat :=
  let f : FFmt := match src with | 0 => .e4m3 | 1 => .e2m1 | _ => .e5m2
  let codes := (List.range 32).map (fun i => vElem f.width s (32 * p + i))
  let df := fmtOfType dst
  roundList df c (sr && df.stochastic) srst (codes.map (fun x => mxNum (decodeF f x) scale))

/-! Bit planes (R62, R63, R150). -/

/-- `vbpn`: the planes of 64 signed bytes. -/
def vbpnReg (s : VReg) : VReg :=
  vPack 1 ((List.range 512).map (fun i => if s.getLsbD (8 * (i % 64) + (7 - i / 64)) then 1 else 0))

/-- The value rebuilt from the first q planes (R62, R63). -/
def bpnValue (byte q : Nat) (cent : Bool) : Int :=
  let t := Int.fdiv (sextNat byte 8) (2 ^ (8 - q) : Nat)
  t * (2 ^ (8 - q) : Nat) + (if cent && decide (q ≤ 7) then ((2 ^ (7 - q) : Nat) : Int) else 0)

/-- `vbpj`: 64 signed bytes from planes. -/
def vbpjReg (q : Nat) (cent : Bool) (s : VReg) : VReg :=
  vPack 8 ((List.range 64).map (fun i =>
    let byte := packNat 1 ((List.range 8).map (fun bit => if s.getLsbD (64 * (7 - bit) + i) then 1 else 0))
    wrapInt (bpnValue byte q cent) 8))

/-! Reductions and scans (R76, R151, R152). -/

/-- The operation of a reduction or scan: 0 sum, 1 maximum, 2 minimum. -/
def redElem (ty op : Nat) (c : RoundCtl) (a b : Nat) : Nat × Flags :=
  if op = 0 then
    if isFloatType ty then fAdd (fmtOfType ty) c a b else (wrapInt (readInt ty a + readInt ty b) (typeBits ty), flNone)
  else minMaxElem ty c (op == 1) a b

/-- The identity of a reduction (R76, R151). -/
def redIdentity (ty op : Nat) : Nat :=
  let n := typeBits ty
  if isFloatType ty then
    let f := fmtOfType ty
    match op with
    | 0 => f.signBit true
    | 1 => f.signBit true + f.infCode
    | _ => f.infCode
  else
    match op with
    | 0 => 0
    | 1 => if isSignedType ty then 2 ^ (n - 1) else 0
    | _ => if isSignedType ty then 2 ^ (n - 1) - 1 else 2 ^ n - 1

/-- The halving tree of R76. -/
def redTree (g : Nat → Nat → Nat × Flags) : Nat → List Nat → Nat × Flags
  | 0, l => (l.headD 0, flNone)
  | k + 1, l =>
    if l.length ≤ 1 then (l.headD 0, flNone)
    else
      let w := l.length / 2
      let r := List.zipWith g (l.take w) (l.drop w)
      let rest := redTree g k (r.map (·.1))
      (rest.1, orFlags (r.map (·.2)) ||| rest.2)

/-- A reduction: element 0 the result, the others 0. -/
def vredReg (ty op : Nat) (c : RoundCtl) (mask : Word) (s : VReg) : VecOut :=
  let n := typeBits ty
  let l := (List.range (vLen n)).map (fun i => if mask.getLsbD i then vElem n s i else redIdentity ty op)
  let r := redTree (redElem ty op c) 7 l
  { v := vPack n [r.1], fl := r.2 }

/-- The first active element of a scan, as `rmode.ftz` lets it be read (R76). -/
def scanFirst (ty : Nat) (c : RoundCtl) (x : Nat) : Nat :=
  if isFloatType ty then
    match decodeF (fmtOfType ty) x, readF (fmtOfType ty) c.ftz x with
    | .fin neg m _ _, y => if m != 0 && y.isZero then (fmtOfType ty).signBit neg else x
    | _, _ => x
  else x

/-- The inclusive prefix of R76 over (active, old, element). -/
def scanRun (ty op : Nat) (c : RoundCtl) (acc : Option Nat) : List (Bool × Nat × Nat) → List (Nat × Flags)
  | [] => []
  | (active, old, x) :: rest =>
    if active then
      match acc with
      | none => (scanFirst ty c x, flNone) :: scanRun ty op c (some (scanFirst ty c x)) rest
      | some p => redElem ty op c p x :: scanRun ty op c (some (redElem ty op c p x).1) rest
    else (old, flNone) :: scanRun ty op c acc rest

/-- `vscan`. -/
def vscanReg (ty op : Nat) (c : RoundCtl) (mask : Word) (d s : VReg) : VecOut :=
  let n := typeBits ty
  let r := scanRun ty op c none ((List.range (vLen n)).map (fun i => (mask.getLsbD i, vElem n d i, vElem n s i)))
  { v := vPack n (r.map (·.1)), fl := orFlags (r.map (·.2)) }

/-! Moves (R145, R146). -/

/-- `vslide`. -/
def vslideElem (n : Nat) (s : VReg) (k : Int) (i : Nat) : Nat :=
  let j : Int := (i : Int) + k
  if 0 ≤ j ∧ j < (vLen n : Int) then vElem n s j.toNat else 0

/-- `vzip`. -/
def vzipElem (n : Nat) (hi : Bool) (s t : VReg) (i : Nat) : Nat :=
  let h := if hi then vLen n / 2 else 0
  vElem n (if i % 2 = 0 then s else t) (h + i / 2)

/-- `vunzip`. -/
def vunzipElem (n : Nat) (odd : Bool) (s t : VReg) (i : Nat) : Nat :=
  let o := if odd then 1 else 0
  let half := vLen n / 2
  if i < half then vElem n s (2 * i + o) else vElem n t (2 * (i - half) + o)

/-! The combination of wire values of R334. -/

/-- The exact operation of a combination: 0 sum, 1 maximum, 2 minimum. -/
def combineNum (red : Nat) (a b : Num) : Num :=
  match red with
  | 0 => addNum false a b
  | 1 => maxNum a b
  | _ => minNum a b

/-- Combination of two plain elements (R334). -/
def combineElem (f : FFmt) (red a b : Nat) : Nat × Flags := roundF f rneCtl (combineNum red (decodeF f a) (decodeF f b))

/-- Combination of one MXFP8 block: element codes and scale of both sides (R334, R60, R61). -/
def combineBlock (red : Nat) (p : List Nat) (sp : Nat) (q : List Nat) (sq : Nat) : BlockOut :=
  quantBlock .e4m3 rneCtl false 0
    (List.zipWith (fun a b => combineNum red (mxNum (decodeF .e4m3 a) sp) (mxNum (decodeF .e4m3 b) sq)) p q)

end Sys2Proof.Machine
end

