-- ==== Sys2Proof/Machine/Issue.lean ====
section
/-! DEFINITION. How a bundle is executed on the current core: the ordered checks of spec 03 R82, the registers it has to wait for
(07 R196, 05 R135), its predicate (03 R87), and the dispatch of vector bundles (05 R134, R137; 01 R29, R42). -/

namespace Sys2Proof.Machine

/-- The outcome of the model's step. -/
abbrev Out := Host.Outcome State Fault Refusal

/-- The meaning of a step without an encoding: what it changes when it is due; nothing otherwise. -/
def event (s : State) : Out := .next s

/-- What a bundle's meaning is given: the core, its running frame, the bundle, the address of its instruction word and of the bundle
after it (04 R104). -/
structure Ctx where
  core : Nat
  f : Frame
  op : Op
  w : Bundle
  iword : Nat
  next : Nat
  deriving DecidableEq, Repr

/-- The scalar register that field a, b or c names, read. -/
def Ctx.xa (c : Ctx) : Word := c.f.xGet (fieldA c.w)
def Ctx.xb (c : Ctx) : Word := c.f.xGet (fieldB c.w)
def Ctx.xc (c : Ctx) : Word := c.f.xGet (fieldC c.w)

/-- The target of a branch (03 R84): the instruction word plus twice the offset. -/
def Ctx.target (c : Ctx) (off : Int) : Nat := wrapInt ((c.iword : Int) + 2 * off) 64

/-- The frame moves on to a program counter; bytes that were asked for to fetch or execute the bundle are let go. -/
def State.goTo (s : State) (core pc : Nat) : State :=
  s.modCore core (fun c => { c with frames := modHead (fun f => { f with pc := pc % 2 ^ 64 }) c.frames, rbuf := [] })

/-- 15 R423: a bundle that reads bytes in place with an uncorrectable soft error: its frame is discarded. -/
def State.eccRead (s : State) (c : Ctx) (va : Word) : State := s.discard c.core failedEcc 0 (BitVec.ofNat 64 c.f.pc) va

/-- The bundle completes and the next one follows. -/
def State.advance (s : State) (c : Ctx) : State := s.goTo c.core c.next

/-- A scalar result, and the next bundle. -/
def State.writeX (s : State) (c : Ctx) (n : Nat) (v : Word) : State :=
  (s.modTop c.core (fun f => f.xSet n v)).advance c

/-- Whether the bundle's predicate lets it take effect as a whole (R87). -/
def Ctx.active (c : Ctx) : Bool := (c.f.predicate c.w).getLsbD 0

/-! Registers that are not there yet. -/

/-- Whether two names are one register; x0 and k0 never wait. -/
def sameReg (a b : Named) : Bool := a.cls == b.cls && a.num == b.num && (a.num != 0 || a.cls == .v)

/-- Whether an operation will write a register. -/
def destIs (d : Dest) (n : Named) : Bool :=
  match d with
  | .scalar k _ => n.cls == .x && n.num == k && k != 0
  | .float k _ => n.cls == .x && n.num == k && k != 0
  | .vector k _ => n.cls == .v && n.num == k
  | _ => false

/-- The outstanding operations of a frame. -/
def State.opsOf (s : State) (core task : Nat) : KMap MemOp :=
  s.ops.filter (fun o => o.2.core == core && o.2.task == task && o.2.dest != .buffer)

/-- What the registers of a bundle say. -/
inductive Hazard where
  | go
  | stall
  | home (id : Nat)
  deriving DecidableEq, Repr

/-- R196, R197, R135: a bundle waits for the registers it reads or writes that earlier bundles have yet to write; a home-side fault of an
scalar access whose destination it reads is raised first, while that of a vector bundle is late (05 R137). An `ldf` that can trap holds up every bundle
(R195), unless it has such a fault. -/
def State.hazards (s : State) (core : Nat) (f : Frame) (names : List Named) : Hazard :=
  let mine := s.opsOf core f.task
  match mine.find? (fun o => o.2.fault.isSome && !o.2.vec && names.any (fun n => n.read && destIs o.2.dest n)) with
  | some o => .home o.1
  | none =>
    if mine.any (fun o => o.2.fault.isNone && (names.any (fun n => destIs o.2.dest n) || f.hold == some o.1)) then .stall
    else if f.lv.vq.any (fun e => e.named.any (fun m => m.write && names.any (fun n => sameReg m n))) then .stall
    else .go

/-- Check 6 of R82: every scalar and vector register that the bundle names lies in its window. -/
def windowsOk (f : Frame) (op : Op) (w : Bundle) : Bool :=
  (fieldNamed op w).all (fun n =>
    match n.cls with
    | .x => decide (n.num < f.xWindow)
    | .v => decide (n.num < f.vWindow)
    | .k => true)

/-- Control registers that keeper and gateway cores lack (01 R45): the matrix state. -/
def profileLacks (core n : Nat) : Bool := !isCompute core && (decide (n ≤ 4) || n == 0x13 || n == 0x1B || n == 0x1D)

/-- The conditions of an entry that depend on the kind of core: a control register that its profile lacks (04 R128); a gateway core lies on no
die (07 R219). -/
def coreOk (core : Nat) (op : Op) (w : Bundle) : Bool :=
  match op with
  | .getc | .setc => !profileLacks core (immI w).toNat
  | .arrive => isCompute core || bitOf (rawJ w) 11
  | .bwait => isCompute core || bitOf (imxValue w * 32 + w.b.toNat) 11
  | _ => true

/-- R82 check 4, R8, 09 R269: an instruction outside the profile. A Yarrow core starts a migration, unless claims are held. -/
def State.outsideProfile (s : State) (core : Nat) (f : Frame) : State :=
  match profileOf core with
  | .L =>
    if !f.claims.isEmpty then s.exact core .migrateWhileClaimed 0#64
    else
      (s.closeStream core).modCore core (fun c =>
        { c.detach with frames := modHead (fun g => { g with mig := some (0, 0#64) }) c.frames })
  | _ => s.exact core .illegal 0#64

/-- The pending successor descriptor of a frame taken from it (07 R207). -/
def State.takePending (s : State) (core : Nat) : Option Descr × State :=
  match s.top core with
  | some f => (f.pending, s.modTop core (fun f => { f with pending := none }))
  | none => (none, s)

/-- The first home-side fault of a task's scalar operations that waits to be raised. -/
def State.faultedOp (s : State) (core task : Nat) (p : MemOp → Bool) : Option Nat :=
  ((s.opsOf core task).find? (fun o => o.2.fault.isSome && !o.2.vec && p o.2)).map (·.1)

/-- R197: a release or acquire raises the home-side faults of the accesses that it must follow (10 R298): a release those of all, an acquire those of
acquires and of accesses to the same bytes. -/
def State.beforeRelease (s : State) (c : Ctx) (ord : Nat) (places : List (Loc × Nat)) (k : State → State) : State :=
  let follows (o : MemOp) : Bool :=
    decide (2 ≤ ord) || o.ord % 2 == 1 || o.elems.any (fun e => places.any (fun p => locsMeet e.loc e.size p.1 p.2))
  match (if ord = 0 then none else s.faultedOp c.core c.f.task follows) with
  | some id => s.raiseHome c.core id
  | none => k s

/-- R207: a bundle that would have consumed a descriptor completes with a false predicate, and the successor is released at once. -/
def State.skip (s : State) (c : Ctx) : State :=
  match (if consumesSuccessor c.op && !(c.op == .tmr && modOpt c.w / 2 % 2 == 1) then c.f.pending else none) with
  | some d =>
    s.beforeRelease c 2 [] (fun s => ((s.takePending c.core).2.release c.core c.f.ltag c.f.item d (s.unperformed c.core)).advance c)
  | none => s.advance c

/-- Whether a bundle can give its task the result of an engine job or of an access (10 R298: `wait`, `mtest`, pops). -/
def givesResult (op : Op) : Bool :=
  match op with | .wait => true | .mtest => true | .cpytst => true | .uepop => true | _ => false

/-- R298: what a core has read ahead before an engine or an access wrote there is of no use to what follows the bundle that tells of it. -/
def State.beforeResult (s : State) (c : Ctx) : State := if givesResult c.op then s.acquiredAt c.core 0 s.nextId else s

/-- The checks of R82 and then the bundle's own effect. Vector bundles and page-3 jobs are dispatched whatever their predicate
(05 R134, 06 R169); their meanings look at it themselves. -/
def State.checked (s : State) (f : Frame) (op : Op) (w : Bundle) (body : Ctx → State → State) : State :=
  let core := s.cur
  if f.mig.isSome then s
  else if !op.prof.has (profileOf core) then s.outsideProfile core f
  else if !(legal op w && coreOk core op w) then s.exact core .illegal 0#64
  else if !windowsOk f op w then s.exact core .window 0#64
  else
    match s.hazards core f (allNamed op w) with
    | .stall => s
    | .home id => s.raiseHome core id
    | .go =>
      let iword := f.pc + 2 * w.chainLength
      let c : Ctx := { core := core, f := f, op := op, w := w, iword := iword, next := iword + 2 }
      if isVector op || isJob op || c.active then body c (s.beforeResult c) else s.skip c

/-- The meaning of an encoded instruction: its checks and its effect on the running frame of the current core. -/
def bundle (op : Op) (w : Bundle) (s : State) (body : Ctx → State → State) : Out :=
  match s.running with
  | none => .fault .noRunningFrame
  | some f => .next (s.checked f op w body)

/-! Vector bundles. -/

/-- The source operands of a vector bundle at positions a, b and c (R29): a vector register, or none where it is none. -/
def vSources (op : Op) (w : Bundle) : List (Option Nat) :=
  match op, shapeOf op w with
  | .vsel, _ => [none, some (fieldB w), some (fieldC w)]
  | .vqnt, _ => [some (fieldB w), none]
  | _, .two .v => [some (twoSources w).1, some (twoSources w).2]
  | _, .two .k => [none, none]
  | _, .three .v => [some (threeSources w).1, some (threeSources w).2, some (fieldA w)]
  | _, .fixed a b c _ =>
    let at1 (r : Role) (n : Nat) : List (Option Nat) :=
      match r with
      | .reads .v _ => [some n]
      | .reads _ _ => [none]
      | .channel => [none]
      | _ => []
    at1 a (fieldA w) ++ at1 b (fieldB w) ++ at1 c (fieldC w)
  | _, _ => []

/-- R29: the latch of a position after a vector bundle with an operand there. -/
def latchAfter (f : Frame) (held : Bool) (old : Latch) (src : Option (Option Nat)) : Latch :=
  match src with
  | none => old
  | some none => none
  | some (some n) => if held then some (n, f.vGet n) else none

/-- The latches after a vector bundle (R29). -/
def Core.latched (c : Core) (f : Frame) (op : Op) (w : Bundle) : Core :=
  let hold := ((w.rgx.map (·.hold)).getD 0#3)
  let src := vSources op w
  { c with latchA := latchAfter f (hold.getLsbD 2) c.latchA src[0]?,
           latchB := latchAfter f (hold.getLsbD 1) c.latchB src[1]?,
           latchC := latchAfter f (hold.getLsbD 0) c.latchC src[2]? }

/-- R42: the sequence counter advances and the ring takes an entry, whatever is dispatched; `cpent` has 57 bits (R32). -/
def Core.dispatchEntry (c : Core) (level pc : Nat) : Core :=
  let seq := (c.cseq + 1) % 65536
  { c with cseq := seq, cpring := ({ seq := seq, lvl := level, pc := pc % 2 ^ 57, done := false, flt := false, disc := false } :: c.cpring).take 64 }

/-- What a vector bundle leaves at its dispatch (R137): results, flags, the stochastic state, a fault found, its memory operation, its
channel form. -/
structure VRes where
  writes : List RegWrite
  fl : Flags
  srst : Option Nat
  fault : Option (Cause × Word)
  op : Option Nat
  chan : Bool
  deriving DecidableEq, Repr

def VRes.nothing : VRes := { writes := [], fl := flNone, srst := none, fault := none, op := none, chan := false }

/-- Results and flags only. -/
def VRes.of (writes : List RegWrite) (fl : Flags) : VRes := { VRes.nothing with writes := writes, fl := fl }

/-- A vector bundle dispatched: it takes a number and a ring entry, stands in its level's queue until it completes, and the task
goes on. -/
def State.dispatchV (s : State) (c : Ctx) (r : VRes) : State :=
  let s := s.modCore c.core (fun k => (k.dispatchEntry c.f.level c.f.pc).latched c.f c.op c.w)
  let stamp := s.fresh.1
  let s := s.fresh.2
  let e : VEntry :=
    { seq := (s.core c.core).cseq, stamp := stamp, pc := c.f.pc, fl := r.fl, writes := r.writes, srst := r.srst, stoch := r.srst.isSome,
      fault := r.fault, op := r.op, chan := if r.chan then some (c.op, c.w) else none,
      named := (allNamed c.op c.w).filter (·.write), rmode := c.f.lv.rmode, fpen := c.f.lv.fpen }
  (s.modTop c.core (fun f => f.modLv (fun l => { l with vq := l.vq ++ [e] }))).advance c

/-- R58: whether a bundle of the level that uses stochastic rounding has not yet written `srst` back: a vector bundle in the queue, or
a job of the tile's engine. -/
def State.srstBusy (s : State) (core : Nat) (f : Frame) : Bool :=
  f.lv.vq.any (·.stoch) ||
    (isCompute core && (kgetD (s.tile (tileOf core)).queues (8 * core + f.level) []).any (·.srst.isSome))

/-- Whether a bundle names a channel that an `rstreamch` job of its level uses (06 R190). -/
def State.chanBusy (s : State) (core : Nat) (f : Frame) (ch : Nat) : Bool :=
  isCompute core && (kgetD (s.tile (tileOf core)).queues (8 * core + f.level) []).any (fun j =>
    j.active && j.op == .rstreamch && fieldB j.word == ch)

/-- R31: the channel checks, made at dispatch: PERM for another level, ABSENT for no binding. -/
def State.chanFault (s : State) (core level ch : Nat) : Option Cause :=
  match kget (s.core core).chans ch with
  | some x => if x.level = level then none else some .perm
  | none => some .absent

end Sys2Proof.Machine
end

