-- ==== Sys2Proof/Machine/LoadStore.lean ====
section
/-! DEFINITION. Loads, stores, scratch accesses, atomics, fences and waits as they issue (spec 07 R193 to R202; 05 R154 to R157; 10
R283 to R286, R298). An issued access is an outstanding operation; its home performs it (Home.lean). -/

namespace Sys2Proof.Machine

/-! Issuing an operation (R40). -/

/-- Whether an access is one of the register aperture (14 R392). -/
def Elem.isRegister (e : Elem) : Bool := match e.loc with | .global p _ pa => p != 4 && inAperture pa | .array _ _ => false

/-- The scope of a bundle's ordering (R87); a store to the register aperture is a release at `.sys` (14 R392). -/
def Ctx.scope (c : Ctx) (elems : List Elem) : Nat := if elems.any Elem.isRegister then 6 else c.w.qual.scope.toNat

/-- The ordering of a bundle (R87): bit 0 acquire, bit 1 release. -/
def Ctx.ord (c : Ctx) : Nat := c.w.qual.ord.toNat

def OpKind.isStore : OpKind → Bool
  | .store => true
  | _ => false

/-- Whether the counter of an operation is at its cap (R40). -/
def capFull (f : Frame) (kind : OpKind) : Bool := if kind.isStore then decide (64 ≤ f.lv.stc) else decide (64 ≤ f.lv.ldc)

/-- The counter raised (R40). -/
def LevelState.raise (l : LevelState) (kind : OpKind) : LevelState :=
  if kind.isStore then { l with stc := l.stc + 1 } else { l with ldc := l.ldc + 1 }

/-- What a core has read ahead when its operation `id` issues (10 R297, R302): a plain load takes note of what was read at its places; to another access of
those bytes it is of no use, nor to what follows that. -/
def Foreseen.issued (x : Foreseen) (id : Nat) (o : MemOp) : Option Foreseen :=
  let meet := o.elems.filter (fun e => locsMeet e.loc e.size x.loc x.size)
  if x.core != o.core || x.op.isSome || meet.isEmpty then some x
  else if o.kind = .load ∧ o.ord = 0 ∧ meet.all (fun e => e.loc == x.loc && e.size == x.size) = true then some { x with op := some id }
  else none

/-- An operation issued: it counts, and stands among the outstanding ones under a new name; a load takes note of what has been read ahead at its places
(10 R302), and a request sets out for every line homed elsewhere (10 R284). -/
def State.issueOp (s : State) (c : Ctx) (kind : OpKind) (dest : Dest) (ord : Nat) (vec : Bool) (elems : List Elem) : Nat × State :=
  let op : MemOp :=
    { core := c.core, level := c.f.level, task := c.f.task, item := c.f.item, ltag := c.f.ltag, tenant := s.tenantOf c.f.ltag,
      pc := c.f.pc, kind := kind, dest := dest, ord := ord, vec := vec, elems := elems, fault := none, handler := none,
      nt := c.w.qual.flag, scope := c.scope elems, start := s.open_ (s.core c.core).behind }
  let id := s.fresh.1
  let s := s.fresh.2.sendRequests c.core c.f.ltag id elems kind.isStore
  (id, { s with ops := kset s.ops id op, foreseen := s.foreseen.filterMap (fun (x : Foreseen) => x.issued id op) }.modTop c.core (fun f => f.modLv (fun l => l.raise kind)))

/-- The places of accesses. -/
def placesOf (elems : List Elem) : List (Loc × Nat) := elems.map (fun e => (e.loc, e.size))

/-! The migration predictor (10 R285, R286). -/

/-- The predictor of a tile after an access to another tile, and the entry's count. -/
def predictorStep (l : List PredEntry) (handler : Word) (home : Nat) (again : Bool) : Nat × List PredEntry :=
  let same (e : PredEntry) : Bool := e.handler == handler && e.home == home
  let old := ((l.find? same).map (·.count)).getD 0
  let n := if again then min (old + 1) 15 else 1
  let rest := l.filter (fun e => !same e)
  (n, (if rest.length < 256 then rest else rest.drop 1) ++ [{ handler := handler, home := home, count := n }])

/-- The core of a tile that a predictor migration would move a frame to (R269, R285); one that has a frame keeps its planes (R274). -/
def State.predictorTarget (s : State) (f : Frame) (tile : Nat) : Option Nat :=
  ((List.range 8).map (fun i => 8 * tile + i)).find? (fun k =>
    s.launchAt k == some f.ltag && !s.dieHeld (dieOf k) && (s.core k).admits f.level && decide (f.arows ≤ rowShare k) &&
      !(f.usedPlanes && !(s.core k).frames.isEmpty))

/-- The conditions of R269 on the frame and its core. -/
def State.predictorMay (s : State) (core : Nat) (f : Frame) : Bool :=
  f.claims.isEmpty && f.lv.ldc == 0 && f.lv.stc == 0 && f.lv.cpc == 0 && f.lv.tlc == 0 && f.lv.vq.isEmpty &&
    (s.core core).follow == .free &&
    (match f.lastPredMig with | some m => decide (m + 4096 ≤ s.cycle) | none => true)

/-- The home of a translated address, also where a replica serves the access (R287). -/
def State.trueHome (s : State) (core tenant : Nat) (ea : Word) (p : Phys) : Phys :=
  if p.policy = 8 then
    match (s.lookup core tenant (ea.toNat % 2 ^ 57)).1 with
    | .ok e => s.homeOf 4096 tenant e.leaf p.pa .load
    | .error _ => p
  else p

/-- R285: the predictor's decision on an access of a compute core to a tile: the core to move to, or none. -/
def State.predict (s : State) (core : Nat) (f : Frame) (p : Phys) : Option Nat × State :=
  if !isCompute core || !isTilePolicy p.policy || p.home == tileOf core then (none, s)
  else
    let r := predictorStep (s.tile (tileOf core)).pred f.handler p.home (f.lastRemote == some p.home)
    let s := s.modTile (tileOf core) (fun t => { t with pred := r.2 })
    let s := s.modTop core (fun g => { g with lastRemote := some p.home })
    let thr := ((s.ctx f.ltag).map (·.thrPred)).getD 0
    if thr != 0 && decide (thr ≤ r.1) && s.predictorMay core f then (s.predictorTarget f p.home, s) else (none, s)

/-! Scalar accesses of global memory (R194 to R196, R199). -/

/-- 14 R388: what the host accepts. -/
def hostAccepts (kind : OpKind) : Bool :=
  match kind with
  | .atomic .aadd _ _ _ => true
  | .atomic .acas _ _ _ => true
  | .atomic _ _ _ _ => false
  | _ => true

/-- Whether a running `ahnd` handler reaches the 8 bytes that its home holds for it (R200). -/
def State.ownWord (s : State) (f : Frame) (loc : Loc) (n : Nat) : Bool :=
  match f.kind with
  | .userAtomic id => ((kget s.ops id).map (fun o => o.elems.any (fun e => locsMeet e.loc e.size loc n))).getD false
  | _ => false

/-- The exact faults of a translated access (R388, R392, R200). -/
def State.accessRefused (s : State) (f : Frame) (kind : OpKind) (p : Phys) (n : Nat) (plain : Bool) : Bool :=
  (p.isRegister && !plain) || (p.policy == 4 && !hostAccepts kind) || s.ownWord f p.loc n

/-- A scalar access: its checks in order, the predictor, the operation, and what the bundle does as it completes. `plain` says that it
is an 8-byte `ld` or `st`. A store to the register aperture is a release (13 R358). Tables that an `ahnd` handler holds are waited for (R200); an
uncorrectable error in them fails the access (15 R423). -/
def State.scalarAccess (s : State) (c : Ctx) (kind : OpKind) (need : Need) (dest : Dest) (ea : Word) (sz data : Nat) (plain : Bool)
    (done : Nat → State → State) : State :=
  if ea.toNat % sz ≠ 0 then s.exact c.core .misalign ea
  else if capFull c.f kind then s
  else
    match s.translate c.core (s.tenantOf c.f.ltag) ea need with
    | (.error (.cause cause), s) => s.exact c.core cause ea
    | (.error .held, s) => s
    | (.error .ecc, s) => s.eccRead c ea
    | (.ok p, s) =>
      if s.accessRefused c.f kind p sz plain then s.exact c.core .perm ea
      else
        let ord := if p.isRegister && kind.isStore then c.ord ||| 2 else c.ord
        s.beforeRelease c ord [(p.loc, sz)] (fun s =>
          match s.predict c.core c.f (s.trueHome c.core (s.tenantOf c.f.ltag) ea p) with
          | (some k, s) => s.modTop c.core (fun f => { f with mig := some (2, BitVec.ofNat 64 k) })
          | (none, s) =>
            let r := s.issueOp c kind dest ord false [Elem.new 0 p.loc ea.toNat sz data]
            done r.1 r.2)

/-- The size in bytes of a bundle's element. -/
def Ctx.size (c : Ctx) : Nat := typeBits (typeOf c.op c.w) / 8
def Ctx.eaM (c : Ctx) : Word := c.xb + wordOfInt (immC c.w)

def loadInt (op : Op) (w : Bundle) (s : State) : Out :=
  bundle op w s (fun c s =>
    s.scalarAccess c .load .load (.scalar (fieldA w) (typeOf op w)) c.eaM c.size 0 (op == .ld && c.size == 8)
      (fun _ s => s.advance c))

def execLd (w : Bundle) (s : State) : Out := loadInt .ld w s
def execLdsx (w : Bundle) (s : State) : Out := loadInt .ldsx w s

def execSt (w : Bundle) (s : State) : Out :=
  bundle .st w s (fun c s =>
    s.scalarAccess c .store .store .none c.eaM c.size (c.xa.toNat % 2 ^ (8 * c.size)) (c.size == 8) (fun _ s => s.advance c))

/-- R195: an `ldf` that can raise nv holds up issue. -/
def execLdf (w : Bundle) (s : State) : Out :=
  bundle .ldf w s (fun c s =>
    let ty := typeOf .ldf w
    s.scalarAccess c .load .load (.float (fieldA w) ty) c.eaM c.size 0 false (fun id s =>
      (s.modTop c.core (fun f => { f with hold := if ty ≠ 9 ∧ c.f.trapsOn flNV then some id else none })).advance c))

/-- R195: the conversion of `stf`. -/
def stfValue (ty : Nat) (rmode : Word) (x : Word) : Nat × Flags :=
  if ty = 9 then (x.toNat, flNone) else convElem 9 ty { ctlOf rmode with ftz := false } x.toNat

def execStf (w : Bundle) (s : State) : Out :=
  bundle .stf w s (fun c s =>
    let r := stfValue (typeOf .stf w) c.f.lv.rmode c.xa
    s.scalarAccess c .store .store .none c.eaM c.size r.1 false (fun _ s =>
      let s := s.modTop c.core (fun f => f.orFlags r.2)
      if c.f.trapsOn r.2 then s.exact c.core .fpx 0#64 else s.advance c))

/-! Scratch (R198, 10 R290, R291). -/

/-- An entry of a launch's scratch-allocation table (R291). -/
def Context.allocEntry (c : Context) (tile sel : Nat) : Nat := (kgetD c.alloc tile []).getD sel 0

/-- The region that a selector names for a frame: the tile that holds it, its first byte in the array, its size. -/
def State.region (s : State) (core : Nat) (f : Frame) (sel : Nat) : Option (Nat × Nat × Nat) :=
  if sel = 15 then some (scratchTile core, f.fsb, f.fscr)
  else if !isCompute core then none
  else
    match s.ctx f.ltag with
    | none => none
    | some c =>
      let e := c.allocEntry (tileOf core) sel
      let holder := if bitOf e 23 then bitsOf e 32 24 else tileOf core
      let h := c.allocEntry holder sel
      if bitsOf h 19 10 = 0 then none else some (holder, 512 * bitsOf h 9 0, 512 * bitsOf h 19 10)

/-- The checks of R198 on n bytes at an offset: the fault and its `eaddr`, or the place in an array. -/
def State.scratchAt (s : State) (core : Nat) (f : Frame) (sel off n : Nat) : Except (Cause × Word) Loc :=
  match s.region core f sel with
  | none => .error (.absent, BitVec.ofNat 64 sel)
  | some (tile, base, size) =>
    if size < off + n then .error (.window, BitVec.ofNat 64 off) else .ok (.array tile (base + off))

/-- The offset of form MS. -/
def Ctx.offMS (c : Ctx) : Word := c.xb + wordOfInt (displacement c.w)

def scratchScalar (op : Op) (w : Bundle) (s : State) (kind : OpKind) (dest : Dest) (data : Ctx → Nat) : Out :=
  bundle op w s (fun c s =>
    let off := c.offMS
    if off.toNat % c.size ≠ 0 then s.exact c.core .misalign off
    else
      match s.scratchAt c.core c.f (selector w) off.toNat c.size with
      | .error (cause, a) => s.exact c.core cause a
      | .ok loc =>
        if capFull c.f kind then s
        else
          s.beforeRelease c c.ord [(loc, c.size)] (fun s =>
            (s.issueOp c kind dest c.ord false [Elem.new 0 loc off.toNat c.size (data c)]).2.advance c))

def execLsp (w : Bundle) (s : State) : Out := scratchScalar .lsp w s .load (.scalar (fieldA w) (typeOf .lsp w)) (fun _ => 0)
def execSsp (w : Bundle) (s : State) : Out := scratchScalar .ssp w s .store .none (fun c => c.xa.toNat % 2 ^ (8 * c.size))

/-! Vector memory bundles (05 R154 to R157). -/

/-- The checked elements of a vector bundle, lowest index first (R157): the first one that has no place, with its address, or the accesses. -/
def checkElems (one : State → Nat → Except (NoPhys × Word) Loc × State) (va : Nat → Word) (n : Nat) (data : Nat → Nat) :
    List Nat → State → Except (NoPhys × Word) (List Elem) × State
  | [], s => (.ok [], s)
  | i :: rest, s =>
    match one s i with
    | (.error e, s) => (.error e, s)
    | (.ok loc, s) =>
      match checkElems one va n data rest s with
      | (.ok l, s) => (.ok (Elem.new i loc (va i).toNat n (data i) :: l), s)
      | r => r

/-- The active elements of a bundle (R134). -/
def Ctx.actives (c : Ctx) : List Nat := (List.range (64 / c.size)).filter (fun i => (c.f.predicate c.w).getLsbD i)

/-- A vector memory bundle: it stalls while its counter is at its cap or a handler holds the tables; a fault of an element is late; otherwise the
operation is issued and the bundle dispatched. -/
def vecMemory (op : Op) (w : Bundle) (s : State) (store : Bool) (va : Ctx → Nat → Word)
    (one : Ctx → State → Nat → Except (NoPhys × Word) Loc × State) : Out :=
  bundle op w s (fun c s =>
    let kind : OpKind := if store then .store else .load
    if capFull c.f kind then s
    else
      let bits := 8 * c.size
      let reg := c.f.vGet (fieldA w)
      match checkElems (one c) (va c) c.size (fun i => if store then vElem bits reg i else 0) c.actives s with
      | (.error (.cause e, a), s) => s.beforeRelease c c.ord [] (fun s => s.dispatchV c { VRes.nothing with fault := some (e, a) })
      | (.error (.held, _), s) => s
      | (.error (.ecc, a), s) => s.eccRead c a
      | (.ok elems, s) =>
        s.beforeRelease c c.ord (placesOf elems) (fun s =>
          let r := s.issueOp c kind (if store then .none else .vector (fieldA w) (typeOf op w)) c.ord true elems
          r.2.dispatchV c { VRes.nothing with op := some r.1 }))

/-- One element in global memory. -/
def globalElem (kind : OpKind) (need : Need) (va : Ctx → Nat → Word) (c : Ctx) (s : State) (i : Nat) :
    Except (NoPhys × Word) Loc × State :=
  let ea := va c i
  if ea.toNat % c.size ≠ 0 then (.error (.cause .misalign, ea), s)
  else
    match s.translate c.core (s.tenantOf c.f.ltag) ea need with
    | (.error e, s) => (.error (e, ea), s)
    | (.ok p, s) =>
      if s.accessRefused c.f kind p c.size false then (.error (.cause .perm, ea), s)
      else (.ok p.loc, s)

/-- One element in scratch; every fault reports the element's offset (R157). -/
def scratchElem (va : Ctx → Nat → Word) (c : Ctx) (s : State) (i : Nat) : Except (NoPhys × Word) Loc × State :=
  let off := va c i
  if off.toNat % c.size ≠ 0 then (.error (.cause .misalign, off), s)
  else
    match s.scratchAt c.core c.f (selector c.w) off.toNat c.size with
    | .error (cause, _) => (.error (.cause cause, off), s)
    | .ok loc => (.ok loc, s)

def addrRow (c : Ctx) (i : Nat) : Word := c.eaM + BitVec.ofNat 64 (c.size * i)
def addrScratch (c : Ctx) (i : Nat) : Word := c.offMS + BitVec.ofNat 64 (c.size * i)

/-- R156. -/
def addrIndexed (c : Ctx) (i : Nat) : Word :=
  let k := sextNat (vElem (8 * c.size) (c.f.vGet (fieldC c.w)) i) (8 * c.size)
  c.xb + wordOfInt (if modOpt c.w % 2 = 1 then k else k * c.size)

def execVld (w : Bundle) (s : State) : Out := vecMemory .vld w s false addrRow (globalElem .load .load addrRow)
def execVst (w : Bundle) (s : State) : Out := vecMemory .vst w s true addrRow (globalElem .store .store addrRow)
def execVlds (w : Bundle) (s : State) : Out := vecMemory .vlds w s false addrScratch (scratchElem addrScratch)
def execVsts (w : Bundle) (s : State) : Out := vecMemory .vsts w s true addrScratch (scratchElem addrScratch)
def execVgather (w : Bundle) (s : State) : Out := vecMemory .vgather w s false addrIndexed (globalElem .load .load addrIndexed)
def execVscatter (w : Bundle) (s : State) : Out := vecMemory .vscatter w s true addrIndexed (globalElem .store .store addrIndexed)

/-! Atomics (R199, R200). -/

/-- An atomic: b names the address, c the operand, a the destination and for `acas` the comparand. -/
def State.atomicAccess (s : State) (c : Ctx) : State :=
  let ty := typeOf c.op c.w
  let n := 2 ^ (8 * c.size)
  s.scalarAccess c (.atomic c.op ty (c.xc.toNat % n) (c.xa.toNat % n)) .atomic (.scalar (fieldA c.w) ty) c.xb c.size 0 false
    (fun _ s => s.advance c)

def atomicBundle (op : Op) (w : Bundle) (s : State) : Out := bundle op w s (fun c s => s.atomicAccess c)

def execAadd (w : Bundle) (s : State) : Out := atomicBundle .aadd w s
def execAmin (w : Bundle) (s : State) : Out := atomicBundle .amin w s
def execAmax (w : Bundle) (s : State) : Out := atomicBundle .amax w s
def execAminn (w : Bundle) (s : State) : Out := atomicBundle .aminn w s
def execAmaxn (w : Bundle) (s : State) : Out := atomicBundle .amaxn w s
def execAand (w : Bundle) (s : State) : Out := atomicBundle .aand w s
def execAor (w : Bundle) (s : State) : Out := atomicBundle .aor w s
def execAxor (w : Bundle) (s : State) : Out := atomicBundle .axor w s
def execAswp (w : Bundle) (s : State) : Out := atomicBundle .aswp w s
def execAcas (w : Bundle) (s : State) : Out := atomicBundle .acas w s
def execAfadd (w : Bundle) (s : State) : Out := atomicBundle .afadd w s

/-- The handler of an entry of a launch's atomic-handler table (13 R351); 0 for none. -/
def State.ahandler (s : State) (ltag h : Nat) : Word := (((s.ctx ltag).map (·.ahand)).getD []).getD h 0#64

/-- R200: an entry without a handler is ABSENT, with its number in `eaddr`. The comparand's place holds the handler. DESIGN CHOICE: that ABSENT comes before
the MISALIGN, XLATE and PERM of the address (log entry 7). -/
def execAhnd (w : Bundle) (s : State) : Out :=
  bundle .ahnd w s (fun c s =>
    let h := modOpt w
    if s.ahandler c.f.ltag h = 0#64 then s.exact c.core .absent (BitVec.ofNat 64 h)
    else
      s.scalarAccess c (.atomic .ahnd 8 c.xc.toNat (s.ahandler c.f.ltag h).toNat) .atomic (.scalar (fieldA w) 8) c.xb 8 0 false (fun _ s => s.advance c))

/-! Fences and waits (R201, R202). -/

/-- R201: the stall of a fence; a home-side fault of an access that it orders is raised first (R197). A fence that orders loads also waits for what
the releases that they read have left open (10 R299, R302), and then bounds what has been read ahead. -/
def State.fenceOn (s : State) (c : Ctx) (p : MemOp → Bool) : State :=
  let mine := (s.opsOf c.core c.f.task).filter (fun o => p o.2 && !o.2.performed)
  let acquires := c.ord != 2 && (s.core c.core).seen.any (fun r => r.reaches c.core c.w.qual.scope.toNat && !s.afterDone r.ops)
  match s.faultedOp c.core c.f.task p with
  | some id => s.raiseHome c.core id
  | none =>
    if mine.isEmpty && !acquires then (if c.ord = 2 then s else s.acquiredAt c.core c.w.qual.scope.toNat s.nextId).advance c else s

def execFence (w : Bundle) (s : State) : Out :=
  bundle .fence w s (fun c s => s.fenceOn c (fun o => c.ord != 1 || !o.kind.isStore))

/-- R202: the limits. -/
def waitLimits (w : Bundle) : Nat := if w.imx.isEmpty then 0xFFC00 ||| rawJ w else rawJ w % 2 ^ 20

/-- Whether a limit lets the bundle complete. -/
def underLimit (n limit : Nat) : Bool := limit == 31 || decide (n ≤ limit)

def execWait (w : Bundle) (s : State) : Out :=
  bundle .wait w s (fun c s =>
    let v := waitLimits w
    let okLd := underLimit c.f.lv.ldc (bitsOf v 4 0)
    let okSt := underLimit c.f.lv.stc (bitsOf v 9 5)
    if okLd && okSt && underLimit c.f.lv.cpc (bitsOf v 14 10) && underLimit c.f.lv.tlc (bitsOf v 19 15) then s.advance c
    else
      match s.faultedOp c.core c.f.task (fun o => if o.kind.isStore then !okSt else !okLd) with
      | some id => s.raiseHome c.core id
      | none => s)

/-- 10 R296, R299: a core acquires at a place that it has read in place, at a scope: what the releases there that reach it order comes before all that
follows. -/
def State.acquireHere (s : State) (core scope : Nat) (l : Loc) (n : Nat) : State :=
  let found := ((s.rels.filter (fun r => locsMeet r.1 r.2.1 l n)).map (·.2.2)).filter (fun r =>
    r.core != core && r.reaches core scope && !s.afterDone r.ops)
  if found.isEmpty then s.acquiredAt core scope s.nextId
  else (s.forget core s.nextId).modCore core (fun c => { c with behind := s.open_ c.behind ++ found.flatMap (·.ops) })

/-- R231: the counter wait, whose satisfying read is an acquire. -/
def execCtrw (w : Bundle) (s : State) : Out :=
  bundle .ctrw w s (fun c s =>
    let ea := c.xb
    let tenant := s.tenantOf c.f.ltag
    if ea.toNat % 8 ≠ 0 then s.exact c.core .misalign ea
    else
      let places := match (s.translate c.core tenant ea .load).1 with | .ok p => [(p.loc, 8)] | .error _ => []
      s.beforeRelease c (if places.isEmpty then 0 else 1) places (fun s =>
        match s.readV c.core tenant ea 8 .load with
        | (.fault cause a, s) => s.exact c.core cause a
        | (.wait p n, s) => s.requestBytes c.core tenant p n
        | (.busy, s) => s
        | (.ecc va, s) => s.eccRead c va
        | (.ok bytes, s) =>
          let v := BitVec.ofNat 64 (leValue bytes)
          if c.xc.toNat ≤ v.toNat then
            (places.foldl (fun s p => s.acquireHere c.core w.qual.scope.toNat p.1 p.2) s).writeX c (fieldA w) v
          else s.modCore c.core (fun k => { k with rbuf := [] })))

end Sys2Proof.Machine
end

