-- ==== Sys2Proof/Machine/Queues.lean ====
section
/-! DEFINITION. The function and launch-queue registers of the compute functions (spec 14 R384 to R386, R389, R391). -/

namespace Sys2Proof.Machine

/-- A compute function, physical or virtual (R384). -/
def isComputeFn (f : Nat) : Bool := decide (f < 8) || (decide (16 ≤ f) && decide (f < 80))

/-- The die whose Governor owns a function's queues (R384). -/
def dieOfFn (f : Nat) : Nat := if f < 8 then f else (f - 16) / 8

def PcieFn.queue (f : PcieFn) (q : Nat) : LaunchQueue := kgetD f.queues q LaunchQueue.reset

def State.modQueue (s : State) (fn q : Nat) (g : LaunchQueue → LaunchQueue) : State :=
  s.modFn fn (fun f => { f with queues := kset f.queues q (g (f.queue q)) })

/-- Whether a queue takes entries (R389). -/
def LaunchQueue.enabled (q : LaunchQueue) : Bool := q.en && decide (4 ≤ q.lg) && decide (q.lg ≤ 12)

/-- The doorbell (R391 steps 1 and 2): one that exceeds the ring leaves the tail as it was, so that none of its entries is taken. -/
def LaunchQueue.ring (q : LaunchQueue) (tail : Nat) : LaunchQueue :=
  if !q.enabled then q
  else if (tail + 65536 - q.head) % 65536 > 2 ^ q.lg then { q with overflow := true, en := false }
  else { q with tail := tail }

/-- Whether a TDI lets a function's configuration change (R394). -/
def PcieFn.open_ (f : PcieFn) : Bool := f.tdi == .unlocked

/-- A write of a queue register (R389, R394). -/
def LaunchQueue.write (q : LaunchQueue) (unlocked : Bool) (reg : Nat) (v : Word) : LaunchQueue :=
  match reg with
  | 0x00 => if q.en || !unlocked then q else { q with loc := v.toNat % 2, base := field v 63 12 }
  | 0x08 =>
    if !unlocked then q
    else if q.en then { q with en := v.getLsbD 4 }
    else { q with lg := field v 3 0, en := v.getLsbD 4 }
  | 0x10 => q.ring (field v 15 0)
  | 0x20 =>
    { q with overflow := q.overflow && !v.getLsbD 0, fault := q.fault && !(unlocked && v.getLsbD 1) }
  | _ => q

/-- A queue register read. -/
def LaunchQueue.read (q : LaunchQueue) (reg : Nat) : Word :=
  match reg with
  | 0x00 => BitVec.ofNat 64 (q.loc + q.base * 4096)
  | 0x08 => BitVec.ofNat 64 (q.lg + (if q.en then 16 else 0))
  | 0x18 => BitVec.ofNat 64 q.head
  | 0x20 => BitVec.ofNat 64 ((if q.overflow then 1 else 0) + (if q.fault then 2 else 0))
  | _ => 0#64

/-- The function register (R386). -/
def PcieFn.word (f : PcieFn) (fn : Nat) : Word :=
  BitVec.ofNat 64 (fn + f.tenant * 2 ^ 8 + (if f.bound then 2 ^ 14 else 0) + f.wbase * 2 ^ 16 +
    (if f.tdi == .run then 2 ^ 45 else 0))

/-- The pseudo core of a function's host accesses (log entry 22). -/
def hostCore (fn : Nat) : Nat := 917506 + fn

/-- The accesses of a function still to be performed. -/
def State.hostOpen (s : State) (fn : Nat) : Bool := s.ops.any (fun o => o.2.core == hostCore fn && o.2.dest != .buffer && !o.2.performed)

/-- Whether a compute function answers: the boot has enabled it and a tenant names it (R384, 16 R427). -/
def State.fnUp (s : State) (fn : Nat) : Bool := s.boot.done && isComputeFn fn && (s.fn fn).bound

/-- Whether a memory request reaches a function: one to a function in RUN comes on its own IDE stream with the T bit set (R394); `via` is that stream. -/
def State.fnTakes (s : State) (fn : Nat) (via : Option Nat) : Bool := s.fnUp fn && !((s.fn fn).tdi == .run && via != (s.fn fn).ide)

/-- What a request does that may reach its function: the writes before it have been performed (R387), and one that does not reach it completes with
Unsupported Request (report 2; R384, R394). -/
def State.hostRequest (s : State) (fn : Nat) (via : Option Nat) (k : State → State) : State :=
  if !s.fnTakes fn via then s.emit (.report 2 (BitVec.ofNat 64 fn)) else if s.hostOpen fn then s else k s

/-- A write of BAR0 of a compute function (R385). -/
def State.regWrite (s : State) (fn off : Nat) (v : Word) : State :=
  if 0x1000 ≤ off ∧ off < 0x1400 then
    s.modQueue fn ((off - 0x1000) / 64) (fun q => q.write (s.fn fn).open_ (off % 64) v)
  else s

/-- A read of BAR0 of a compute function (R385). -/
def State.regRead (s : State) (fn off : Nat) : Word :=
  if off = 0 then (s.fn fn).word fn
  else if 0x1000 ≤ off ∧ off < 0x1400 then ((s.fn fn).queue ((off - 0x1000) / 64)).read (off % 64)
  else 0#64

end Sys2Proof.Machine
end

