-- ==== Sys2Proof/Machine/Home.lean ====
section
/-! DEFINITION. Accesses performed at their homes (spec 10 R282 to R284, R297, R298; 07 R196, R197, R199, R200; 11 R329; 13 R360; 14
R388, R392) and the completion of loads, stores and atomics. -/

namespace Sys2Proof.Machine

/-! When an access may be performed (R297, R298). -/

/-- Whether an earlier operation of the core holds back an access of a later one: it is an acquire that still orders what follows and that the later one may
not pass, the later one is a release at `.sys`, or they share a byte. A release at a narrower scope goes ahead, and those whom its scope reaches wait
(log entry 10). A faulted operation has no effect and holds back nothing. -/
def State.holdsBack (s : State) (id : Nat) (x : MemOp) (y : MemOp) (e : Elem) : Bool :=
  x.fault.isNone &&
    ((s.acquiring x && !(decide (y.ord < 2) && s.passable id x)) || (!x.performed && decide (2 ≤ y.ord) && y.scope == 6) ||
      x.elems.any (fun d => !d.done && locsMeet d.loc d.size e.loc e.size))

/-- 05 R137: a vector bundle stores when it is the oldest of its level that has not completed. -/
def State.vecTurn (s : State) (id : Nat) (o : MemOp) : Bool :=
  if o.vec && o.kind.isStore then
    match s.frameOf o.core o.task with
    | some f => (f.lv.vq.head?.bind (·.op)) == some id
    | none => true
  else true

/-- Whether an access of an operation may be performed now. -/
def State.performable (s : State) (id : Nat) (o : MemOp) (e : Elem) : Bool :=
  !e.done && e.bad.isNone && o.fault.isNone && s.vecTurn id o && s.afterDone o.start && !s.underWay 4 (.access id e.loc.line) &&
    !s.heldByHandler id e.loc e.size &&
    !(s.ops.any (fun x => decide (x.1 < id) && x.2.core == o.core && x.2.dest != .buffer && s.holdsBack x.1 x.2 o e)) &&
    !(o.elems.any (fun d => decide (d.ix < e.ix) && !d.done && locsMeet d.loc d.size e.loc e.size))

/-! Performing. -/

/-- An operation with all of its accesses decided has the fault of the lowest-numbered one that has one (05 R157). -/
def MemOp.settle (o : MemOp) : MemOp :=
  match o.elems.find? (·.bad.isSome) with
  | some e => if o.elems.all (fun e => e.done || e.bad.isSome) then { o with fault := e.bad } else o
  | none => o

/-- An access of an operation done, with what it read. -/
def MemOp.finish (o : MemOp) (ix got : Nat) : MemOp :=
  { o with elems := o.elems.map (fun (e : Elem) => if e.ix = ix then { e with done := true, got := got } else e) }.settle

/-- An access of an operation that has left for its home. -/
def MemOp.ask (o : MemOp) (ix : Nat) : MemOp :=
  { o with elems := o.elems.map (fun e => if e.ix = ix then { e with asked := true } else e) }

/-- An access of an operation that has a home-side fault. -/
def MemOp.spoil (o : MemOp) (ix : Nat) (k : HomeFault) : MemOp :=
  { o with elems := o.elems.map (fun (e : Elem) => if e.ix = ix then { e with bad := some k } else e) }.settle

/-- Whether an access is a vector store's. -/
def MemOp.isVecStore (o : MemOp) : Bool := o.vec && (match o.kind with | .store => true | _ => false)

/-- The X9's own atomic handlers whose operation has failed, or is gone, end. -/
def State.endHandlers (s : State) : State :=
  s.cores.foldl (fun s (k : Nat × Core) =>
    match k.2.frames.head?.map (fun (f : Frame) => f.kind) with
    | some (.fixedAtomic id) => if (kget s.ops id).all (fun o => o.fault.isSome) then s.pop k.1 else s
    | _ => s) s

/-- A home-side fault found (R197). A vector store whose accesses have passed their checks goes on: what it stores there is lost (05 R157). -/
def State.homeFault (s : State) (id ix : Nat) (k : HomeFault) : State :=
  (s.modOp id (fun o => if o.isVecStore && o.elems.any (fun e => e.ix == ix && e.taken) then o.finish ix 0 else o.spoil ix k)).endHandlers

/-- Whether an access is one of a vector store in another package that has still to be checked there (05 R157). -/
def MemOp.unchecked (o : MemOp) (e : Elem) : Bool :=
  o.isVecStore && !e.taken && !e.done && e.bad.isNone && (match e.loc with | .global p _ _ => p == 3 | .array _ _ => false)

/-- 05 R157: the home-side fault of the lowest-numbered access of a vector store, found before any of them is performed. -/
def State.storeFault (s : State) (o : MemOp) : Option HomeFault :=
  if o.isVecStore && o.elems.all (fun e => !e.done && !e.asked) then
    o.elems.findSome? (fun e =>
      match e.loc with
      | .global policy home pa =>
        if e.bad.isSome then e.bad
        else if policy = 3 ∨ policy = 4 ∨ inAperture pa = true then none
        else if s.homeDown policy home pa then some .absent
        else if s.lineBad policy home (pa / 64) then some .ecc
        else none
      | .array _ _ => none)
  else none

/-- An operation that fails as a whole. -/
def State.failStore (s : State) (id : Nat) (o : MemOp) (k : HomeFault) : State :=
  let bad (e : Elem) : Elem :=
    match e.loc with
    | .global policy home pa =>
      if e.bad.isNone ∧ policy ≠ 3 ∧ policy ≠ 4 ∧ inAperture pa = false ∧ (s.homeDown policy home pa = true ∨ s.lineBad policy home (pa / 64) = true) then
        { e with bad := some k }
      else e
    | .array _ _ => e
  s.modOp id (fun _ => { o with fault := some k, elems := o.elems.map bad })

/-! What releases and acquires leave (10 R296, R299). -/

/-- A release at a narrower scope than `.sys` performed: what it orders and has not been performed stands beside its place. -/
def State.noteRelease (s : State) (id : Nat) (o : MemOp) (e : Elem) : State :=
  let ops := s.unperformedBefore o.core id
  if 2 ≤ o.ord ∧ o.scope < 6 ∧ ops ≠ [] then
    { s with rels := s.rels.filter (fun r => !s.afterDone r.2.2.ops) ++ [(e.loc, e.size, { core := o.core, scope := o.scope, ops := ops })] }
  else s

/-- The releases of other cores that an access at a place may read and that still order something. -/
def State.relsAt (s : State) (core : Nat) (l : Loc) (n : Nat) : List Rel :=
  ((s.rels.filter (fun r => locsMeet r.1 r.2.1 l n)).map (·.2.2)).filter (fun r => r.core != core && !s.afterDone r.ops)

/-- What an access reads of releases at its place: an acquire that they reach waits for what they order, and bounds what its core has read ahead; another
keeps them in mind. An acquire that later accesses have passed reads what stood there before. -/
def State.observe (s : State) (id : Nat) (o : MemOp) (e : Elem) : State :=
  let found := s.relsAt o.core e.loc e.size
  if o.kind.isStore then s
  else if o.ord % 2 = 1 then
    let reach := found.filter (fun r => r.reaches o.core o.scope)
    if reach.isEmpty || s.aheads.any (fun x => x.acquire == id) then s.acquiredAt o.core o.scope id
    else (s.forget o.core id).modOp id (fun x => { x with behind := x.behind ++ reach.flatMap (·.ops) })
  else if found.isEmpty || decide (12288 ≤ o.core) then s
  else s.modCore o.core (fun c => { c with seen := c.seen.filter (fun r => !s.afterDone r.ops) ++ found })

/-- What an atomic writes (R199); none where it writes nothing. -/
def atomicNew (op : Op) (ty old arg cmp : Nat) : Option Nat :=
  let bits := typeBits ty
  let signed (x : Nat) : Int := sextNat x bits
  match op with
  | .aadd => some ((old + arg) % 2 ^ bits)
  | .amin => some (if signed arg < signed old then arg else old)
  | .amax => some (if signed old < signed arg then arg else old)
  | .aminn => some (min old arg)
  | .amaxn => some (max old arg)
  | .aand => some (old &&& arg)
  | .aor => some (old ||| arg)
  | .axor => some (old ^^^ arg)
  | .aswp => some arg
  | .acas => if old = cmp then some arg else none
  | .afadd =>
    let f := fmtOfType ty
    some (roundF f rneCtl (addNum false (decodeF f old) (decodeF f arg))).1
  | _ => none

/-- The reply for a line whose accesses have all been performed (10 R284). -/
def State.sendReply (s : State) (id : Nat) (o : MemOp) (e : Elem) : State :=
  let here := o.elems.filter (fun d => d.loc.line == e.loc.line)
  match s.homeCore o.core e.loc with
  | some home =>
    if o.dest matches .scalar _ _ | .float _ _ | .vector _ _ | .none | .buffer ∧ here.all (fun d => d.done || d.ix == e.ix) then
      s.sendInternal 5 home o.core (if !o.kind.isStore && decide (8 < (here.map (·.size)).foldl (· + ·) 0) then 2 else 0) o.ltag (.access id e.loc.line)
    else s
  | none => s

/-- What a load finds at its place: what stands there, or, when later accesses have passed it, what stood there before (10 R298). -/
def State.foundAt (s : State) (id : Nat) (here : Nat) : Nat := ((s.aheads.find? (fun x => x.acquire == id)).map (·.now)).getD here

/-- An access performed between two states: acquires before it are passed, what others have read ahead is told, and it observes. -/
def State.settleAccess (before s : State) (id : Nat) (o : MemOp) (e : Elem) : State :=
  ((before.noteAccess s o.core e.loc e.size).passAcquires o.core id).observe id o e

/-- A load, a store or a fixed atomic performed on bytes at a home: one step of the line. -/
def State.performAt (s : State) (id : Nat) (o : MemOp) (e : Elem) (policy home pa : Nat) : State :=
  let old := leValue (s.readHome policy home pa e.size)
  let after (t : State) (got : Nat) : State := (((s.settleAccess t id o e).sendReply id o e).noteRelease id o e).modOp id (fun o => o.finish e.ix got)
  match o.kind with
  | .load => after s (s.foundAt id old)
  | .store => after (s.writeHome policy home pa (leBytes e.data e.size)) 0
  | .atomic op ty arg cmp =>
    after (match atomicNew op ty old arg cmp with | some v => s.writeHome policy home pa (leBytes v e.size) | none => s) old

/-- A scratch access performed. -/
def State.performArray (s : State) (id : Nat) (o : MemOp) (e : Elem) (tile off : Nat) : State :=
  let old := memGetN (s.tile tile).array off e.size
  let t := if o.kind.isStore then s.modTile tile (fun t => { t with array := memSetN t.array off e.size e.data }) else s
  ((s.settleAccess t id o e).noteRelease id o e).modOp id (fun o => o.finish e.ix (s.foundAt id old))

/-- A register access performed at the Governor (14 R392). -/
def State.performRegister (s : State) (id : Nat) (o : MemOp) (e : Elem) (pa : Nat) : State :=
  let fn := (pa - apertureBase) / 65536
  let off := (pa - apertureBase) % 65536
  if o.kind.isStore then (s.regWrite fn off (BitVec.ofNat 64 e.data)).modOp id (fun o => o.finish e.ix 0)
  else s.modOp id (fun o => o.finish e.ix (s.regRead fn off).toNat)

/-- The home takes an access in its turn (R360) and asks for the line when that is not there; otherwise the access. -/
def State.withLine (s : State) (id : Nat) (o : MemOp) (e : Elem) (policy home pa : Nat) (k : State → State) : State :=
  let s := if e.loc.onOwnTile o.core then s.acceptEarlier o.core id else s
  if e.loc.onOwnTile o.core && !s.earlierAccepted o.core id then s
  else
    let s := s.acceptAccess id o e
    if (s.lineAt policy home (pa / 64)).isSome then k s else s.reserveLine policy home (pa / 64)

/-! Atomics on tile-homed lines and `ahnd` (R199, R200, R255; 11 R330). -/

/-- R255: the core of a home tile that takes an atomic handler. -/
def State.handlerCore (s : State) (tile : Nat) : Nat :=
  let cores := (List.range 8).map (fun i => 8 * tile + i)
  match cores.find? (fun k => (s.core k).admits 7) with
  | some k => k
  | none =>
    let count (k : Nat) : Nat := ((s.core k).inbox.filter (fun e => e.level == 7)).length
    (sortBy (fun a b => decide (count a < count b)) cores).headD (8 * tile)

/-- The inbox depth of a core (01 R11, 12 R340). -/
def State.depthAt (s : State) (core : Nat) : Nat :=
  match s.launchAt core with
  | some tag => ((s.ctx tag).map Context.depth).getD 16
  | none => 16

/-- Whether a level of a core's inbox has room (09 R250). -/
def State.inboxRoom (s : State) (core level : Nat) : Bool :=
  decide (((s.core core).inbox.filter (fun e => e.level == level)).length < s.depthAt core)

/-- An event entered in an inbox; it ends an `idle` of the core's frames (04 R131). DESIGN CHOICE: one that waits in the router's hold store, because its
level is full, ends none until it enters (log entry 35). -/
def State.enterInbox (s : State) (core : Nat) (e : REvent) : State :=
  s.modCore core (fun c =>
    { c with inbox := c.inbox ++ [e], frames := c.frames.map (fun f => if f.idle = 1 then { f with idle := 2 } else f) })

/-- The router from which a home sends an atomic handler to a core of its own: its tile's, or a Bedstone die's first. -/
def handlerRouter (core : Nat) : Nat := if isCompute core then tileOf core else (targetRouter core 0 0).1

/-- The kind-1 message that starts one of the X9's handlers on a core (11 R320): it goes the way of every release event (11 R326). -/
def State.handlerMsg (s : State) (core tenant : Nat) (e : REvent) : Msg :=
  { kind := 1, dpkg := s.pkg, dcore := keyId core, dspace := keySpace core, src := e.src, tenant := tenant, cls := 0, level := e.level, ordered := false,
    pseq := 0, rel := false, scope := 0, gov := false, words := e.args, endw := false, ltag := e.ltag, handler := e.handler, item := e.item, ev := e.kind,
    rangeOf := e.gov, after := [] }

/-- The handler event of an atomic sent to a core of the home (R199, R255). -/
def State.sendHandler (s : State) (id : Nat) (o : MemOp) (e : Elem) (core : Nat) (kind : EvKind) (handler : Word) : State :=
  let src : Source := match o.dest with
    | .remote peer _ _ _ => { core := keyId (o.core - 65536), pkg := peer, space := keySpace (o.core - 65536) }
    | _ => { core := keyId o.core, pkg := s.pkg, space := keySpace o.core }
  let m := s.handlerMsg core o.tenant
    { kind := kind, handler := handler, level := 7, args := [], item := o.item, src := src, cls := none, ltag := o.ltag, gov := none }
  (s.inject (handlerRouter core) m 1 (s.memPref o.ltag)).modOp id (fun o => o.ask e.ix)

/-- The core whose top frame runs a handler of a kind. -/
def State.coreRunning (s : State) (kind : FrameKind) : Option Nat :=
  (s.cores.find? (fun c => (c.2.frames.head?.map (·.kind)) == some kind)).map (·.1)

/-- An atomic at a tile or an `ahnd` anywhere: first the handler is sent; the X9's own handler then performs the atomic and pops. The
`end` of an `ahnd` handler performs that one. -/
def State.atomicByHandler (s : State) (id : Nat) (o : MemOp) (e : Elem) (op : Op) (cmp policy home pa : Nat) : State :=
  if op = .ahnd then
    if e.asked then s
    else
      s.sendHandler id o e (if isTilePolicy policy then s.handlerCore home else coreKey 1 (16 * home + bitsOf pa 9 6)) (.userAtomic id)
        (BitVec.ofNat 64 cmp)
  else if !e.asked then s.sendHandler id o e (s.handlerCore home) (.fixedAtomic id) 0#64
  else
    match s.coreRunning (.fixedAtomic id) with
    | some k => (s.performAt id o e policy home pa).pop k
    | none => s

/-! Requests that leave the package (R282, 14 R388, R397). -/

/-- Whether an access belongs to a copy that is not to be compressed (07 R225). -/
def State.rawCopy (s : State) (o : MemOp) : Bool :=
  match o.dest with
  | .copy job _ => ((kget s.copies job).map (fun j => bitOf (j.words.getD 2 0#64).toNat 35)).getD false
  | _ => false

/-- A request to another package; a release at a narrower scope is noted as it leaves (10 R304). -/
def State.askPackage (s : State) (id : Nat) (o : MemOp) (e : Elem) (peer pa : Nat) : State :=
  let m : MemPacket :=
    { reply := false, op := id, elem := e.ix, write := o.kind.isStore,
      atomic := (match o.kind with | .atomic op ty arg cmp => some (op.op6, ty, arg, cmp) | _ => none),
      addr := pa, size := e.size, data := (match o.kind with | .atomic _ _ _ _ => leBytes e.va 8 | _ => leBytes e.data e.size),
      src := { core := keyId o.core, pkg := s.pkg, space := keySpace o.core }, tenant := o.tenant, ltag := o.ltag, item := o.item, fault := 0,
      raw := s.rawCopy o }
  match (s.noteRelease id o e).sendScale peer 0 none (some m) with
  | some s => (s.passAcquires o.core id).modOp id (fun o => o.ask e.ix)
  | none => s.homeFault id e.ix .absent

/-- A request to the host: reads and atomics wait for a completion, writes are posted. -/
def State.askHost (s : State) (id : Nat) (o : MemOp) (e : Elem) (pa : Nat) : State :=
  let fn := s.fnOfTenant o.tenant
  let ide := s.ideOf fn
  let s := (s.noteRelease id o e).passAcquires o.core id
  match o.kind with
  | .load => (s.emit (.hostRead fn ide id e.ix pa e.size)).modOp id (fun o => o.ask e.ix)
  | .store => (s.emit (.hostWrite fn ide id e.ix pa (leBytes e.data e.size))).modOp id (fun o => o.finish e.ix 0)
  | .atomic op _ arg cmp => (s.emit (.hostAtomic fn ide id e.ix pa e.size op.op6 arg cmp)).modOp id (fun o => o.ask e.ix)

/-- An access whose answer has come from another package or the host: it observes what releases of this package stand at its place (10 R304). -/
def State.answered (s : State) (id ix got : Nat) : State :=
  match kget s.ops id with
  | none => s
  | some o =>
    match o.elems.find? (fun e => e.ix == ix) with
    | none => s
    | some e => (s.observe id o e).modOp id (fun o => o.finish ix got)

/-! The events. -/

/-- An access of an operation performed at its home. A vector store whose accesses have passed their checks goes on when a die is reset meanwhile: what it
stores there is lost with the die's lines (05 R157, 15 R419). -/
def State.performHome (s : State) (id : Nat) (o : MemOp) (e : Elem) : State :=
  match e.loc with
  | .array tile off => s.performArray id o e tile off
  | .global policy home pa =>
    if policy = 3 then (if e.asked then s else s.askPackage id o e home pa)
    else if policy = 4 then (if e.asked then s else s.askHost id o e pa)
    else if inAperture pa then s.performRegister id o e pa
    else if s.homeDown policy home pa then
      (if o.isVecStore then s.modOp id (fun o => o.finish e.ix 0) else s.homeFault id e.ix .absent)
    else
      s.withLine id o e policy home pa (fun s =>
        match o.kind with
        | .atomic op _ _ cmp => if isTilePolicy policy || op == .ahnd then s.atomicByHandler id o e op cmp policy home pa else s
        | _ => s.performAt id o e policy home pa)

/-- A step of an access: a vector store first checks those of its accesses that other packages hold, by reading there, and performs none before all have
passed (05 R157). -/
def State.accessHome (s : State) (id : Nat) (o : MemOp) (e : Elem) : State :=
  if o.unchecked e then
    (match e.loc with
     | .global 3 peer pa => if e.asked then s else s.askPackage id { o with kind := .load, ord := 0 } e peer pa
     | _ => s)
  else if o.elems.any o.unchecked then s
  else match s.storeFault o with | some k => s.failStore id o k | none => s.performHome id o e

/-- R282: a load, a store or an atomic at a tile is performed at its home; R197 where the home is under reset. -/
def execHomeAccess (op elem : Nat) (s : State) : Out :=
  match kget s.ops op with
  | none => event s
  | some o =>
    match o.elems.find? (fun e => e.ix == elem) with
    | none => event s
    | some e => event (if s.performable op o e then s.accessHome op o e else s)

/-- R329: the slice's atomic unit performs a fixed atomic. -/
def execAtomicUnitOp (op : Nat) (s : State) : Out :=
  match kget s.ops op with
  | none => event s
  | some o =>
    match o.elems, o.kind with
    | [e], .atomic k _ _ _ =>
      match e.loc with
      | .global 0 home pa =>
        if k = .ahnd ∨ inAperture pa = true ∨ s.performable op o e = false then event s
        else if s.homeDown 0 home pa then event (s.homeFault op e.ix .absent)
        else event (s.withLine op o e 0 home pa (fun s => s.performAt op o e 0 home pa))
      | _ => event s
    | _, _ => event s

/-- R360, R282: the fill of a line at its home. A line whose DRAM bytes have an uncorrectable error fails the accesses that wait for it
(15 R423). -/
def execCacheFill (line : Nat) (s : State) : Out :=
  if s.badLines.contains line then
    let waits (e : Elem) : Bool := !e.done && (match e.loc with
      | .global p _ pa => decide (p ≠ 3) && decide (p ≠ 4) && pa / 64 == line
      | .array _ _ => false)
    let drop (l : List CLine) : List CLine := l.filter (fun c => !(c.line == line && c.res))
    event (State.endHandlers { s with
                   ops := s.ops.map (fun o => (o.1, { o.2 with elems := o.2.elems.map (fun e => if waits e then { e with bad := some .ecc } else e) }.settle)),
                   tiles := s.tiles.map (fun t => (t.1, { t.2 with lines := drop t.2.lines })),
                   slices := s.slices.map (fun l => (l.1, drop l.2)) })
  else
    let own := s.fillData line
    let rep := s.currentLine line
    event { s with tiles := s.tiles.map (fun t => (t.1, { t.2 with lines := fillLines line own rep t.2.lines })),
                   slices := s.slices.map (fun l => (l.1, fillLines line own rep l.2)) }

/-! Completion (R195 to R197, R211). -/

/-- The status of a home-side fault that is reported. -/
def homeStatus (k : HomeFault) : Nat :=
  match k with | .absent => failedAbsent | .perm => failedXlate | .ecc => failedEcc | .tenant => failedTenant | .timeout => failedTimeout

/-- A reply to another package. -/
def State.replyPackage (s : State) (o : MemOp) (peer op elem : Nat) (raw : Bool) : State :=
  let e := o.elems.headD (Elem.new 0 (.array 0 0) 0 0 0)
  let m : MemPacket :=
    { reply := true, op := op, elem := elem, write := o.kind.isStore, atomic := none, addr := 0, size := e.size,
      data := leBytes e.got e.size, src := { core := 0, pkg := s.pkg, space := 0 }, tenant := 0, ltag := 0, item := 0#64,
      fault := (match o.fault with | none => 0 | some .absent => 1 | some .perm => 2 | some .ecc => 3 | some .tenant => 4 | some .timeout => 5), raw := raw }
  (s.sendScale peer 0 none (some m)).getD s

/-- A faulted operation of a task that has gone: the failure of its item (R211), which is reported once (15 R414, R415). -/
def State.reportGone (s : State) (id : Nat) (o : MemOp) (k : HomeFault) : State :=
  if o.mute then s.dropOp id
  else (((s.report o.ltag (homeStatus k) 0 o.item (BitVec.ofNat 64 o.pc) (BitVec.ofNat 64 o.faultVa)).dropOp id).muteTask o.core o.task)

/-- Whether the vector bundle of an operation still stands in its queue. -/
def State.vecPending (s : State) (id : Nat) (o : MemOp) : Bool :=
  o.vec && ((s.frameOf o.core o.task).map (fun f => f.lv.vq.any (fun e => e.op == some id))).getD false

/-- 11 R308, R310: an access of a copy segment to another package or the host has ended: its bytes take their place, or the job fails. -/
def State.copyArrived (s : State) (job seg : Nat) (o : MemOp) : State :=
  match kget s.copies job with
  | none =>
    match o.fault with
    | none => s
    | some k =>
      let s := s.modColl job (fun c => { c with status := some (c.status.getD failedAbsent) })
      match kget s.ueJobs job with
      | some j => { s with ueJobs := kset s.ueJobs job { j with status := some (j.status.getD (homeStatus k)) } }
      | none => s
  | some j =>
    let e := o.elems.headD (Elem.new 0 (.array 0 0) 0 0 0)
    let put (x : Segment) : Segment :=
      { x with left := x.left - 1,
               data := if o.kind.isStore then x.data else x.data.take e.ix ++ leBytes e.got e.size ++ x.data.drop (e.ix + e.size) }
    let j := { j with segs := j.segs.mapIdx (fun i x => if i = seg then put x else x) }
    let j := match o.fault with
      | some k =>
        if o.kind.isStore && bitOf (j.words.getD 2 0#64).toNat 36 then { j with mfail := if j.mfail = 0 then homeStatus k else min j.mfail (homeStatus k) }
        else j.fail s.cycle (homeStatus k) (BitVec.ofNat 64 e.va)
      | none => j
    { s with copies := kset s.copies job j }

/-- Whether the reply of an access of an operation is still on its way (10 R284). -/
def State.replyOut (s : State) (id : Nat) : Bool :=
  s.msgs.any (fun m => m.2.msg.kind == 5 && (match m.2.msg.ev with | .access op _ => op == id | _ => false))

/-- The number under which bytes that a core has asked for are kept. -/
def Loc.key (l : Loc) (n : Nat) : Nat :=
  match l with | .global policy home pa => ({ policy := policy, home := home, pa := pa : Phys }).bytesKey n | .array _ _ => 0

/-- What a load or an atomic delivers to its frame (R194, R195, R199); an `ldf` raises FPX when it was issued with `fpen.nv` at 1, which is when it holds up
issue. -/
def Frame.deliver (f : Frame) (id : Nat) (o : MemOp) : Frame :=
  let got := (o.elems.head?.map (·.got)).getD 0
  match o.dest with
  | .scalar n ty =>
    f.xSet n (if isSignedType ty then wordOfInt (sextNat got (typeBits ty)) else BitVec.ofNat 64 (got % 2 ^ typeBits ty))
  | .float n ty =>
    let r := if ty = 9 then (got, flNone) else convElem ty 9 rneCtl got
    let g := (f.xSet n (BitVec.ofNat 64 r.1)).orFlags r.2
    let g := { g with hold := if f.hold = some id then none else f.hold }
    if f.hold = some id && r.2 != flNone then { g with late := g.late ++ [{ cause := .fpx, pc := o.pc, eaddr := 0#64, eseq := 0, stamp := id, restore := none }] } else g
  | _ => f

/-- R196, R197, R211: the result of a scalar load or atomic reaches its register. -/
def execLoadCompletion (op : Nat) (s : State) : Out :=
  match kget s.ops op with
  | none => event s
  | some o =>
    if o.kind.isStore then event s
    else
      match o.dest, o.fault with
      | .remote peer rop elem raw, k =>
        event (if o.performed || k.isSome then (s.replyPackage o peer rop elem raw).dropOp op else s)
      | .copy job seg, k => event (if o.performed || k.isSome then (s.copyArrived job seg o).dropOp op else s)
      | .buffer, some _ => event s
      | .buffer, none =>
        event (if o.performed && !s.replyOut op then
          let e := o.elems.headD (Elem.new 0 (.array 0 0) 0 64 0)
          (s.modCore o.core (fun c => { c with rbuf := kset c.rbuf (e.loc.key e.size) (leBytes e.got e.size) })).dropOp op
        else s)
      | _, some k => event (if (s.frameOf o.core o.task).isNone && !s.ownerSaved o then s.reportGone op o k else s)
      | _, none =>
        event (if !s.ownerSaved o && o.performed && s.afterDone o.behind && !s.replyOut op && !s.vecPending op o then
          ((s.modTask o.core o.task (fun f => f.deliver op o)).lowerFor o).dropOp op
        else s)

/-- R196, R197: a store has been performed. -/
def execStorePerformed (op : Nat) (s : State) : Out :=
  match kget s.ops op with
  | none => event s
  | some o =>
    if !o.kind.isStore then event s
    else
      match o.dest, o.fault with
      | .remote peer rop elem raw, k =>
        event (if o.performed || k.isSome then (s.replyPackage o peer rop elem raw).dropOp op else s)
      | .copy job seg, k => event (if o.performed || k.isSome then (s.copyArrived job seg o).dropOp op else s)
      | _, some k => event (if (s.frameOf o.core o.task).isNone && !s.ownerSaved o then s.reportGone op o k else s)
      | _, none => event (if !s.ownerSaved o && o.performed && !s.replyOut op && !s.vecPending op o then (s.lowerFor o).dropOp op else s)

/-- R200: a handler that has not ended 4,096 cycles after it started is discarded. -/
def execAhndTimeout (op : Nat) (s : State) : Out :=
  match kget s.ops op with
  | none => event s
  | some o =>
    match o.handler, s.coreRunning (.userAtomic op) with
    | some start, some k => event (if start + 4096 ≤ s.cycle then s.discard k failedTimeout 0 0#64 0#64 else s)
    | _, _ => event s

/-! The host's answers (14 R388). -/

/-- A completion of a request to host memory: Unsupported Request and Completer Abort are a home-side PERM. -/
def execPcieCompletion (op elem : Nat) (data : List Byte) (ok : Bool) (s : State) : Out :=
  match kget s.ops op with
  | none => event s
  | some o =>
    match o.elems.find? (fun e => e.ix == elem) with
    | none => event s
    | some e =>
      match e.loc with
      | .global 4 _ _ =>
        event (if e.asked && !e.done && o.fault.isNone then
          (if ok then s.answered op elem (leValue (data.take e.size)) else s.homeFault op elem .perm)
        else s)
      | _ => event s

/-- No completion within the function's time: a home-side ABSENT. -/
def execPcieCompletionTimeout (op elem : Nat) (s : State) : Out :=
  match kget s.ops op with
  | none => event s
  | some o =>
    match o.elems.find? (fun e => e.ix == elem) with
    | none => event s
    | some e =>
      match e.loc with
      | .global 4 _ _ => event (if e.asked && !e.done && o.fault.isNone then s.homeFault op elem .absent else s)
      | _ => event s

end Sys2Proof.Machine
end

