-- ==== Sys2Proof/Machine/Tasks.lean ====
section
/-! DEFINITION. Claims, release events, timers, identities and `spawn` (spec 07 R203 to R210, R212; 09 R256 to R258), and the push of
admitted events (09 R249 to R254, R412). -/

namespace Sys2Proof.Machine

/-! Claims (R203). -/

def ceilOf (c : Core) (r : Nat) : Nat := c.ceil.getD r 0

def execClaim (w : Bundle) (s : State) : Out :=
  bundle .claim w s (fun c s =>
    let r := (immJ w).toNat
    let cl := ceilOf (s.core c.core) r
    if cl < c.f.level ∨ c.f.claims.any (fun x => x.res == r) = true then s.exact c.core .claim (BitVec.ofNat 64 r)
    else
      (s.modTop c.core (fun f => { f with claims := { res := r, thr := f.thr } :: f.claims, thr := max f.thr cl })).advance c)

def execRelease (w : Bundle) (s : State) : Out :=
  bundle .release w s (fun c s =>
    let r := (immJ w).toNat
    match c.f.claims with
    | x :: rest =>
      if x.res = r then (s.modTop c.core (fun f => { f with claims := rest, thr := x.thr })).advance c
      else s.exact c.core .claim (BitVec.ofNat 64 r)
    | [] => s.exact c.core .claim (BitVec.ofNat 64 r))

/-! Control words (R205). -/

/-- A control word taken apart. -/
structure CtlWord where
  target : Target
  cls : Nat
  level : Nat
  space : Nat
  deriving DecidableEq, Repr

def State.ctlWord (s : State) (v : Word) : CtlWord :=
  { target := { core := coreKey (field v 31 30) (field v 11 0), pkg := if v.getLsbD 29 then s.pkg else field v 21 12,
                gov := v.getLsbD 32 },
    cls := field v 25 22, level := field v 28 26, space := field v 31 30 }

/-- Whether the target of a control word exists; `gov` counts where the instruction uses it. -/
def CtlWord.ok (w : CtlWord) (gov : Bool) : Bool :=
  w.level != 7 && w.space != 3 && coreExists w.target.core && !(gov && w.target.gov && w.space != 0)

/-- Whether a compute target of this package lies outside the tenant's sub-mesh (R205, R215). -/
def State.outsideMesh (s : State) (ltag : Nat) (t : Target) : Bool :=
  t.pkg == s.pkg && isCompute t.core && !s.inMesh (s.tenantOf ltag) (tileOf t.core)

/-- The checks of `succ` and `relev`, and the descriptor they name. -/
def State.withDescr (s : State) (c : Ctx) (k : Descr → State → State) : State :=
  let v := c.xb
  let w := s.ctlWord v
  if !w.ok true then s.exact c.core .illegal 0#64
  else if s.outsideMesh c.f.ltag w.target then s.exact c.core .tenant v
  else k { handler := c.xa, target := w.target, level := w.level, args := c.f.xRange (fieldC c.w) 4 } s

/-- R207: the descriptor stands pending, in place of any other. -/
def execSucc (w : Bundle) (s : State) : Out :=
  bundle .succ w s (fun c s => s.withDescr c (fun d s => (s.modTop c.core (fun f => { f with pending := some d })).advance c))

/-- R208. -/
def execRelev (w : Bundle) (s : State) : Out :=
  bundle .relev w s (fun c s =>
    s.withDescr c (fun d s => s.beforeRelease c 2 [] (fun s => (s.release c.core c.f.ltag c.f.item d (s.unperformed c.core)).advance c)))

/-! Timers (R210). -/

/-- The lowest timer of a core that is not armed. -/
def Core.freeTimer (c : Core) : Option Nat := firstBelow (fun i => (kget c.timers i).isNone) 8

def State.armTimer (s : State) (c : Ctx) (d : Descr) (i : Nat) : State :=
  let v := c.xb.toNat
  let deadline := if modOpt c.w % 2 = 1 then (s.time + v) % 2 ^ 64 else v
  let arms := (s.core c.core).timerArms + 1
  let h := BitVec.ofNat 64 (arms * 256 + i)
  let t : Timer :=
    { deadline := deadline, handle := h, descr := d, item := c.f.item, ltag := c.f.ltag, after := s.unperformed c.core }
  let s := s.modCore c.core (fun k => { k with timerArms := arms, timers := kset k.timers i t })
  (s.takePending c.core).2.writeX c (fieldA c.w) h

def State.cancelTimer (s : State) (c : Ctx) : State :=
  let i := c.xb.toNat % 8
  match kget (s.core c.core).timers i with
  | some t =>
    if t.handle = c.xb then
      (s.modCore c.core (fun k => { k with timers := kdel k.timers i })).writeX c (fieldA c.w) 1#64
    else s.writeX c (fieldA c.w) 0#64
  | none => s.writeX c (fieldA c.w) 0#64

def execTmr (w : Bundle) (s : State) : Out :=
  bundle .tmr w s (fun c s =>
    if modOpt w / 2 % 2 = 1 then s.cancelTimer c
    else
      match c.f.pending with
      | none => s.exact c.core .illegal 0#64
      | some d =>
        match (s.core c.core).freeTimer with
        | none => s
        | some i => s.beforeRelease c 2 [] (fun s => s.armTimer c d i))

/-- R210: a timer releases its descriptor at the first tick at or after its deadline. -/
def execTimerExpiry (core timer : Nat) (s : State) : Out :=
  match kget (s.core core).timers timer with
  | some t =>
    event (if t.deadline ≤ s.time ∧ s.stilled core = false ∧ s.parked t.ltag = false then
      (s.modCore core (fun c => { c with timers := kdel c.timers timer })).release core t.ltag t.item t.descr t.after
    else s)
  | none => event s

/-! Identities (R212). -/

/-- A new item identity of a die. -/
def State.newItem (s : State) (die tag : Nat) : Word × State :=
  let n := (s.die die).idCount
  (BitVec.ofNat 64 (tag * 2 ^ 48 + die * 2 ^ 45 + n), s.modDie die (fun d => { d with idCount := (n + 1) % 2 ^ 45 }))

/-- The die whose Governor serves a core; keeper and gateway cores use the home die of their launch (log entry 12). -/
def State.govDie (s : State) (core ltag : Nat) : Nat :=
  if isCompute core then dieOf core else ((s.ctx ltag).map (·.homeDie)).getD 0

def execGetid (w : Bundle) (s : State) : Out :=
  bundle .getid w s (fun c s =>
    let r := s.newItem (s.govDie c.core c.f.ltag) c.f.ltag
    r.2.writeX c (fieldA w) r.1)

/-! `spawn` (R209, 09 R261, R264). -/

/-- Word i of a record. -/
def recWord (bytes : List Byte) (i : Nat) : Word := BitVec.ofNat 64 (leValue ((bytes.drop (8 * i)).take 8))

/-- A range of a record, when its length is not 0. -/
def recRange (bytes : List Byte) (i : Nat) : Option Range :=
  if recWord bytes (i + 1) = 0#64 then none else some { base := (recWord bytes i).toNat, len := (recWord bytes (i + 1)).toNat }

/-- The fields that a record may not have (R209 step 2). -/
def spawnBad (bytes : List Byte) : Bool :=
  let beyond (r : Option Range) : Bool := match r with | some r => decide (2 ^ 57 < r.base + r.len) | none => false
  field (recWord bytes 1) 2 0 == 7 || (recWord bytes 0).getLsbD 0 || beyond (recRange bytes 3) || beyond (recRange bytes 5)

/-- The dies that hold a tile of a tenant's sub-mesh. -/
def State.dieInMesh (s : State) (tenant die : Nat) : Bool := (List.range 64).any (fun i => s.inMesh tenant (64 * die + i))

/-- How many ranges a die's matcher holds. -/
def Die.rangeCount (d : Die) : Nat :=
  (d.ranges.map (fun r => (if r.rd.len = 0 then 0 else 1) + (if r.wr.len = 0 then 0 else 1))).foldl (· + ·) 0

def State.spawnRecord (s : State) (c : Ctx) (bytes : List Byte) : State :=
  let d := dieOf c.core
  let rd := (recRange bytes 3).getD { base := 0, len := 0 }
  let wr := (recRange bytes 5).getD { base := 0, len := 0 }
  let need := (if rd.len = 0 then 0 else 1) + (if wr.len = 0 then 0 else 1)
  if 4096 ≤ (s.die d).ready.length ∨ 2048 < (s.die d).rangeCount + need then s
  else
    let id := s.fresh.1
    let s := s.fresh.2
    let ev : REvent :=
      { kind := .task, handler := recWord bytes 0, level := field (recWord bytes 1) 2 0,
        args := (List.range 4).map (fun i => recWord bytes (8 + i)), item := recWord bytes 2, src := s.sourceOf c.core, cls := none,
        ltag := c.f.ltag, gov := if need = 0 then none else some (d, id) }
    let g : GovRec :=
      { id := id, ev := ev, aff := field (recWord bytes 1) 5 4, affDie := field (recWord bytes 1) 10 8, planes := false,
        after := s.unperformed c.core }
    (s.modDie d (fun x =>
      { x with ready := x.ready ++ [g], ranges := if need = 0 then x.ranges else x.ranges ++ [{ id := id, ltag := c.f.ltag, rd := rd, wr := wr, spawner := c.core }] })).advance c

def execSpawn (w : Bundle) (s : State) : Out :=
  bundle .spawn w s (fun c s =>
    let a := c.xa
    if a.toNat % 16 ≠ 0 then s.exact c.core .misalign a
    else
      match s.readV c.core (s.tenantOf c.f.ltag) a 96 .load with
      | (.fault cause va, s) => s.exact c.core cause va
      | (.wait p n, s) => s.requestBytes c.core (s.tenantOf c.f.ltag) p n
      | (.busy, s) => s
      | (.ecc va, s) => s.eccRead c va
      | (.ok bytes, s) =>
        if spawnBad bytes then s.exact c.core .header a
        else if field (recWord bytes 1) 5 4 = 3 ∧ s.dieInMesh (s.tenantOf c.f.ltag) (field (recWord bytes 1) 10 8) = false then
          s.exact c.core .tenant (recWord bytes 1)
        else s.beforeRelease c 2 [] (fun s => s.spawnRecord c bytes))

/-! Pushes (09 R249 to R252). -/

/-- The frame kind of an event. -/
def frameKindOf : EvKind → FrameKind
  | .fixedAtomic op => .fixedAtomic op
  | .userAtomic op => .userAtomic op
  | .collective coll block => .collective coll block
  | _ => .task

/-- The arguments of an `ahnd` handler at its start (R200). -/
def State.ahndArgs (s : State) (o : MemOp) (arg : Nat) : List Word :=
  let e := o.elems.headD (Elem.new 0 (.array 0 0) 0 8 0)
  let old := match e.loc with | .global p h pa => leValue (s.readHome p h pa 8) | .array _ _ => 0
  let who := match o.dest with
    | .remote peer _ _ _ => keyId (o.core - 65536) + peer * 2 ^ 12 + keySpace (o.core - 65536) * 2 ^ 22
    | _ => keyId o.core + s.pkg * 2 ^ 12 + keySpace o.core * 2 ^ 22
  [BitVec.ofNat 64 e.va, BitVec.ofNat 64 arg, BitVec.ofNat 64 old, BitVec.ofNat 64 who]

/-- The offset at which the second operand of a block stands behind a first one of n bytes: a multiple of 16, as `baddq` asks (11 R333, R334). -/
def secondOperand (n : Nat) : Nat := ceilDiv n 16 * 16

/-- 11 R333: the two operands of a block stand in the frame scratch of its handler. -/
def State.loadOperands (s : State) (core coll block : Nat) : State :=
  match s.top core, (kget s.colls coll).map (fun c => kgetD c.parts block []) with
  | some f, some (p :: q :: _) =>
    s.modTile (scratchTile core) (fun t => { t with array := memSetBytes (memSetBytes t.array f.fsb (p.take f.fscr)) (f.fsb + secondOperand p.length) (q.take (f.fscr - secondOperand p.length)) })
  | _, _ => s

/-- An entry pushed: an `ahnd` handler gets its arguments and starts to hold its word (R200). -/
def State.pushEvent (s : State) (core : Nat) (e : REvent) : Bool × State :=
  match e.kind with
  | .userAtomic id =>
    match kget s.ops id with
    | some o =>
      match o.kind with
      | .atomic _ _ arg _ =>
        let r := s.push core (frameKindOf e.kind) { e with args := s.ahndArgs o arg } ExcRegs.none
        if r.1 then (true, r.2.modOp id (fun o => if o.fault.isSome then o else { o with handler := some s.cycle })) else r
      | _ => (true, s)
    | none => (true, s)
  | .collective coll block =>
    let r := s.push core (frameKindOf e.kind) e ExcRegs.none
    if r.1 then (true, r.2.loadOperands core coll block) else r
  | .fixedAtomic id => if (kget s.ops id).all (fun o => o.fault.isSome) then (true, s) else s.push core (frameKindOf e.kind) e ExcRegs.none
  | _ => s.push core (frameKindOf e.kind) e ExcRegs.none

/-- An event taken out of the inbox, the oldest equal one. -/
def Core.removeEvent (c : Core) (e : REvent) : Core := { c with inbox := c.inbox.erase e }

/-- The admission check of a core that has one due: whether a push was made. -/
def State.takeEvent (s : State) (core : Nat) : Bool × State :=
  match (s.core core).candidate with
  | none => (false, s)
  | some e =>
    if s.stilled core || s.parked e.ltag then (false, s)
    else
      match e.kind with
      | .package _ => (false, s)
      | _ =>
        let r := s.pushEvent core e
        if r.1 then (true, r.2.modCore core (fun c => c.removeEvent e)) else (false, r.2)

/-- R252: the admission check of a core, and a push when an entry passes it. Migration packages are entered by their own step. -/
def execFramePush (core : Nat) (s : State) : Out := event (s.takeEvent core).2

/-! Faults before a bundle (01 R23, R24; 05 R137; 07 R197; 15 R412, R414). -/

/-- Whether the pending migration of a frame waits for operations that have faulted (09 R270). -/
def State.drainFault (s : State) (core : Nat) (f : Frame) : Option Nat :=
  if f.mig.isSome then s.faultedOp core f.task (fun _ => true) else none

/-- The fault that a frame raises before its next bundle: that of its start, the earliest late fault, or a home-side fault that its migration
waits for; none when there is nothing to raise. -/
def State.raiseDue (s : State) (core : Nat) : Option State :=
  if s.stilled core then none
  else
  match s.top core with
  | none => none
  | some f =>
    match f.start with
    | some (cause, a) =>
      let s' := s.takeTrap core cause f.pc a 0
      some (if (s'.core core).frames.length = (s.core core).frames.length then s'
            else s'.modTask core f.task (fun g => { g with start := none }))
    | none =>
      match sortBy (fun (a b : LateFault) => decide (a.stamp < b.stamp)) f.late with
      | l :: _ => some (s.raiseLate core l)
      | [] =>
        match s.drainFault core f with
        | some id => some (s.raiseHome core id)
        | none => none

/-- R412: a fault that waits for its frame to be on top starts the trap handler. -/
def execTrapHandlerStart (core : Nat) (s : State) : Out := event ((s.raiseDue core).getD s)

end Sys2Proof.Machine
end

