-- ==== Sys2Proof/Machine/Barriers.lean ====
section
/-! DEFINITION. Barrier units (spec 07 R219 to R222; 09 R266 to R268). -/

namespace Sys2Proof.Machine

/-- The phase test of R222. -/
def phaseDone (phase p : Nat) : Bool := decide ((phase + 2 ^ 32 - p % 2 ^ 32) % 2 ^ 32 < 2 ^ 31)

/-- A member's lead. -/
def Barrier.lead (b : Barrier) (m : Nat) : Nat := kgetD b.leads m 0

/-- Whether a member is the only one with lead 0 (R267). -/
def Barrier.lastOf (b : Barrier) (m : Nat) : Bool := b.lead m == 0 && b.members.all (fun x => x == m || b.lead x != 0)

/-- One arrival (R267): none while the member's lead is 3; otherwise the unit after it, and whether a phase completed. -/
def Barrier.arrive (b : Barrier) (m : Nat) : Option (Barrier × Bool) :=
  if 3 ≤ b.lead m then none
  else if b.lastOf m then
    some ({ b with phase := (b.phase + 1) % 2 ^ 32,
                   leads := b.members.foldl (fun l x => kset l x (if x = m then 0 else b.lead x - 1)) [] }, true)
  else some ({ b with leads := kset b.leads m (b.lead m + 1) }, false)

/-- What a `bwait` successor acquires at a scope (10 R299): the accesses of the arrivals whose domain and its own hold one another. -/
def Barrier.handedTo (b : Barrier) (t : Target) (scope : Nat) : List Nat := (b.after.filter (fun r => r.reaches t.core scope)).flatMap (·.ops)

/-- A stored successor released by its unit (R222, R268): it starts after what its `bwait` and the arrivals released. -/
def State.releaseWaiter (s : State) (b : Barrier) (w : BWaiter) : State :=
  s.raise (coreKey w.ev.src.space w.ev.src.core) w.ev w.target (w.after ++ b.handedTo w.target w.scope)

/-- The successors that the completed phases satisfy leave the store, in the order stored; those that waited for a place enter it. -/
def State.releaseDue (s : State) (die unit : Nat) : State :=
  match kget (s.die die).barriers unit with
  | none => s
  | some b =>
    let all := b.store ++ b.overflow
    let due := all.filter (fun w => phaseDone b.phase w.phase)
    let rest := all.filter (fun w => !phaseDone b.phase w.phase)
    let s := due.foldl (fun s w => s.releaseWaiter b w) s
    s.modDie die (fun d => { d with barriers := kset d.barriers unit { b with store := rest.take 64, overflow := rest.drop 64 } })

/-- What an arrival at a unit gives. -/
inductive Arrival where
  | counted (s : State)
  | stall
  | perm
  | absent
  deriving DecidableEq, Repr

/-- R220, R267: an arrival of a member at a unit of a launch, with the release of one that releases. -/
def State.arriveAt (s : State) (die unit member ltag : Nat) (rel : List Rel) : Arrival :=
  match kget (s.die die).barriers unit with
  | none => .absent
  | some b =>
    if b.ltag ≠ ltag then .absent
    else if !b.members.contains member then .perm
    else
      match b.arrive member with
      | none => .stall
      | some (b', complete) =>
        let keep := b.after.filter (fun r => !s.afterDone r.ops)
        let s := s.modDie die (fun d => { d with barriers := kset d.barriers unit { b' with after := keep ++ rel } })
        .counted (if complete then s.releaseDue die unit else s)

/-- The unit that an immediate names (R219): its die and number. -/
def namedUnit (core v : Nat) : Nat × Nat := (if bitOf v 11 then bitsOf v 10 8 else dieOf core, v % 256)

/-- The router of a die where messages for its units leave the network: that of its first tile in the tenant's sub-mesh. -/
def State.unitTile (s : State) (tenant die : Nat) : Nat :=
  64 * die + (firstBelow (fun i => s.inMesh tenant (64 * die + i)) 64).getD 0

/-- The message of an arrival at another die's unit (11 R320 kind 8). -/
def State.sendArrival (s : State) (c : Ctx) (die unit : Nat) (rel : Bool) (after : List Nat) : State :=
  let tenant := s.tenantOf c.f.ltag
  let m : Msg :=
    { kind := 8, dpkg := s.pkg, dcore := 8 * s.unitTile tenant die, dspace := 0, src := s.sourceOf c.core, tenant := tenant, cls := 0,
      level := c.f.level, ordered := false, pseq := 0, rel := rel, scope := c.w.qual.scope.toNat, gov := false,
      words := [BitVec.ofNat 64 (unit + 256 * die), BitVec.ofNat 64 c.core, BitVec.ofNat 64 c.f.task], endw := false, ltag := c.f.ltag,
      handler := 0#64, item := c.f.item, ev := .task, rangeOf := none, after := after }
  (s.inject (sourceRouter c.core (8 * s.unitTile tenant die)) m 0 (s.memPref c.f.ltag)).modTop c.core (fun f => { f with arrive := 1 })

/-- The progress of an `arrive` at another die's unit recorded in its frame (the model's own, log entry 1): 5, 6 and 7 stand for an
acknowledgement on its way that says counted, PERM or ABSENT, and 2, 3 and 4 for one that has come. -/
def State.setArrive (s : State) (core task n : Nat) : State :=
  s.modTask core task (fun f => if f.arrive = 1 then { f with arrive := n } else f)

def execArrive (w : Bundle) (s : State) : Out :=
  bundle .arrive w s (fun c s =>
    let u := namedUnit c.core (rawJ w)
    let rel := decide (2 ≤ c.ord)
    let after := if rel then s.unperformed c.core else []
    let clear (s : State) : State := s.modTop c.core (fun f => { f with arrive := 0 })
    if isCompute c.core && u.1 == dieOf c.core then
      s.beforeRelease c c.ord [] (fun s =>
        match s.arriveAt u.1 u.2 c.core c.f.ltag (if rel then [{ core := c.core, scope := c.w.qual.scope.toNat, ops := after }] else []) with
        | .counted s => s.advance c
        | .stall => s
        | .perm => s.exact c.core .perm 0#64
        | .absent => s.exact c.core .absent (BitVec.ofNat 64 u.2))
    else
      match c.f.arrive with
      | 0 => s.beforeRelease c c.ord [] (fun s => s.sendArrival c u.1 u.2 rel after)
      | 2 => (clear s).advance c
      | 3 => (clear s).exact c.core .perm 0#64
      | 4 => (clear s).exact c.core .absent (BitVec.ofNat 64 u.2)
      | _ => s)

/-- R222: the pending descriptor is stored at the unit, or released when its phase has completed; one that finds no place waits for
one (R268). DESIGN CHOICE: the ABSENT of a unit that is not allocated comes before the ILLEGAL of no pending descriptor (log entry 7). -/
def execBwait (w : Bundle) (s : State) : Out :=
  bundle .bwait w s (fun c s =>
    let u := namedUnit c.core (imxValue w * 32 + w.b.toNat)
    match kget (s.die u.1).barriers u.2 with
    | none => s.exact c.core .absent (BitVec.ofNat 64 u.2)
    | some b =>
      if b.ltag ≠ c.f.ltag then s.exact c.core .absent (BitVec.ofNat 64 u.2)
      else
        match c.f.pending with
        | none => s.exact c.core .illegal 0#64
        | some d =>
          let ev : REvent :=
            { kind := .task, handler := d.handler, level := d.level, args := d.args, item := c.f.item, src := s.sourceOf c.core,
              cls := none, ltag := c.f.ltag, gov := none }
          let wtr : BWaiter := { phase := c.xa.toNat % 2 ^ 32, ev := ev, target := d.target, scope := c.w.qual.scope.toNat, after := s.unperformed c.core }
          s.beforeRelease c 2 [] (fun s =>
            let s := (s.takePending c.core).2
            if phaseDone b.phase wtr.phase then
              (s.releaseWaiter b wtr).advance c
            else
              let b := if b.store.length < 64 then { b with store := b.store ++ [wtr] } else { b with overflow := b.overflow ++ [wtr] }
              (s.modDie u.1 (fun x => { x with barriers := kset x.barriers u.2 b })).advance c))

/-- An arrival message at its unit's die, of a running context: none while the arrival has to wait. -/
def State.arrivalMessage (s : State) (m : Msg) : Option State :=
  let u := (m.words.getD 0 0#64).toNat
  let core := (m.words.getD 1 0#64).toNat
  let task := (m.words.getD 2 0#64).toNat
  let answer (s : State) (n : Nat) : State := (s.setArrive core task n).sendInternal 7 (msgTarget m) core 0 m.ltag (.token task)
  if (s.die (u / 256)).inReset then some (answer s 7)
  else
    match s.arriveAt (u / 256) (u % 256) core m.ltag (if m.rel then [{ core := core, scope := m.scope, ops := m.after }] else []) with
    | .counted s => some (answer s 5)
    | .stall => none
    | .perm => some (answer s 6)
    | .absent => some (answer s 7)

/-- R220: the unit's acknowledgement reaches the core. -/
def execArrivalAcknowledgement (core : Nat) (s : State) : Out :=
  event (s.modCore core (fun c =>
    { c with frames := c.frames.map (fun f =>
        if 5 ≤ f.arrive && !s.underWay 7 (.token f.task) then { f with arrive := f.arrive - 3 } else f) }))

end Sys2Proof.Machine
end

