-- ==== Sys2Proof/Machine/Hash.lean ====
section
/-! DEFINITION. SHA-256, and the verification of an LMS signature, as 16 R428 names them (log entry 29: the functions are those of the
standards FIPS 180-4 and RFC 8554, which the spec names by their parameter sets). -/

namespace Sys2Proof.Machine

/-- The bytes of a number, most significant first. -/
def beBytes (v n : Nat) : List Byte := (List.range n).map (fun i => BitVec.ofNat 8 (v / 256 ^ (n - 1 - i)))
def beValue (b : List Byte) : Nat := b.foldl (fun v x => 256 * v + x.toNat) 0

/-! SHA-256. -/

def shaConstants : List (BitVec 32) :=
  [0x428a2f98#32, 0x71374491#32, 0xb5c0fbcf#32, 0xe9b5dba5#32, 0x3956c25b#32, 0x59f111f1#32, 0x923f82a4#32, 0xab1c5ed5#32,
   0xd807aa98#32, 0x12835b01#32, 0x243185be#32, 0x550c7dc3#32, 0x72be5d74#32, 0x80deb1fe#32, 0x9bdc06a7#32, 0xc19bf174#32] ++
  [0xe49b69c1#32, 0xefbe4786#32, 0x0fc19dc6#32, 0x240ca1cc#32, 0x2de92c6f#32, 0x4a7484aa#32, 0x5cb0a9dc#32, 0x76f988da#32,
   0x983e5152#32, 0xa831c66d#32, 0xb00327c8#32, 0xbf597fc7#32, 0xc6e00bf3#32, 0xd5a79147#32, 0x06ca6351#32, 0x14292967#32] ++
  [0x27b70a85#32, 0x2e1b2138#32, 0x4d2c6dfc#32, 0x53380d13#32, 0x650a7354#32, 0x766a0abb#32, 0x81c2c92e#32, 0x92722c85#32,
   0xa2bfe8a1#32, 0xa81a664b#32, 0xc24b8b70#32, 0xc76c51a3#32, 0xd192e819#32, 0xd6990624#32, 0xf40e3585#32, 0x106aa070#32] ++
  [0x19a4c116#32, 0x1e376c08#32, 0x2748774c#32, 0x34b0bcb5#32, 0x391c0cb3#32, 0x4ed8aa4a#32, 0x5b9cca4f#32, 0x682e6ff3#32,
   0x748f82ee#32, 0x78a5636f#32, 0x84c87814#32, 0x8cc70208#32, 0x90befffa#32, 0xa4506ceb#32, 0xbef9a3f7#32, 0xc67178f2#32]

def shaStart : List (BitVec 32) :=
  [0x6a09e667#32, 0xbb67ae85#32, 0x3c6ef372#32, 0xa54ff53a#32, 0x510e527f#32, 0x9b05688c#32, 0x1f83d9ab#32, 0x5be0cd19#32]

/-- One round; `w` is the schedule from this round's word on, 16 words of it. -/
def shaRound (x : List (BitVec 32) × List (BitVec 32)) (k : BitVec 32) : List (BitVec 32) × List (BitVec 32) :=
  match x with
  | ([a, b, c, d, e, f, g, h], w) =>
    let at1 (i : Nat) : BitVec 32 := w.getD i 0#32
    let t1 := h + (e.rotateRight 6 ^^^ e.rotateRight 11 ^^^ e.rotateRight 25) + ((e &&& f) ^^^ (~~~e &&& g)) + k + at1 0
    let t2 := (a.rotateRight 2 ^^^ a.rotateRight 13 ^^^ a.rotateRight 22) + ((a &&& b) ^^^ (a &&& c) ^^^ (b &&& c))
    let low := (at1 1).rotateRight 7 ^^^ (at1 1).rotateRight 18 ^^^ (at1 1 >>> 3)
    let high := (at1 14).rotateRight 17 ^^^ (at1 14).rotateRight 19 ^^^ (at1 14 >>> 10)
    ([t1 + t2, a, b, c, d + t1, e, f, g], w.drop 1 ++ [high + at1 9 + low + at1 0])
  | x => x

/-- A block of 16 words taken into the hash. -/
def shaBlock (hash block : List (BitVec 32)) : List (BitVec 32) :=
  List.zipWith (· + ·) hash (shaConstants.foldl shaRound (hash, block)).1

def shaBlocks : Nat → List (BitVec 32) → List (BitVec 32) → List (BitVec 32)
  | 0, hash, _ => hash
  | n + 1, hash, words => shaBlocks n (shaBlock hash (words.take 16)) (words.drop 16)

def beWords : Nat → List Byte → List (BitVec 32)
  | 0, _ => []
  | n + 1, b => BitVec.ofNat 32 (beValue (b.take 4)) :: beWords n (b.drop 4)

/-- SHA-256 of a message, its first byte the most significant. -/
def sha256 (m : List Byte) : BitVec 256 :=
  let blocks := (m.length + 8) / 64 + 1
  let padded := m ++ [0x80#8] ++ List.replicate (64 * blocks - m.length - 9) 0#8 ++ beBytes (8 * m.length) 8
  BitVec.ofNat 256 ((shaBlocks blocks shaStart (beWords (16 * blocks) padded)).foldl (fun v w => 2 ^ 32 * v + w.toNat) 0)

/-- A digest as bytes. -/
def digestBytes (d : BitVec 256) : List Byte := beBytes d.toNat 32

/-! LMS_SHA256_M32_H15 with LMOTS_SHA256_N32_W8. -/

def shaBytes (m : List Byte) : List Byte := digestBytes (sha256 m)

/-- What is hashed along a chain: from step j on, n steps. -/
def otsChain (ident : List Byte) (i : Nat) : Nat → Nat → List Byte → List Byte
  | 0, _, y => y
  | n + 1, j, y => otsChain ident i n (j + 1) (shaBytes (ident ++ beBytes i 2 ++ beBytes j 1 ++ y))

/-- The path from a leaf to the root. -/
def treeRoot (ident : List Byte) : List (List Byte) → Nat → List Byte → List Byte
  | [], _, t => t
  | p :: path, node, t =>
    treeRoot ident path (node / 2) (shaBytes (ident ++ beBytes (node / 2) 4 ++ beBytes 0x8383 2 ++ (if node % 2 = 1 then p ++ t else t ++ p)))

/-- Whether a signature of a message verifies under a public key (16 R428). -/
def lmsVerify (key message sig : List Byte) : Bool :=
  let piece (b : List Byte) (at1 n : Nat) : List Byte := (b.drop at1).take n
  let ident := piece key 8 16
  let q := beValue (piece sig 0 4)
  let leaf := ident ++ beBytes q 4
  let hash := shaBytes (leaf ++ beBytes 0x8181 2 ++ piece sig 8 32 ++ message)
  let digits := hash ++ beBytes ((hash.map (fun d => 255 - d.toNat)).foldl (· + ·) 0) 2
  let ends := (List.range 34).flatMap (fun i =>
    let a := (digits.getD i 0#8).toNat
    otsChain leaf i (255 - a) a (piece sig (40 + 32 * i) 32))
  let node := 2 ^ 15 + q
  let start := shaBytes (ident ++ beBytes node 4 ++ beBytes 0x8282 2 ++ shaBytes (leaf ++ beBytes 0x8080 2 ++ ends))
  decide (beValue (piece key 0 4) = 7) && decide (beValue (piece key 4 4) = 4) && decide (key.length = 56) && decide (sig.length = 1612) &&
    decide (beValue (piece sig 4 4) = 4) && decide (beValue (piece sig 1128 4) = 7) && decide (q < 2 ^ 15) &&
    treeRoot ident ((List.range 15).map (fun i => piece sig (1132 + 32 * i) 32)) node start == piece key 24 32

end Sys2Proof.Machine
end

