-- ==== Sys2Proof/Machine/MatrixAlu.lean ====
section
/-! DEFINITION. The arithmetic of the matrix engine and of rank streams (spec 02 R62 to R67, R73 to R75; 06 R166, R182, R183). -/

namespace Sys2Proof.Machine

/-! Formats of R35. -/

/-- The element format of a floating format code (R35, R59). -/
def fmtOfCode : Nat → FFmt
  | 1 => .f16 | 2 => .f32 | 3 => .f64 | 4 => .e4m3 | 5 => .e5m2 | 6 => .e2m1 | 7 => .e4m3 | 8 => .e2m1 | _ => .bf16

/-- Bits of an element of a format code. -/
def codeBits : Nat → Nat
  | 0 => 16 | 1 => 16 | 2 => 32 | 3 => 64 | 6 => 4 | 8 => 4 | 12 => 32 | _ => 8

/-- Microscaling formats. -/
def isMx (code : Nat) : Bool := code == 7 || code == 8

/-- The flags that matrix and rank bundles raise (R56). -/
def matFlags (f : Flags) : Flags := f &&& (flNV ||| flOF ||| flSA)

/-- The bytes of n elements. -/
def tensorBytes (code n : Nat) : Nat := ceilDiv (codeBits code * n) 8

/-- Element i of packed bytes; E2M1 elements pair within a byte (R50). -/
def packedElem (bytes : List Byte) (code i : Nat) : Nat :=
  match codeBits code with
  | 4 => bitsOf ((bytes.getD (i / 2) 0#8).toNat) (4 * (i % 2) + 3) (4 * (i % 2))
  | b => leValue ((bytes.drop (b / 8 * i)).take (b / 8))

/-- Elements packed into bytes. -/
def packElems (code : Nat) (l : List Nat) : List Byte :=
  match codeBits code with
  | 4 => (List.range ((l.length + 1) / 2)).map (fun i => BitVec.ofNat 8 (l.getD (2 * i) 0 % 16 + 16 * (l.getD (2 * i + 1) 0 % 16)))
  | b => l.flatMap (fun v => leBytes v (b / 8))

/-! Planes (R160, R174). -/

/-- An element of a plane, its block scale included (R59). -/
def Plane.num (p : Plane) (k n : Nat) : Num :=
  let x := decodeF (fmtOfCode p.fmt) (kgetD p.w (64 * k + n) 0)
  if isMx p.fmt then mxNum x (kgetD p.scales (4 * n + k / 32) 0) else x

/-- An integer element: INT8, unsigned 8-bit, or the reconstructed value of BPN (R62, R63). -/
def Plane.int (p : Plane) (k n : Nat) : Int :=
  let v := kgetD p.w (64 * k + n) 0
  match p.fmt with
  | 9 => sextNat v p.q * 2 ^ (8 - p.q) + (if p.cent && decide (p.q ≤ 7) then 2 ^ (7 - p.q) else 0)
  | 10 => sextNat v 8
  | _ => (v : Int)

/-- An activation element. -/
def actNum (code elem scale : Nat) : Num :=
  let x := decodeF (fmtOfCode code) elem
  if isMx code then mxNum x scale else x

def actInt (code elem : Nat) : Int := if code = 10 then sextNat elem 8 else (elem : Int)

/-! Sums (R73 to R75). -/

/-- The exact sum of a chunk of products, with the special values of R74. -/
def chunkSum (ps : List Num) : Num :=
  let pinf := ps.any (fun x => match x with | .inf false => true | _ => false)
  let ninf := ps.any (fun x => match x with | .inf true => true | _ => false)
  let nans := ps.any Num.isNan
  let snan := ps.any (fun x => match x with | .nan true => true | _ => false)
  if nans || (pinf && ninf) then .nan (snan || (pinf && ninf))
  else
    match ps with
    | [] => zeroNum false
    | p :: rest => rest.foldl (addNum false) p

/-- acc := round(acc + round(s)) (R73). -/
def accStep (f : FFmt) (acc : Nat × Flags) (s : Num) : Nat × Flags :=
  let t := roundF f rneCtl s
  let r := roundF f rneCtl (addNum false (decodeF f acc.1) (decodeF f t.1))
  (r.1, acc.2 ||| matFlags (t.2 ||| r.2))

/-- The chunks of n products of a column, in order. -/
def columnChunks (total chunk : Nat) (acts : List Num) (w : Nat → Num) : List Num :=
  (List.range (total / chunk)).map (fun c =>
    chunkSum ((List.range chunk).map (fun i => mulNum (acts.getD (chunk * c + i) (zeroNum false)) (w (chunk * c + i)))))

/-- A float tile operation (R73): 64 new accumulator codes with their flags. -/
def tileOpF (f : FFmt) (total chunk : Nat) (p : Plane) (acts : List Num) (old : List Nat) : List (Nat × Flags) :=
  (List.range 64).map (fun n => (columnChunks total chunk acts (fun k => p.num k n)).foldl (accStep f) (old.getD n 0, flNone))

/-- sat(v) to INT32, with sa when it changes the value (R75, R183). -/
def sat32 (v : Int) : Nat × Flags :=
  let r := satInt v (-(2 ^ 31 : Int)) (2 ^ 31 - 1)
  (wrapInt r 32, if r = v then flNone else flSA)

/-- An integer tile operation (R75). -/
def tileOpI (p : Plane) (acts : List Int) (old : List Nat) : List (Nat × Flags) :=
  (List.range 64).map (fun n =>
    let s := ((List.range 128).map (fun k => acts.getD k 0 * p.int k n)).foldl (· + ·) 0
    sat32 (sextNat (old.getD n 0) 32 + s))

/-- acc + s of `macs` and `msac` (R183) in an accumulator format code. -/
def accAdd (code a b : Nat) : Nat × Flags :=
  if code = 12 then sat32 (sextNat a 32 + sextNat b 32)
  else
    let f := fmtOfCode code
    let r := roundF f rneCtl (addNum false (decodeF f a) (decodeF f b))
    (r.1, matFlags r.2)

/-! Rank streams (R64 to R67). -/

/-- A rank record taken apart. -/
structure RankRec where
  gain : Nat
  k : Nat
  lgn : Nat
  tab : Nat
  gained : Bool
  idx : List Nat
  deriving DecidableEq, Repr

/-- The record whose bytes start a list. -/
def parseRank (bytes : List Byte) : RankRec :=
  let h := leValue (bytes.take 4)
  let k := bitsOf h 23 16
  { gain := bitsOf h 31 24, k := k, lgn := bitsOf h 15 8, tab := bitsOf h 7 4, gained := bitOf h 0,
    idx := ((bytes.drop 4).take k).map (·.toNat) }

/-- The bytes of a record with k indices, padding included. -/
def rankBytes (k : Nat) : Nat := roundUp (4 + k) 4

/-- R64: the checks a consumer makes. -/
def RankRec.ok (r : RankRec) : Bool :=
  decide (4 ≤ r.lgn) && decide (r.lgn ≤ 8) && decide (r.k ≤ min (2 ^ r.lgn) 255) && r.idx.all (fun i => decide (i < 2 ^ r.lgn))

/-- f of R66. -/
def RankRec.scale (r : RankRec) (x : Num) : Num := if r.gained then scaleNum x ((r.gain : Int) - 127) else x

/-- The bytes of a record. -/
def RankRec.bytes (r : RankRec) : List Byte :=
  let h := r.gain * 2 ^ 24 + r.k * 2 ^ 16 + r.lgn * 2 ^ 8 + r.tab * 2 ^ 4 + (if r.gained then 1 else 0)
  let l := leBytes h 4 ++ r.idx.map (BitVec.ofNat 8)
  l ++ List.replicate (rankBytes r.k - l.length) 0#8

/-- R65: whether a value of the Bolter comes before another. -/
def bolterBefore (a b : Nat × Num) : Bool := !a.2.isNan && (b.2.isNan || ltNum b.2 a.2)

/-- R65: the gain of a group. -/
def bolterGain (xs : List Num) (asked : Bool) : Nat :=
  if xs.any Num.isNan then 255
  else if !asked then 0
  else
    match maxAbs xs with
    | .inf _ => 254
    | .fin _ m e _ => if m = 0 then 0 else (satInt (floorLog2 m e + 127) 0 254).toNat
    | .nan _ => 255

/-- R65: the record of a group. -/
def bolter (xs : List Num) (k lgn tab : Nat) (asked : Bool) : RankRec :=
  let order := sortBy bolterBefore ((List.range xs.length).zip xs)
  { gain := bolterGain xs asked, k := k, lgn := lgn, tab := tab, gained := asked, idx := (order.take k).map (·.1) }

/-- R66: a column of an accumulator row after a record. `a` is the table, `w` the column of the 256 rows of W. -/
def rankColumn (r : RankRec) (kk : Nat) (a w : Nat → Num) (acc : Nat) : Nat × Flags :=
  if r.gain = 255 then (FFmt.f32.nanCode, flNV)
  else
    let terms := (List.range kk).map (fun i => mulNum (r.scale (a i)) (w (r.idx.getD i 0)))
    (chunksOf 16 terms 16).foldl (fun s c => accStep .f32 s (chunkSum c)) (acc, flNone)

/-- R67 step 1: the exact value of element i; `tail` is the table's tail entry. -/
def rankElem (r : RankRec) (a : Nat → Num) (tail : Num) (i : Nat) : Num :=
  match ((List.range r.k).reverse).find? (fun j => r.idx.getD j 256 == i) with
  | some j => r.scale (a j)
  | none => tail

/-- R67: a dense group in a format, with its flags and the stochastic state after it. -/
def rankDense (r : RankRec) (a : Nat → Num) (tail : Num) (f : FFmt) (c : RoundCtl) (sr : Bool) (srst : Nat) : List Nat × Flags × Nat :=
  let n := 2 ^ r.lgn
  if r.gain = 255 then
    let out := roundList f c sr srst (List.replicate n (.nan false))
    (out.1, flNV, out.2.2)
  else
    let out := roundList f c sr srst ((List.range n).map (rankElem r a tail))
    (out.1, matFlags out.2.1, out.2.2)

end Sys2Proof.Machine
end

