-- ==== Sys2Proof/Machine/CopyAlu.lean ====
section
/-! DEFINITION. What a copy does to its data (spec 11 R311 to R315; 07 R225, R228): shapes, conversion, layout programs. -/

namespace Sys2Proof.Machine

/-! Shapes (R312). -/

/-- The bytes of a row: elements, and the block scales of an MX format. -/
def copyRowBytes (code cols : Nat) : Nat := tensorBytes code cols + (if isMx code then ceilDiv cols 32 else 0)

/-! Layout programs (R313, R314). -/

def opCode (w : Word) : Nat := field w 3 0

/-- The checks that `lxload` makes of the operation words. -/
def programOk (ops : List Word) : Bool :=
  let n := ops.length
  ops.all (fun w => decide (opCode w ≤ 6)) &&
    ops.all (fun w => (opCode w != 1 || field w 23 4 != 0) && (opCode w != 3 || field w 6 4 != 7)) &&
    (List.range n).all (fun i =>
      let c := opCode (ops.getD i 0#64)
      ((c != 1 && c != 6) || i == 0) && (c != 5 || i + 1 == n)) &&
    decide ((ops.filter (fun w => opCode w == 3)).length ≤ 1) &&
    !(ops.any (fun w => opCode w == 3) && ops.any (fun w => opCode w == 5))

/-- The plane count of PSPLIT and PJOIN. -/
def opPlanes (w : Word) : Nat := if field w 27 24 = 0 then 8 else field w 27 24

/-- The shape of the array after an operation. -/
def shapeAfter (sh : Nat × Nat) (w : Word) : Nat × Nat :=
  match opCode w with
  | 2 => (sh.2, sh.1)
  | 4 => (sh.1 + field w 23 14, sh.2 + field w 13 4)
  | _ => sh

/-- The first operation when it reads, the last when it writes. -/
def readOp (prog : List Word) : Option Word := prog.head?.filter (fun w => opCode w == 1 || opCode w == 6)
def splitOp (prog : List Word) : Option Word := prog.getLast?.filter (fun w => opCode w == 5)
def swizzleOp (prog : List Word) : Option Word := prog.find? (fun w => opCode w == 3)

/-! Copy commands (07 R225). -/

/-- A copy command taken apart. -/
structure CopyCmd where
  len : Nat
  ssc : Bool
  dsc : Bool
  dch : Bool
  mcast : Bool
  tiles : Nat
  rows : Nat
  cols : Nat
  spitch : Nat
  dpitch : Nat
  sfmt : Nat
  dfmt : Nat
  mode : Nat
  lay : Bool
  slot : Nat
  boxcls : Nat
  rowsav : Nat
  colsav : Nat
  deriving DecidableEq, Repr

def copyCmd (w : List Word) : CopyCmd :=
  let at1 (i hi lo : Nat) : Nat := field (w.getD i 0#64) hi lo
  { len := at1 2 31 0, ssc := at1 2 32 32 == 1, dsc := at1 2 33 33 == 1, dch := at1 2 34 34 == 1, mcast := at1 2 36 36 == 1,
    tiles := at1 3 63 0, rows := at1 4 31 0, cols := at1 4 63 32, spitch := at1 5 31 0, dpitch := at1 5 63 32, sfmt := at1 6 3 0,
    dfmt := at1 6 7 4, mode := at1 6 9 8, lay := at1 6 10 10 == 1, slot := at1 6 14 11, boxcls := at1 6 19 16, rowsav := at1 7 31 0,
    colsav := at1 7 63 32 }

/-- R315: the box that is read. -/
def CopyCmd.boxRows (c : CopyCmd) : Nat := if c.rowsav = 0 then c.rows else min c.rows c.rowsav
def CopyCmd.boxCols (c : CopyCmd) : Nat := if c.colsav = 0 then c.cols else min c.cols c.colsav
def CopyCmd.clipped (c : CopyCmd) : Bool := c.rows != 0 && (decide (c.boxRows < c.rows) || decide (c.boxCols < c.cols))

/-- Whether a command describes no bytes (R310). -/
def CopyCmd.empty (c : CopyCmd) : Bool := if c.rows = 0 then c.len == 0 else c.cols == 0

/-- A scratch reference with base 15 that does not name the issuing core's own tile. -/
def foreignFrame (ref : Word) (tile pkg : Nat) : Bool := addrSel' ref == 15 && (field ref 32 24 != tile || field ref 42 33 != pkg)
where addrSel' (v : Word) : Nat := field v 23 20

/-- The commands that a push refuses (R225, R314); `prog` is the program of the slot, when one is loaded. -/
def copyBad (w : List Word) (tile pkg : Nat) (prog : Option (List Word)) : Bool :=
  let c := copyCmd w
  let ops := if c.lay then prog.getD [] else []
  let sh := ops.foldl shapeAfter (c.rows, c.cols)
  let split := splitOp ops
  let has (k : Nat) : Bool := ops.any (fun o => opCode o == k)
  (c.dsc && c.dch) || (c.ssc && foreignFrame (w.getD 0 0#64) tile pkg) || (c.dsc && foreignFrame (w.getD 1 0#64) tile pkg) ||
    (c.mcast && (!c.dsc || c.tiles == 0)) || ((c.sfmt != c.dfmt || c.lay) && c.rows == 0) ||
    decide (12 < c.sfmt) || decide (12 < c.dfmt) || ((c.sfmt == 9 || c.dfmt == 9) && c.sfmt != c.dfmt) ||
    (c.lay && prog.isNone) || (has 1 && (isMx c.sfmt || c.sfmt == 6)) || (has 6 && c.sfmt != 10 && c.sfmt != 11) ||
    (split.isSome && c.dfmt != 10 && c.dfmt != 11) ||
    ((split.map (fun o => decide (field o 23 4 < ceilDiv (sh.1 * sh.2) 8))).getD false) || (has 3 && c.dsc) ||
    (c.rows != 0 &&
      ((!(has 6) && decide (c.spitch < copyRowBytes c.sfmt c.cols)) ||
       (split.isNone && decide (c.dpitch < copyRowBytes c.dfmt sh.2))))

/-! Reading the source box (R314 step 1): displacements from the source with lengths, in the order the data is kept. -/

/-- A run of bytes cut into pieces of at most 4 KiB; `ends` are the virtual addresses of its start, and no piece crosses a 64 KiB boundary, and so no
page, of either (R308). -/
def cutRun (ends : List Nat) (off n fuel : Nat) : List (Nat × Nat) :=
  match fuel with
  | 0 => []
  | fuel + 1 =>
    if n = 0 then []
    else
      let k := ends.foldl (fun k e => min k (65536 - (e + off) % 65536)) (min n 4096)
      (off, k) :: cutRun ends (off + k) (n - k) fuel

/-- A run at a displacement from an end, whose address is given when it is virtual, cut into pieces. -/
def cutAt (base : Option Nat) (r : Nat × Nat) : List (Nat × Nat) :=
  (cutRun (base.toList.map (· + r.1)) 0 r.2 (r.2 / 1024 + 4)).map (fun p => (r.1 + p.1, p.2))

/-- Pieces of one row taken together as long as they stay within 4 KiB and a page. -/
def groupRuns (base : Option Nat) (l : List (Nat × Nat)) : List (List (Nat × Nat)) :=
  let page (r : Nat × Nat) : Nat := match base with | some b => (b + r.1) / 65536 | none => 0
  l.foldr (fun r acc =>
    match acc with
    | (h :: g) :: rest =>
      if page r = page h ∧ r.2 + ((h :: g).map (·.2)).foldl (· + ·) 0 ≤ 4096 then (r :: h :: g) :: rest else [r] :: (h :: g) :: rest
    | _ => [r] :: acc) []

/-- The rows, or the planes, of the box. -/
def boxReadRows (c : CopyCmd) (prog : List Word) : List (List (Nat × Nat)) :=
  let es := codeBits c.sfmt / 8
  match readOp prog with
  | some w =>
    if opCode w = 1 then
      (List.range c.boxRows).map (fun i => (List.range c.boxCols).map (fun j => (i * c.spitch + j * field w 23 4 * es, es)))
    else (List.range (opPlanes w)).map (fun p => [(p * field w 23 4, ceilDiv (c.rows * c.cols) 8)])
  | none =>
    (List.range c.boxRows).map (fun i =>
      [(i * c.spitch, tensorBytes c.sfmt c.boxCols)] ++
        (if isMx c.sfmt then [(i * c.spitch + tensorBytes c.sfmt c.cols, ceilDiv c.boxCols 32)] else []))

/-! Elements on the way. -/

/-- An array on its way: rows of element codes and, for MX formats, rows of block scales. -/
structure CopyArray where
  rows : List (List Nat)
  scales : List (List Nat)
  deriving DecidableEq, Repr

/-- The array that the bytes read make up. -/
def arrayOf (c : CopyCmd) (prog : List Word) (b : List Byte) : CopyArray :=
  match readOp prog with
  | some w =>
    if opCode w = 1 then
      let es := codeBits c.sfmt / 8
      { rows := (List.range c.boxRows).map (fun i => (List.range c.boxCols).map (fun j => leValue ((b.drop ((i * c.boxCols + j) * es)).take es))),
        scales := [] }
    else
      let q := opPlanes w
      let plane := ceilDiv (c.rows * c.cols) 8
      let elem (i : Nat) : Nat :=
        let t := (List.range q).foldl (fun v p => 2 * v + bitsOf (b.getD (p * plane + i / 8) 0#8).toNat (i % 8) (i % 8)) 0
        wrapInt (sextNat t q * 2 ^ (8 - q) + (if bitOf w.toNat 28 && decide (q ≤ 7) then 2 ^ (7 - q) else 0)) 8
      { rows := (List.range c.boxRows).map (fun i => (List.range c.boxCols).map (fun j => elem (i * c.cols + j))), scales := [] }
  | none =>
    let n := tensorBytes c.sfmt c.boxCols
    let m := if isMx c.sfmt then ceilDiv c.boxCols 32 else 0
    let row (i : Nat) : List Byte := (b.drop (i * (n + m))).take (n + m)
    { rows := (List.range c.boxRows).map (fun i => (List.range c.boxCols).map (fun j => packedElem (row i) c.sfmt j)),
      scales := (List.range c.boxRows).map (fun i => ((row i).drop n).map (·.toNat)) }

/-! Conversion (R311, R312). -/

/-- An element as a value: a float, or an integer. -/
inductive CopyVal where
  | num (x : Num)
  | int (v : Int)
  deriving DecidableEq, Repr

def isIntCode (code : Nat) : Bool := code == 10 || code == 11 || code == 12

/-- Width and sign of an integer code. -/
def intBits (code : Nat) : Nat := if code = 12 then 32 else 8
def intSigned (code : Nat) : Bool := code != 11

def copyVal (code elem scale : Nat) : CopyVal :=
  if isIntCode code then .int (if intSigned code then sextNat elem (intBits code) else (elem : Int)) else .num (actNum code elem scale)

/-- A value in a format; FP8 and E2M1 saturate. -/
def putVal (code mode : Nat) (v : CopyVal) : Nat :=
  let ctl : RoundCtl := { mode := rmodeOf mode, nosat8 := false, ftz := false }
  if isIntCode code then
    match v with
    | .int i =>
      let w := intBits code
      wrapInt (if intSigned code then satInt i (-(2 ^ (w - 1) : Int)) (2 ^ (w - 1) - 1) else satInt i 0 (2 ^ w - 1)) w
    | .num x => (floatToInt (rmodeOf mode) (intBits code) (intSigned code) x).1
  else
    match v with
    | .int i => (roundF (fmtOfCode code) ctl (intNum i)).1
    | .num x => (roundF (fmtOfCode code) ctl x).1

/-- The number of a value, for a block conversion. -/
def CopyVal.toNum : CopyVal → Num
  | .num x => x
  | .int v => intNum v

/-- A row in an MX format: codes and scales, a partial block padded with +0. -/
def mxRow (code mode : Nat) (vals : List CopyVal) : List Nat × List Nat :=
  let ctl : RoundCtl := { mode := rmodeOf mode, nosat8 := false, ftz := false }
  let blocks := (chunksOf 32 vals (vals.length / 32 + 1)).map (fun b =>
    (b.length, quantBlock (fmtOfCode code) ctl false 0 (b.map CopyVal.toNum ++ List.replicate (32 - b.length) (zeroNum false))))
  (blocks.flatMap (fun b => b.2.codes.take b.1), blocks.map (fun b => b.2.scale))

/-- R311, R312: the array in the destination format. -/
def convertArray (c : CopyCmd) (a : CopyArray) : CopyArray :=
  if c.sfmt = c.dfmt then a
  else
    let vals (i : Nat) (r : List Nat) : List CopyVal :=
      (List.range r.length).map (fun j => copyVal c.sfmt (r.getD j 0) ((a.scales.getD i []).getD (j / 32) 127))
    let rows := a.rows.mapIdx vals
    if isMx c.dfmt then
      let out := rows.map (mxRow c.dfmt c.mode)
      { rows := out.map (·.1), scales := out.map (·.2) }
    else { rows := rows.map (fun r => r.map (putVal c.dfmt c.mode)), scales := [] }

/-! Operations (R313). -/

/-- The columns of an array as rows. -/
def transposeRows (cols : Nat) (rows : List (List Nat)) : List (List Nat) := (List.range cols).map (fun j => rows.map (fun r => r.getD j 0))

/-- One operation on the element codes; scales no longer fit an array that TRANSPOSE or PAD has reshaped, and the spec gives none:
they are then open (`openScale`, log entry 3). -/
def layoutOp (dfmt : Nat) (openScale : Nat → Nat) (cols : Nat) (a : CopyArray) (w : Word) : CopyArray :=
  let rescale (rows : List (List Nat)) : List (List Nat) :=
    if isMx dfmt then rows.mapIdx (fun i r => (List.range (ceilDiv r.length 32)).map (fun j => openScale (2 ^ 32 * i + j) % 256)) else []
  match opCode w with
  | 2 =>
    let rows := transposeRows cols a.rows
    { rows := rows, scales := rescale rows }
  | 4 =>
    let fill := if bitOf w.toNat 24 then field w 63 32 % 2 ^ codeBits dfmt else 0
    let rows := a.rows.map (fun r => r ++ List.replicate (field w 13 4) fill) ++
      List.replicate (field w 23 14) (List.replicate (cols + field w 13 4) fill)
    { rows := rows, scales := rescale rows }
  | _ => a

/-- The operations in order, with the columns that stand before each. -/
def layoutRun (dfmt : Nat) (openScale : Nat → Nat) (cols : Nat) (a : CopyArray) : List Word → CopyArray
  | [] => a
  | w :: ws => layoutRun dfmt openScale (shapeAfter (a.rows.length, cols) w).2 (layoutOp dfmt openScale cols a w) ws
termination_by structural ws => ws

/-! Writing (R314 step 4). -/

/-- SWIZZLE of a destination row: the 16-byte groups of each whole 512-byte unit placed by R294. -/
def swizzleRow (span : Nat) (b : List Byte) : List Byte :=
  let bank (o : Nat) : Nat := if span = 6 then bitsOf o 8 4 else bitsOf o 8 4 ^^^ (bitsOf o 13 9 * 2 ^ span % 32)
  let units := b.length / 512
  (List.range b.length).map (fun p =>
    if p / 512 < units then
      let base := 512 * (p / 512)
      match firstBelow (fun g => bank (base + 16 * g) == p % 512 / 16) 32 with
      | some g => b.getD (base + 16 * g + p % 16) 0#8
      | none => b.getD p 0#8
    else b.getD p 0#8)

/-- The byte rows of the final array. -/
def rowBytesOf (dfmt : Nat) (prog : List Word) (a : CopyArray) : List (List Byte) :=
  let rows := a.rows.mapIdx (fun i r => packElems dfmt r ++ ((a.scales.getD i []).map (BitVec.ofNat 8)))
  match swizzleOp prog with
  | some w => rows.map (swizzleRow (field w 6 4))
  | none => rows

/-- The planes of PSPLIT (R62). -/
def splitPlanes (q : Nat) (elems : List Nat) : List (List Byte) :=
  let n := ceilDiv elems.length 8
  (List.range q).map (fun p => (List.range n).map (fun k =>
    BitVec.ofNat 8 (((List.range 8).map (fun b => bitsOf (elems.getD (8 * k + b) 0) (7 - p) (7 - p) * 2 ^ b)).foldl (· + ·) 0)))

/-- What a copy of a box writes, piece by piece. -/
def boxWrites (c : CopyCmd) (prog : List Word) (openScale : Nat → Nat) (b : List Byte) : List (List Byte) :=
  let a := layoutRun c.dfmt openScale c.boxCols (convertArray c (arrayOf c prog b)) prog
  match splitOp prog with
  | some w => splitPlanes (opPlanes w) (a.rows.flatMap id)
  | none => rowBytesOf c.dfmt prog a

/-- Where it writes them: displacements from the destination with lengths. -/
def boxPlaces (c : CopyCmd) (prog : List Word) : List (Nat × Nat) :=
  let sh := prog.foldl shapeAfter (c.boxRows, c.boxCols)
  match splitOp prog with
  | some w => (List.range (opPlanes w)).map (fun p => (p * field w 23 4, ceilDiv (sh.1 * sh.2) 8))
  | none => (List.range sh.1).map (fun i => (i * c.dpitch, copyRowBytes c.dfmt sh.2))

/-- Whether a command moves its bytes unchanged: no conversion, no program, no format whose rows have a shape of their own. -/
def CopyCmd.plain (c : CopyCmd) : Bool := c.rows == 0 || (c.sfmt == c.dfmt && !c.lay && !isMx c.sfmt && codeBits c.sfmt != 4)

/-- The rows of a command that moves its bytes unchanged: displacements from the source and from the destination, with the length. -/
def CopyCmd.plainRows (c : CopyCmd) : List (Nat × Nat × Nat) :=
  if c.rows = 0 then [(0, 0, c.len)]
  else (List.range c.boxRows).map (fun i => (i * c.spitch, i * c.dpitch, tensorBytes c.sfmt c.boxCols))

/-- Runs in the order in which they are read, each with the segment that reads it: bytes of an aligned 8-byte unit that the run before has begun go to the
segment that has begun it. `b` is the place of displacement 0 within a unit. -/
def ownRuns (b : Nat) (last : Option (Nat × Nat)) : List (Nat × Nat × Nat) → List (Nat × Nat × Nat)
  | [] => []
  | (i, d, n) :: rest =>
    let own (d n : Nat) : List (Nat × Nat × Nat) := if n = 0 then ownRuns b last rest else (i, d, n) :: ownRuns b (some ((b + d + n - 1) / 8, i)) rest
    match last with
    | some (u, o) =>
      if (b + d) / 8 = u then
        let k := min n (8 * (u + 1) - (b + d))
        (o, d, k) :: own (d + k) (n - k)
      else own d n
    | none => own d n

/-- The reads of segments such that each aligned 8-byte unit of the source is read once, by one segment (R336: never torn). -/
def wholeUnits (b : Nat) (reads : List (List (Nat × Nat))) : List (List (Nat × Nat)) :=
  let runs := ownRuns b none ((reads.mapIdx (fun i l => l.map (fun r => (i, r.1, r.2)))).flatMap id)
  (List.range reads.length).map (fun i => (runs.filter (fun r => r.1 == i)).map (fun r => (r.2.1, r.2.2)))

/-- The segments of a job (R308): what each reads and what it writes. None writes more than 4 KiB or crosses a row or a page; `src` and `dst` are the
virtual addresses of the ends. A copy that converts or rearranges writes nothing before it has read everything, and its segments pair a read with a
write of equal number (log entry 21). -/
def rawSegments (c : CopyCmd) (prog : List Word) (src dst : Option Nat) : List (List (Nat × Nat) × List (Nat × Nat)) :=
  if c.plain then
    c.plainRows.flatMap (fun r =>
      (cutRun (src.toList.map (· + r.1) ++ dst.toList.map (· + r.2.1)) 0 r.2.2 (r.2.2 / 1024 + 4)).map (fun p =>
        ([(r.1 + p.1, p.2)], if c.dch then [] else [(r.2.1 + p.1, p.2)])))
  else
    let reads := (boxReadRows c prog).flatMap (fun r => groupRuns src (r.flatMap (cutAt src)))
    let writes := if c.dch then [] else ((boxPlaces c prog).flatMap (cutAt dst)).map (fun p => [p])
    (List.range (max reads.length writes.length)).map (fun i => (reads.getD i [], writes.getD i []))

/-- The segments of a job, with the units of the source, whose first byte lies at `unit` within one, kept whole. -/
def copySegments (c : CopyCmd) (prog : List Word) (src dst : Option Nat) (unit : Nat) : List (List (Nat × Nat) × List (Nat × Nat)) :=
  let segs := rawSegments c prog src dst
  (wholeUnits unit (segs.map (·.1))).zip (segs.map (·.2))

end Sys2Proof.Machine
end

