-- ==== Sys2Proof/Machine/Messages.lean ====
section
/-! DEFINITION. `send`, `reply`, route-class masks and channel bindings (spec 07 R213 to R218; 01 R31; 06 R188; 11 R328). -/

namespace Sys2Proof.Machine

/-- The number of a target of channel words for the flow control of R328. -/
def creditKey (pkg core : Nat) : Nat := pkg * 16384 + core

/-- Channel words of a core to one target (R188, R320): data words, an end word or both. They are ordered whatever the flag of a `send` says, since the words
of one sender reach a channel in the order sent (11 R328). -/
def State.sendWords (s : State) (core : Nat) (pkg target cls level : Nat) (ltag : Nat) (item : Word) (words : List Word)
    (endw rel : Bool) (scope : Nat) (ev : EvKind) (after : List Nat) : State :=
  let n := words.length + (if endw then 1 else 0)
  let key := creditKey pkg target
  let s := s.modCore core (fun c => { c with credit := kset c.credit key (kgetD c.credit key 0 + n) })
  let m : Msg :=
    { kind := 2, dpkg := pkg, dcore := keyId target, dspace := keySpace target, src := s.sourceOf core, tenant := s.tenantOf ltag,
      cls := cls, level := level, ordered := true, pseq := 0, rel := rel, scope := scope, gov := false, words := words,
      endw := endw, ltag := ltag, handler := 0#64, item := item, ev := ev, rangeOf := none, after := after }
  s.inject (sourceRouter core target) m 1 (s.prefOf core cls)

/-- The unacknowledged words of a core towards a target (R328). -/
def State.unacked (s : State) (core pkg target : Nat) : Nat := kgetD (s.core core).credit (creditKey pkg target) 0

/-- The target cores of a channel control word (R188). -/
def channelTargets (v : Word) : List Nat :=
  let core := field v 11 0
  let mask := field v 39 32
  if mask = 0 then [core] else ((List.range 8).filter (fun i => bitOf mask i)).map (fun i => core / 8 * 8 + i)

/-- The channel-word kind of `send` and `reply` (R213): its targets are compute cores, or the source of the frame for `reply`. -/
def State.sendChannel (s : State) (c : Ctx) (isReply : Bool) : State :=
  let v := c.xa
  let n := modOpt c.w / 2 % 4 + 1
  let endw := bitOf (modOpt c.w) 3
  let pkg := if isReply then c.f.src.pkg else field v 21 12
  let targets := if isReply then [coreKey c.f.src.space c.f.src.core] else channelTargets v
  let words := n + (if endw then 1 else 0)
  if targets.any (fun k => s.outsideMesh c.f.ltag { core := k, pkg := pkg, gov := false }) then s.exact c.core .tenant v
  else if targets.any (fun k => decide (32 < s.unacked c.core pkg k + words)) then s
  else
    s.beforeRelease c c.ord [] (fun s => (targets.foldl (fun s k =>
      s.sendWords c.core pkg k (field v 25 22) c.f.level c.f.ltag c.f.item (c.f.xRange (fieldC c.w) n) endw
        (decide (2 ≤ c.ord)) c.w.qual.scope.toNat .task (if 2 ≤ c.ord then s.handed c.core c.w.qual.scope.toNat pkg k else [])) s).advance c)

/-- The active-message kind (R213, R215). -/
def State.sendActive (s : State) (c : Ctx) (isReply : Bool) : State :=
  let v := c.xa
  let w := s.ctlWord v
  let target : Target :=
    if isReply then { core := coreKey c.f.src.space c.f.src.core, pkg := c.f.src.pkg, gov := false } else { w.target with gov := false }
  if (if isReply then w.level == 7 || w.space == 3 else !w.ok false) then s.exact c.core .illegal 0#64
  else if s.outsideMesh c.f.ltag target then s.exact c.core .tenant v
  else if c.xb.getLsbD 0 then s.exact c.core .misalign c.xb
  else
    let m : Msg :=
      { kind := 0, dpkg := target.pkg, dcore := keyId target.core, dspace := keySpace target.core, src := s.sourceOf c.core,
        tenant := s.tenantOf c.f.ltag, cls := w.cls, level := w.level, ordered := !c.w.qual.flag, pseq := 0,
        rel := decide (2 ≤ c.ord), scope := c.w.qual.scope.toNat, gov := false, words := c.f.xRange (fieldC c.w) 4, endw := false,
        ltag := c.f.ltag, handler := c.xb, item := c.f.item, ev := .task, rangeOf := none,
        after := if 2 ≤ c.ord then s.handed c.core c.w.qual.scope.toNat target.pkg target.core else [] }
    s.beforeRelease c c.ord [] (fun s => (s.inject (sourceRouter c.core target.core) m 1 (s.prefOf c.core w.cls)).advance c)

def execSend (w : Bundle) (s : State) : Out :=
  bundle .send w s (fun c s => if modOpt w % 2 = 1 then s.sendChannel c false else s.sendActive c false)

def execReply (w : Bundle) (s : State) : Out :=
  bundle .reply w s (fun c s => if modOpt w % 2 = 1 then s.sendChannel c true else s.sendActive c true)

/-! Masks (R217). -/

def execCmask (w : Bundle) (s : State) : Out :=
  bundle .cmask w s (fun c s =>
    (s.modCore c.core (fun k => { k with masks := k.masks ||| BitVec.ofNat 16 (2 ^ (immJ w).toNat) })).advance c)

def execCunmask (w : Bundle) (s : State) : Out :=
  bundle .cunmask w s (fun c s =>
    (s.modCore c.core (fun k => { k with masks := k.masks &&& ~~~(BitVec.ofNat 16 (2 ^ (immJ w).toNat)) })).advance c)

/-! Channels (R218). -/

/-- A binding word with its unused bits 0. -/
def bindWord (v : Word) : Word :=
  match v.toNat % 4 with
  | 1 =>
    BitVec.ofNat 64 (1 + field v 13 2 * 2 ^ 2 + (if v.getLsbD 24 then 0 else field v 23 14 * 2 ^ 14) + (if v.getLsbD 24 then 2 ^ 24 else 0) +
      field v 39 32 * 2 ^ 32)
  | _ => BitVec.ofNat 64 (2 + field v 5 2 * 2 ^ 2)

/-- Whether a vector channel form of the level on a channel still stands in the queue. -/
def Frame.chanQueued (f : Frame) (ch : Nat) : Bool :=
  f.lv.vq.any (fun e => match e.chan with | some (_, b) => fieldB b == ch | none => false)

def execChbind (w : Bundle) (s : State) : Out :=
  bundle .chbind w s (fun c s =>
    let n := fieldA w
    let v := c.xb
    let old := kget (s.core c.core).chans n
    if v.toNat % 4 = 3 then s.exact c.core .illegal 0#64
    else if (old.map (fun x => x.level != c.f.level)).getD false then s.exact c.core .perm 0#64
    else if s.chanBusy c.core c.f n || c.f.chanQueued n then s
    else if v.toNat % 4 = 0 then (s.modCore c.core (fun k => { k with chans := kdel k.chans n })).advance c
    else
      (s.modCore c.core (fun k =>
        { k with chans := kset k.chans n { bind := bindWord v, level := c.f.level, ltag := c.f.ltag, q := (old.map (·.q)).getD [] } })).advance c)

/-- Whether a channel's source binding matches the source of a message (R218). -/
def Chan.bySource (x : Chan) (own : Nat) (src : Source) : Bool :=
  x.bind.toNat % 4 == 1 && src.space == 0 && src.pkg == (if x.bind.getLsbD 24 then own else field x.bind 23 14) &&
    (if field x.bind 39 32 = 0 then src.core == field x.bind 13 2
     else src.core / 8 == field x.bind 13 2 / 8 && bitOf (field x.bind 39 32) (src.core % 8))

/-- Whether a channel is bound to a class (R218). -/
def Chan.byClass (x : Chan) (cls : Nat) : Bool := x.bind.toNat % 4 == 2 && field x.bind 5 2 == cls

/-- The channel that an arriving word enters (R218). -/
def Core.channelFor (c : Core) (own : Nat) (src : Source) (cls : Nat) : Option Nat :=
  match c.chans.find? (fun x => x.2.bySource own src) with
  | some x => some x.1
  | none => (c.chans.find? (fun x => x.2.byClass cls)).map (·.1)

/-- The channel to which a class is bound (R214). -/
def Core.channelOfClass (c : Core) (cls : Nat) : Option Nat := (c.chans.find? (fun x => x.2.byClass cls)).map (·.1)

/-- Room for words in a channel (R31). -/
def Core.chanRoom (c : Core) (ch n : Nat) : Bool := decide (((kget c.chans ch).map (·.q.length)).getD 32 + n ≤ 32)

/-- Words put in a channel. -/
def Core.putChan (c : Core) (ch : Nat) (words : List (Word × Bool)) : Core :=
  match kget c.chans ch with
  | some x => { c with chans := kset c.chans ch { x with q := x.q ++ words } }
  | none => c

end Sys2Proof.Machine
end

