-- ==== Sys2Proof/Machine/Package.lean ====
section
/-! DEFINITION. Migration packages on their way (spec 09 R263, R270, R271, R276, R277; 15 R421). -/

namespace Sys2Proof.Machine

/-- Whether a die can be the target of a forward: out of reset, and holding a core of the launch. -/
def State.dieQualifies (s : State) (die ltag : Nat) : Bool :=
  !(s.die die).inReset && ((s.ctx ltag).map (fun c => c.foot.any (fun k => isCompute k && dieOf k == die))).getD false

/-- The partner die of the other class. -/
def partnerDie (d : Nat) : Nat :=
  match d with
  | 0 => 1 | 1 => 0 | 2 => 3 | 3 => 2 | 4 => 5 | 5 => 4 | 6 => 7 | _ => 6

/-- R263: the die to which a record or a migration of a launch goes from a die: the partner, or the first other die of the asked class
that qualifies; a named die only itself. -/
def State.forwardDie (s : State) (die aff affDie ltag : Nat) : Option Nat :=
  match aff with
  | 3 => if s.dieQualifies affDie ltag then some affDie else none
  | _ =>
    let cls (d : Nat) : Bool := aff == 0 || isAster d == (aff == 1)
    (partnerDie die :: (List.range 8).filter (fun d => d != die)).find? (fun d => cls d && s.dieQualifies d ltag)

/-- Whether the away marker of a task stands on a core. -/
def State.awaits (s : State) (core task : Nat) : Bool := ((s.frameOf core task).map Frame.isAway).getD false

/-- R276: a migration that failed on its way: the frame is back on its origin core, in place of the away marker, and MIGRATE goes to the
trap handler when the frame next issues. Where a reset has discarded the marker the task is lost with it (15 R419). -/
def State.returnPackage (s : State) (p : Package) (start : Option (Cause × Word)) (status : Option (Nat × Nat)) : State :=
  if s.awaits p.fromCore p.frame.task = false then
    (s.report p.frame.ltag failedAbsent 0 p.frame.item (BitVec.ofNat 64 p.frame.pc) 0#64).leave p.fromCore { p.frame with origin := none }
  else
    let back (f : Frame) : Frame :=
      let g := { p.frame with start := start, mig := none, origin := f.origin, spilledX := 0, slots := [] }
      match status with | some (n, v) => g.xSet n (BitVec.ofNat 64 v) | none => g
    let placed := (s.core p.fromCore).frames.map (fun f => if f.task = p.frame.task ∧ f.isAway = true then back f else f)
    let room := match placed with | f :: rest => f :: makeRoom f.vUnits f.xUnits rest | [] => []
    (s.modCore p.fromCore (fun c => { c with frames := room })).spill p.fromCore p.frame.ltag placed room

/-- Whether the rows and the scratch of a returning frame are free: they were freed when its package was read (R273), so a frame above its marker may have
been given them since. DESIGN CHOICE: the package then waits (log entry 36). -/
def State.mayReturn (s : State) (p : Package) : Bool :=
  let f := p.frame
  (f.arows == 0 && f.fscr == 0) || !s.awaits p.fromCore f.task ||
    ((s.top p.fromCore).map (·.task) == some f.task && !s.storageHeld p.fromCore f.acb f.arows f.fsb f.fscr)

/-- A package that can go nowhere: its frame restored with its rows and scratch (R276, R277). -/
def State.bounce (s : State) (pack : Nat) : State :=
  match kget s.packs pack with
  | none => s
  | some p =>
    let t := tileOf p.fromCore
    let s := { s with packs := kdel s.packs pack }
    let s := s.modTile t (fun x =>
      { x with acc := (List.range p.rows.length).foldl (fun m i => kset m (64 * p.frame.acb + i) (p.rows.getD i 0#32)) x.acc })
    let s := s.modTile (scratchTile p.fromCore) (fun x => { x with array := memSetBytes x.array p.frame.fsb p.scratch })
    if p.viaTrap then s.returnPackage p (some (.migrate, 0#64)) none else s.returnPackage p none (p.status.map (fun n => (n, 3)))

/-- The data flits of a package (11 R320: as many as it needs): its windows, rows, scratch and planes in flits of 32 bytes. -/
def Package.flits (p : Package) : Nat :=
  ceilDiv (8 * p.frame.x.length + 64 * p.frame.v.length + 4 * p.rows.length + p.scratch.length +
    ((p.planes.map (fun x => x.w.length)).foldl (· + ·) 0)) 32

/-- The lowest core of a launch on a die, to which a package for its Governor is addressed. -/
def State.launchCoreOn (s : State) (ltag die : Nat) : Nat :=
  (((s.ctx ltag).map (·.foot)).getD []).filter (fun k => isCompute k && dieOf k == die) |>.headD (512 * die)

/-- A package sent to a core, or to the Governor of its die (R270 step 3), in the order of its pair (R260); what its frames have acquired goes with it
(10 R299). -/
def State.sendPackage (s : State) (pack : Nat) (p : Package) (target : Nat) (gov : Bool) : State :=
  let m : Msg :=
    { kind := 9, dpkg := s.pkg, dcore := target, dspace := 0, src := s.sourceOf p.fromCore, tenant := s.tenantOf p.frame.ltag, cls := 0,
      level := p.frame.level, ordered := !gov, pseq := 0, rel := true, scope := 6, gov := gov, words := [], endw := false,
      ltag := p.frame.ltag, handler := p.frame.handler, item := p.frame.item, ev := .package pack, rangeOf := p.frame.gov,
      after := s.open_ (s.core p.fromCore).behind }
  s.inject (tileOf p.fromCore) m p.flits (s.memPref p.frame.ltag)

/-- The away marker of a task records where it goes (R273). -/
def State.markAway (s : State) (core task toCore : Nat) : State :=
  s.modTask core task (fun f => if f.isAway then { f with kind := .away toCore } else f)

/-- R277: a package that the target router refuses; none while it has to wait. A trap migration goes to the next Aster die that R263 allows. -/
def State.packageRefused (s : State) (pack : Nat) : Option State :=
  match kget s.packs pack with
  | none => some s
  | some p =>
    match (if p.viaTrap then s.forwardDie (dieOf p.fromCore) 1 0 p.frame.ltag else none) with
    | some d =>
      let target := s.launchCoreOn p.frame.ltag d
      some ((s.markAway p.fromCore p.frame.task target).sendPackage pack p target true)
    | none => if s.mayReturn p then some (s.bounce pack) else none

end Sys2Proof.Machine
end

