-- ==== Sys2Proof/Machine/Network.lean ====
section
/-! DEFINITION. The Millrace: flits and routers (spec 11 R317, R318, R321 to R323), ejection, the ordered window, the hold store, leats and
refusals (R324, R326 to R328; 07 R206, R214, R216; 13 R356, R365). -/

namespace Sys2Proof.Machine

/-! Flits (R321, R323). Outputs: 0 north, 1 east, 2 south, 3 west. -/

/-- The router beyond an output. -/
def neighbour (r out : Nat) : Nat :=
  let c := tileCol r
  let y := tileRow r
  match out with
  | 0 => tileAt c ((y + 15) % 16)
  | 1 => tileAt ((c + 1) % 32) y
  | 2 => tileAt c ((y + 1) % 16)
  | _ => tileAt ((c + 31) % 32) y

/-- The steps left from a router to a destination. -/
def hopsLeft (r dcol drow : Nat) : Nat := torusDist 32 (tileCol r) dcol + torusDist 16 (tileRow r) drow

/-- The order in which a preference tries outputs (R325). -/
def outputOrder (pref : Nat) : List Nat :=
  match pref with
  | 1 => [1, 3, 0, 2]
  | 2 => [0, 2, 1, 3]
  | _ => [0, 1, 2, 3]

/-- Kinds that are confined to the sub-mesh of their tenant (R323). -/
def confinedKind (k : Nat) : Bool := decide (k < 4) || k == 8 || k == 9

/-- Outputs that a flit may take (R323). -/
def State.allowedOut (s : State) (r : Nat) (m : Msg) : List Nat :=
  (List.range 4).filter (fun o => !confinedKind m.kind || s.inMesh m.tenant (neighbour r o))

/-- Whether confined flits can each be given one of the free outputs. -/
def feasible : List (List Nat) → List Nat → Bool
  | [], _ => true
  | a :: rest, free => a.any (fun d => free.contains d && feasible rest (free.erase d))

/-- What one router needs of a flit. -/
structure FlitView where
  flit : Flit
  kind : Nat
  dcol : Nat
  drow : Nat
  allowed : List Nat
  deriving DecidableEq, Repr

def State.viewFlit (s : State) (f : Flit) : FlitView :=
  match kget s.msgs f.msg with
  | some nm => { flit := f, kind := nm.msg.kind, dcol := nm.dcol, drow := nm.drow, allowed := s.allowedOut f.router nm.msg }
  | none => { flit := f, kind := 4, dcol := 0, drow := 0, allowed := [0, 1, 2, 3] }

def FlitView.here (v : FlitView) : Bool := v.flit.router == tileAt v.dcol v.drow

/-- The outputs of a flit in the order it tries them: the productive ones by preference, then the others (deflection). -/
def FlitView.wants (v : FlitView) (free : List Nat) : List Nat :=
  let ok (o : Nat) : Bool := free.contains o && v.allowed.contains o
  let good (o : Nat) : Bool := decide (hopsLeft (neighbour v.flit.router o) v.dcol v.drow < hopsLeft v.flit.router v.dcol v.drow)
  let l := (outputOrder v.flit.pref).filter ok
  l.filter good ++ (l.filter (fun o => !good o))

/-- A flit that has taken an output. -/
def FlitView.go (v : FlitView) (o : Nat) : Flit :=
  { v.flit with router := neighbour v.flit.router o, port := (o + 2) % 4, age := min (v.flit.age + 1) 1023, injected := true, bounced := false }

/-- Outputs given in order of age, none of which leaves a later confined flit without one (R321 steps 2 to 4). -/
def placeFlits (free : List Nat) : List FlitView → List Flit × List Nat
  | [] => ([], free)
  | v :: rest =>
    let later := (rest.filter (fun x => confinedKind x.kind)).map (·.allowed)
    let cand := v.wants free
    match (match cand.find? (fun o => feasible later (free.erase o)) with | some o => some o | none => cand.head?) with
    | some o =>
      let r := placeFlits (free.erase o) rest
      (v.go o :: r.1, r.2)
    | none =>
      let r := placeFlits free rest
      (v.flit :: r.1, r.2)

/-- What a router does in a cycle: the flits that go to its ejection unit, and those that stay in the network. Flits of a message that was not taken leave
by the outputs that are free (R326), then one more flit is injected. A `quiet` router injects nothing; the flit that could not be injected has waited a cycle
more (R322). -/
def routerCycle (mayStart : Nat → Bool) (quiet : Bool) (all : List FlitView) : List Flit × List Flit :=
  let moving := sortBy (fun (a b : FlitView) => decide (b.flit.age < a.flit.age) || (a.flit.age == b.flit.age && decide (a.flit.port < b.flit.port)))
    (all.filter (fun v => v.flit.injected))
  let waiting := all.filter (fun v => !v.flit.injected && !v.flit.bounced)
  let out := (moving.filter FlitView.here).take 2
  let m := placeFlits [0, 1, 2, 3] (moving.filter (fun v => !out.contains v))
  let b := placeFlits m.2 (all.filter (fun v => !v.flit.injected && v.flit.bounced))
  let r := (m.1 ++ b.1, b.2)
  match waiting with
  | [] => (out.map (·.flit), r.1)
  | v :: rest =>
    let others := rest.map (·.flit)
    let stays : Flit := { v.flit with waited := v.flit.waited + 1 }
    if quiet || !(mayStart v.flit.msg) then (out.map (·.flit), r.1 ++ stays :: others)
    else if v.here then (out.map (·.flit) ++ [v.flit], r.1 ++ others)
    else
      match v.wants r.2 with
      | o :: _ => (out.map (·.flit), r.1 ++ v.go o :: others)
      | [] => (out.map (·.flit), r.1 ++ stays :: others)

/-- The routers at which flits stand, each once. -/
def flitRouters (l : List Flit) : List Nat := l.foldl (fun acc f => if acc.contains f.router then acc else acc ++ [f.router]) []

/-- R318: a message may start when its source router has fewer than 256 in flight. -/
def State.mayStart (s : State) (id : Nat) : Bool :=
  match kget s.msgs id with
  | some nm => nm.tag.isSome || decide ((s.msgs.filter (fun x => x.2.src == nm.src && x.2.tag.isSome)).length < 256)
  | none => true

/-- The lowest tag of a source router that is not in use (R318). -/
def State.freeTag (s : State) (src : Nat) : Nat :=
  let used := s.msgs.filterMap (fun x => if x.2.src = src then x.2.tag else none)
  (firstBelow (fun t => !used.contains t) 256).getD 0

/-! Refusals and reports (07 R206, R216; R326). -/

/-- The counter of refusals (16 R436). -/
def State.countRefusal (s : State) : State :=
  { s with boot := { s.boot with counters := kset s.boot.counters 0x0428 (min (kgetD s.boot.counters 0x0428 0 + 1) (2 ^ 64 - 1)) } }

/-- The payload of a refusal reply (R216). -/
def refusalWords (m : Msg) (reason : Nat) : List Word :=
  [m.words.getD 0 0#64, m.words.getD 1 0#64, m.handler,
   BitVec.ofNat 64 (reason + m.dcore * 2 ^ 8 + m.dpkg * 2 ^ 20 + m.dspace * 2 ^ 30 + m.level * 2 ^ 32 + m.cls * 2 ^ 35)]

/-- The number of words of a kind-2 message. -/
def wordCount (m : Msg) : Nat := m.words.length + (if m.endw then 1 else 0)

/-- The rank job whose end word a message carries (06 R188). -/
def endOfJob (m : Msg) : Option (Nat × Nat) :=
  match m.ev with
  | .fromJob queue stamp => if m.endw then some (queue, stamp) else none
  | _ => none

/-- The copy whose clip box a message is (R315). -/
def boxOf (m : Msg) : Option Nat := match m.ev with | .fromCopy job => if m.endw then some job else none | _ => none

/-- The acknowledgement of channel words (R328) sets out: for a sender of this package, or of another. -/
def State.ackWords (s : State) (m : Msg) : State :=
  if m.src.pkg = s.pkg then
    let sender := coreKey m.src.space m.src.core
    let token := s.fresh.1
    let a : Ack := { sender := sender, target := creditKey m.dpkg (msgTarget m), words := wordCount m, job := endOfJob m, token := token, ltag := m.ltag, copy := boxOf m }
    { s.fresh.2 with acks := s.fresh.2.acks ++ [a] }.sendInternal 7 (msgTarget m) sender 0 m.ltag (.token token)
  else
    let a : Msg := { m with kind := 7, dpkg := m.src.pkg, dcore := m.src.core, dspace := m.src.space,
                            src := { core := m.dcore, pkg := m.dpkg, space := m.dspace }, after := [] }
    (s.sendScale m.src.pkg 1 (some a) none).getD s

/-- Whether an engine job sent a message (R216: such words have no handler to answer to). -/
def engineSent (m : Msg) : Bool :=
  match m.ev with
  | .fromJob _ _ => true
  | .fromCopy _ => true
  | _ => false

/-- A refused message answered: its refusal reply sets out for the sender; channel words no longer count as unacknowledged. To an engine job
the reply carries their number, and they count until it has come, so that the job learns of the refusal first. -/
def State.answerRefused (s : State) (router : Nat) (m : Msg) (reason : Nat) (ordered : Bool) : State :=
  let s := s.countRefusal
  let s := if m.kind = 2 ∧ engineSent m = false then s.ackWords m else s
  let r : Msg :=
    { kind := 3, dpkg := m.src.pkg, dcore := m.src.core, dspace := m.src.space,
      src := { core := m.dcore, pkg := m.dpkg, space := m.dspace }, tenant := m.tenant, cls := 0, level := m.level, ordered := ordered,
      pseq := 0, rel := false, scope := 0, gov := false,
      words := if engineSent m then [BitVec.ofNat 64 (wordCount m), 0#64, 0#64, 0#64] else refusalWords m reason, endw := false,
      ltag := m.ltag, handler := 0#64, item := m.item, ev := m.ev, rangeOf := none, after := [] }
  s.inject router r 1 (s.prefOf (msgTarget m) 0)

/-- A message refused on the way to its target: the replies of one target to one sender keep their order (09 R260). -/
def State.refuse (s : State) (router : Nat) (m : Msg) (reason : Nat) : State := s.answerRefused router m reason (m.dpkg == s.pkg)

/-- An event that cannot be delivered: its item is reported FAILED-ABSENT to its source's launch. DESIGN CHOICE: the atomic whose handler could not be
delivered has a home-side ABSENT as well, and a collective's block fails (log entry 9). -/
def State.undelivered (s : State) (m : Msg) : State :=
  let s := match m.rangeOf with | some r => s.retire (msgTarget m) m.ltag r | none => s
  let s := match m.ev with
    | .fixedAtomic op => s.modOp op (fun o => { o with fault := some .absent })
    | .userAtomic op => s.modOp op (fun o => { o with fault := some .absent })
    | .collective coll block => s.failBlock coll block failedAbsent []
    | _ => s
  if m.src.pkg = s.pkg then s.report m.ltag failedAbsent 0 m.item 0#64 0#64 else s.emit (.report 6 m.item)

/-! Ejection (R326). -/

/-- Where a message stands with respect to its target's context. -/
inductive Goal where
  | deliver (tag : Nat)
  | divert (tag : Nat)
  | wait
  | refuse
  deriving DecidableEq, Repr

/-- R206, R326, 13 R356: what becomes of a message by the state of its target. DESIGN CHOICE: a task that a message of another package starts on a keeper or
gateway core belongs to this package's launch of the same tag; R206 does not say which it is (log entry 9). -/
def State.goal (s : State) (m : Msg) : Goal :=
  let t := msgTarget m
  let away : Goal :=
    match s.ctxs.find? (fun c => c.2.tenant == m.tenant && c.2.foot.contains t && (c.2.state == .out || c.2.state == .trapped)) with
    | some c => .divert c.1
    | none => .refuse
  let byTag : Goal :=
    match s.ctx m.ltag with
    | some c =>
      (match c.state with | .running => .deliver m.ltag | .waiting => .wait | .ended => .refuse | _ => .divert m.ltag)
    | none => .refuse
  if m.kind = 8 then byTag
  else if isCompute t then
    if (s.die (dieOf t)).inReset then (match away with | .divert d => .divert d | _ => .refuse)
    else
      match s.launchAt t with
      | some tag =>
        if s.tenantOf tag = m.tenant then
          (if ((s.ctx tag).map (fun c => c.started.contains (tileOf t))).getD false then .deliver tag else .wait)
        else away
      | none => away
  else byTag

/-- What offering a message to its target gives. -/
inductive Offer where
  | taken (s : State)
  | full
  | refused (reason : Nat)
  deriving DecidableEq, Repr

/-- The release event of a message; what starts with it acquires what the message released (10 R299). -/
def eventOf (m : Msg) (tag : Nat) : REvent :=
  { kind := m.ev, handler := m.handler, level := m.level, args := m.words, item := m.item, src := m.src,
    cls := if m.kind = 0 then some m.cls else none, ltag := tag, gov := m.rangeOf, after := m.after }

/-- An event entered at the inbox of its core, when its level has room. -/
def State.offerInbox (s : State) (core : Nat) (e : REvent) (noRoom : Offer) : Offer :=
  if s.inboxRoom core e.level then .taken (s.enterInbox core e) else noRoom

/-- An event entered in a Governor's ready queue (09 R261; 07 R205: the die is its affinity). -/
def State.offerGovernor (s : State) (die : Nat) (e : REvent) (planes : Bool) : Offer :=
  if 4096 ≤ (s.die die).ready.length then .full
  else
    let id := s.fresh.1
    .taken (s.fresh.2.modDie die (fun d =>
      { d with ready := d.ready ++ [{ id := id, ev := e, aff := (match e.kind with | .package _ => 1 | _ => 3), affDie := die, planes := planes, after := [] }] }))

/-- A refusal reply at the sender (R216, R325): the refusal handler of the sender's own entry; the job or the copy that sent the words; or,
with no handler, a failure of the item. DESIGN CHOICE: `eaddr` of a refused job's ABSENT, which concerns no address of its own, is 0 (log entry 7). -/
def State.offerReply (s : State) (tag : Nat) (m : Msg) : Offer :=
  let target := creditKey m.src.pkg (coreKey m.src.space m.src.core)
  let paid := s.modCore (msgTarget m) (fun c =>
    { c with credit := kset c.credit target (kgetD c.credit target 0 - (m.words.getD 0 0#64).toNat) })
  match m.ev with
  | .fromJob queue stamp =>
    let mark (j : Job) : Job := if j.stamp = stamp then { j with fault := some (.absent, 0#64), finished := true } else j
    .taken (paid.modTile (tileOf (queue / 8)) (fun t => { t with queues := kset t.queues queue ((kgetD t.queues queue []).map mark) }))
  | .fromCopy job =>
    match kget s.copies job with
    | some j => .taken { paid with copies := kset s.copies job (j.fail s.cycle failedAbsent 0#64) }
    | none => .taken paid
  | _ =>
    let h := (((s.ctx tag).map (fun c => c.rclass.getD (field (m.words.getD 3 0#64) 38 35) (0, 0#64))).getD (0, 0#64)).2
    if h = 0#64 then .taken (s.report tag failedAbsent 0 m.item 0#64 0#64)
    else s.offerInbox (msgTarget m) { eventOf m tag with handler := h } .full

/-- R299: what consumes channel words of a `send.rel` acquires at its scope, once what it released has been performed: what the target has read ahead is bounded
by it. -/
def State.acquireWords (s : State) (m : Msg) : State :=
  if m.rel ∧ (m.src.pkg = s.pkg ∨ 6 ≤ m.scope) then s.acquiredAt (msgTarget m) m.scope s.nextId else s

/-- R326: a message offered to the running context of its target; released channel words enter once what they release has been performed (10 R299). -/
def State.offer (s : State) (tag : Nat) (m : Msg) : Offer :=
  let t := msgTarget m
  match m.kind with
  | 0 =>
    match (s.core t).channelOfClass m.cls with
    | some ch =>
      if (s.core t).chanRoom ch 4 && s.afterDone m.after then
        .taken ((s.modCore t (fun c => c.putChan ch (m.words.map (fun v => (v, false))))).acquireWords m)
      else .full
    | none => s.offerInbox t (eventOf m tag) (.refused 1)
  | 2 =>
    match (s.core t).channelFor s.pkg m.src m.cls with
    | none => .refused 3
    | some ch =>
      if (s.core t).chanRoom ch (wordCount m) && s.afterDone m.after then
        .taken (((s.modCore t (fun c =>
          c.putChan ch (m.words.map (fun v => (v, false)) ++ if m.endw then [(0#64, true)] else []))).acquireWords m).ackWords m)
      else .full
  | 3 => s.offerReply tag m
  | 8 => match s.arrivalMessage m with | some s => .taken s | none => .full
  | _ =>
    if m.gov then
      s.offerGovernor (dieOf t) (eventOf m tag)
        (match m.ev with | .package p => ((kget s.packs p).map (fun x => !x.planes.isEmpty)).getD false | _ => false)
    else s.offerInbox t (eventOf m tag) .full

/-! Leats (R327, 13 R365). -/

/-- The header body of R319; the order among events of the kinds other than 0 and 2 is the model's own (`pairKey`), so these are not marked ordered. -/
def headerBody (m : Msg) : Nat :=
  let ltag := if 4 ≤ m.kind then 0 else m.ltag
  let pseq := if m.ordered ∧ (m.kind = 0 ∨ m.kind = 2) then m.pseq * 2 ^ 71 + 2 ^ 83 else 0
  m.dpkg + m.dcore * 2 ^ 10 + m.dspace * 2 ^ 22 + m.src.pkg * 2 ^ 24 + m.src.core * 2 ^ 34 + m.src.space * 2 ^ 46 + m.tenant * 2 ^ 48 +
    m.cls * 2 ^ 54 + m.level * 2 ^ 58 + m.age * 2 ^ 61 + pseq + m.kind * 2 ^ 84 + (if m.rel then 2 ^ 88 else 0) +
    m.scope * 2 ^ 89 + (if m.gov then 2 ^ 92 else 0) + (if m.kind = 2 then m.words.length * 2 ^ 93 else 0) +
    (if m.endw then 2 ^ 96 else 0) + ltag * 2 ^ 97 + m.handler.toNat * 2 ^ 128 + m.item.toNat * 2 ^ 192

/-- The entries a message takes in a leat: one for each payload flit. -/
def State.leatEntries (s : State) (m : Msg) : Nat :=
  match m.ev with
  | .package p => ((kget s.packs p).map (fun x => max 1 x.flits)).getD 1
  | _ => 1

def Context.leatSize (c : Context) : Nat := 2 ^ c.recBits 14 12 8

/-- An entry of a leat written to its place in DRAM. -/
def State.writeLeat (s : State) (c : Context) (i : Nat) (m : Msg) : State :=
  s.ownWrite c.tenant (c.words.getD 15 0#64 + BitVec.ofNat 64 (64 * (i % c.leatSize)))
    (leBytes (headerBody m) 32 ++ (List.range 4).flatMap (fun j => leBytes (m.words.getD j 0#64).toNat 8))

/-- A message diverted to a leat; kinds 0 and 2 are refused when only the kept entries are free, the others wait when it is full. -/
def State.diverted (s : State) (tag : Nat) (m : Msg) : Offer :=
  match s.ctx tag with
  | none => .refused 2
  | some c =>
    let n := s.leatEntries m
    let free := c.leatSize - (c.leatTail - c.leatHead)
    if (m.kind = 0 ∨ m.kind = 2) ∧ free ≤ c.leatSize / 8 then .refused 1
    else if free < n then .full
    else
      let s := (List.range n).foldl (fun s i => s.writeLeat c (c.leatTail + i) m) s
      .taken (s.modCtx tag (fun c => { c with leat := c.leat ++ [m], leatTail := c.leatTail + n }))

/-- The leat of a resumed context replayed in ring order as far as there is room; a replay never refuses. -/
def State.replay (s : State) (tag : Nat) : Nat → State
  | 0 => s
  | n + 1 =>
    match (s.ctx tag).map (·.leat) with
    | some (m :: rest) =>
      match s.offer tag m with
      | .taken s' =>
        (s'.modCtx tag (fun c => { c with leat := rest, leatHead := c.leatHead + s.leatEntries m })).replay tag n
      | _ => s
    | _ => s

/-- R327: a leat that is wholly full is signalled to Primrose once (report 17), which brings its context in at the next switch. -/
def State.leatFull (s : State) (tag : Nat) : State :=
  if ((s.ctx tag).map (·.urgent)).getD true then s
  else (s.modCtx tag (fun c => { c with urgent := true })).emit (.report 17 (BitVec.ofNat 64 tag))

/-! The ejection unit. -/

/-- A place for which messages wait. -/
inductive Place where
  | channel (core ch : Nat)
  | inbox (core level : Nat)
  | governor (die : Nat)
  | barrier (unit : Nat)
  | leat (tag : Nat)
  | start (tag : Nat)
  | nowhere
  deriving DecidableEq, Repr

/-- The handlers that the X9 starts on a core where it stands (R199, R255, R333); they cross no sub-mesh. -/
def isHandler (m : Msg) : Bool :=
  match m.ev with | .fixedAtomic _ => true | .userAtomic _ => true | .collective _ _ => m.kind == 1 | _ => false

/-- The place that a message asks for (R250, R326). -/
def State.placeOf (s : State) (m : Msg) : Place :=
  let t := msgTarget m
  let box : Place := .inbox t m.level
  match s.goal m with
  | .divert tag => .leat tag
  | .wait => .start m.ltag
  | .refuse => .nowhere
  | .deliver _ =>
    match m.kind with
    | 0 => match (s.core t).channelOfClass m.cls with | some ch => .channel t ch | none => box
    | 2 => match (s.core t).channelFor s.pkg m.src m.cls with | some ch => .channel t ch | none => .nowhere
    | 8 => .barrier (m.words.getD 0 0#64).toNat
    | _ => if m.gov then .governor (dieOf t) else box

/-- Whether a held message waits for the same place as another (R250, R326: oldest first). -/
def State.sameWait (s : State) (a b : Msg) : Bool := s.placeOf a == s.placeOf b && s.placeOf a != .nowhere

/-- A message decided at its router (R326), with the state in which it has to be offered again when that is so. -/
def State.decide_ (s : State) (router : Nat) (m : Msg) (held : List Msg) : Except State State :=
  match s.goal m with
  | .wait => .error s
  | .refuse =>
    if m.kind = 0 ∨ m.kind = 2 then .ok (s.refuse router m 2)
    else if m.kind = 3 ∨ m.kind = 8 then .ok s
    else
      match m.ev with
      | .package p => (match s.packageRefused p with | some s => .ok s | none => .error s)
      | _ => .ok (s.undelivered m)
  | .divert tag =>
    if m.kind != 0 && m.kind != 2 && held.any (fun h => s.sameWait h m) then .error s
    else
      match s.diverted tag m with
      | .taken s => .ok s
      | .refused r => .ok (s.refuse router m r)
      | .full => .error (s.leatFull tag)
  | .deliver tag =>
    let s := s.replay tag (((s.ctx tag).map (·.leat.length)).getD 0)
    let behind := held.any (fun h => s.sameWait h m)
    let toBox := m.kind == 0 && ((s.core (msgTarget m)).channelOfClass m.cls).isNone
    if ((s.ctx tag).map (fun c => !c.leat.isEmpty)).getD false || (behind && !toBox) then .error s
    else
      match s.offer tag m with
      | .taken s => .ok s
      | .refused r => .ok (s.refuse router m r)
      | .full => .error s

/-- The held messages of a router offered again, oldest first. -/
def State.drainHold (s : State) (router : Nat) : List Msg → List Msg → State
  | kept, [] => s.modRouter router (fun r => { r with hold := kept })
  | kept, m :: rest =>
    match s.decide_ router m kept with
    | .ok s => s.drainHold router kept rest
    | .error s => s.drainHold router (kept ++ [m]) rest

/-- A message taken from the network: decided, or put in the hold store when that has room (R326); one whose launch has still to start on its tile waits in
the router (13 R356). An error is a message that has to be deflected. -/
def State.take (s : State) (router : Nat) (m : Msg) : Except State State :=
  let hold := (s.router router).hold
  if m.blank then .ok s
  else
  match s.decide_ router m hold with
  | .ok s => .ok s
  | .error s =>
    if s.goal m = .wait ∨ (hold.filter (fun h => s.goal h != .wait)).length < 8 then .ok (s.modRouter router (fun r => { r with hold := r.hold ++ [m] }))
    else .error s

/-- The key of a message's pair at its target router (R324). -/
def expectKey (m : Msg) : Nat := pairKey m.kind m.ltag m.src.pkg (coreKey m.src.space m.src.core) (msgTarget m)

def State.expected (s : State) (router : Nat) (m : Msg) : Bool := kgetD (s.router router).expect (expectKey m) 0 == m.pseq

/-- Whether the number of a message has been consumed already: one that a failed connection carried may have come (14 R399). -/
def State.stale (s : State) (router : Nat) (m : Msg) : Bool :=
  decide (2048 ≤ (m.pseq + 4096 - kgetD (s.router router).expect (expectKey m) 0 % 4096) % 4096)

def State.passed (s : State) (router : Nat) (m : Msg) : State :=
  s.modRouter router (fun r => { r with expect := kset r.expect (expectKey m) ((m.pseq + 1) % 4096) })

/-- Whether a message may be decided: channel words are consumed once what they release has been performed (10 R299). -/
def State.decidable (s : State) (m : Msg) : Bool := m.kind != 2 || s.afterDone m.after

/-- The window releases the messages that their pairs now expect (R324); one for which the hold store has no room stays, and holds back no other pair. -/
def State.releaseWindow (s : State) (router : Nat) : Nat → State
  | 0 => s
  | n + 1 =>
    match (s.router router).window.findSome? (fun m =>
        if s.expected router m && s.decidable m then
          (match s.take router m with
           | .ok t => some ((t.modRouter router (fun r => { r with window := r.window.erase m })).passed router m)
           | .error _ => none)
        else none) with
    | none => s
    | some s => s.releaseWindow router n

/-- A message that was refused before it reached its target leaves a blank one, which consumes its number there (R324). -/
def voidOf (m : Msg) : Msg := { m with blank := true, words := [], after := [], ev := .task }

/-- The number of a message of this package that is refused on its way consumed at its target. -/
def State.consume (s : State) (router : Nat) (m : Msg) : State :=
  if m.ordered then s.modRouter router (fun r => { r with window := r.window ++ [voidOf m] }) else s

/-- A message for another package at its Sluice (14 R396, R397). One that cannot leave is refused; its number is consumed by a blank that goes before the
next message of its pair that can (R324). -/
def State.outgoing (s : State) (router : Nat) (m : Msg) : State :=
  let cls := if !m.ordered && (m.kind == 0 || m.kind == 2) then 2 else 1
  let mine := s.voids.filter (fun v => m.ordered && expectKey v == expectKey m && v.dpkg == m.dpkg)
  match (mine ++ [m]).foldl (fun (t : Option State) v => t.bind (fun t => t.sendScale m.dpkg cls (some v) none)) (some { s with voids := s.voids.filter (fun v => !mine.contains v) }) with
  | some s => s
  | none =>
    let s := if m.ordered then { s with voids := s.voids ++ [voidOf m] } else s
    match m.kind with
    | 0 => s.refuse router m 2
    | 2 => s.refuse router m 2
    | 1 => s.undelivered m
    | _ => s

/-- R322, R326: a message that is not taken goes back into the network, flit by flit as outputs are free, and comes to its router again. -/
def State.deflect (s : State) (id router : Nat) (nm : NetMsg) : State :=
  let one (i : Nat) : Flit :=
    { msg := id, router := router, port := 4, age := nm.msg.age, first := i == 0, last := i + 1 == nm.flits, pref := nm.pref, injected := false,
      bounced := true, waited := 0 }
  { s with flits := s.flits ++ (List.range nm.flits).map one, msgs := kset s.msgs id { nm with arrived := 0 } }

/-- R324, R326: a reassembled message at its target router. The kinds that programs never observe (R320 kinds 4 to 7 and 10) end here: the step that waits for
them goes on. A message that leaves the package takes what it releases along. -/
def execMessageEjection (msg : Nat) (s : State) : Out :=
  match kget s.msgs msg with
  | none => event s
  | some nm =>
    let m := nm.msg
    let router := tileAt nm.dcol nm.drow
    let gone (s : State) : State := { s with msgs := kdel s.msgs msg }
    if nm.arrived < nm.flits ∨ m.kind = 8 then event s
    else if m.dpkg ≠ s.pkg then event (if s.afterDone m.after then (gone s).outgoing router m else s)
    else if !confinedKind m.kind then event (gone s)
    else if !s.decidable m then event s
    else if m.blank && s.stale router m then event (gone s)
    else
      let s := s.drainHold router [] (s.router router).hold
      if m.ordered && !s.expected router m then
        event (if m.blank ∨ ((s.router router).window.filter (fun w => !w.blank)).length < 63 then gone (s.modRouter router (fun r => { r with window := r.window ++ [m] }))
        else s.deflect msg router nm)
      else
        match s.take router m with
        | .ok s => event (if m.ordered then ((gone s).passed router m).releaseWindow router 64 else gone s)
        | .error s => event (s.deflect msg router nm)

/-- R267: an arrival at a unit of another die, which waits in the hold store while the member's lead is 3. A context that is switched out or trapped takes it
into its leat (13 R365). -/
def execBarrierArrival (msg : Nat) (s : State) : Out :=
  match kget s.msgs msg with
  | none => event s
  | some nm =>
    let router := tileAt nm.dcol nm.drow
    let gone (s : State) : State := { s with msgs := kdel s.msgs msg }
    if nm.msg.kind ≠ 8 ∨ nm.arrived < nm.flits then event s
    else
      match (s.drainHold router [] (s.router router).hold).take router nm.msg with
      | .ok s => event (gone s)
      | .error s => event (s.deflect msg router nm)

/-- R327: the leats of running contexts replayed on. -/
def State.replayAll (s : State) : State :=
  s.ctxs.foldl (fun s c => if c.2.state == .running && !c.2.leat.isEmpty then s.replay c.1 c.2.leat.length else s) s

/-- R250, R326, R327: a paused replay goes on, and the held messages of a router enter, as room appears. -/
def execHoldStoreEntry (router : Nat) (s : State) : Out :=
  let s := s.replayAll
  event ((s.drainHold router [] (s.router router).hold).releaseWindow router 64)

/-- R188: the end word of a `rankch` job of a launch accepted by one target more; the job has finished when all have accepted it. -/
def State.endAccepted (s : State) (tag : Nat) (job : Option (Nat × Nat)) : State :=
  match job with
  | none => s
  | some (queue, stamp) =>
    let mark (j : Job) : Job :=
      if j.stamp = stamp then
        { j with accepted := j.accepted + 1, finished := j.finished || decide ((channelTargets j.xa).length ≤ j.accepted + 1) }
      else j
    s.modTileOf tag (tileOf (queue / 8)) (fun t => { t with queues := kset t.queues queue ((kgetD t.queues queue []).map mark) })

/-- R328: an acknowledgement of channel words reaches the sender, which may be parked. -/
def execChannelAck (sender target words : Nat) (s : State) : Out :=
  match s.acks.find? (fun a => a.sender == sender && a.target == target && a.words == words && !s.underWay 7 (.token a.token)) with
  | none => event s
  | some a =>
    let s := match a.copy.bind (kget s.copies) with
      | some j => { s with copies := kset s.copies (a.copy.getD 0) { j with boxDone := true } }
      | none => s
    event ((State.endAccepted { s with acks := s.acks.erase a } a.ltag a.job).modCoreOf a.ltag sender (fun c =>
      { c with credit := kset c.credit target (kgetD c.credit target 0 - words) }))

/-- A confined message with a flit at a router without its tenant's bit (R323): refused, or dropped and logged (report 8). -/
def State.strayMessage (s : State) (f : Flit) : State :=
  match kget s.msgs f.msg with
  | none => s
  | some nm =>
    if confinedKind nm.msg.kind && !isHandler nm.msg && !s.inMesh nm.msg.tenant f.router then
      let s := { s with msgs := kdel s.msgs f.msg, flits := s.flits.filter (fun g => g.msg != f.msg) }
      let s := if nm.msg.dpkg = s.pkg then s.consume (tileAt nm.dcol nm.drow) nm.msg
        else if nm.msg.ordered then { s with voids := s.voids ++ [voidOf nm.msg] } else s
      if nm.msg.kind = 0 ∨ nm.msg.kind = 2 then s.answerRefused f.router nm.msg 2 false
      else
        let s := match nm.msg.ev with | .package p => { s with packs := kdel s.packs p } | _ => s
        s.emit (.report 8 nm.msg.item)
    else s

/-! The wheelpits (13 R368, R369). -/

/-- Whether a message is for a context: addressed to a compute core of its footprint or its barrier units, or to one of its tasks elsewhere. -/
def Context.takes (c : Context) (tag : Nat) (m : Msg) : Bool :=
  if m.kind != 8 && isCompute (msgTarget m) then m.tenant == c.tenant && c.foot.contains (msgTarget m) else m.ltag == tag

/-- Whether a router belongs to the partition of a context: the tiles of the contexts that are switched with it (R366), or its own. -/
def State.inPartition (s : State) (tag : Nat) (c : Context) (router : Nat) : Bool :=
  let onTile (c : Context) : Bool := c.foot.any (fun k => tileOf k == router)
  onTile c || s.gangs.any (fun g => let l := g.2.incoming ++ g.2.outgoing; l.contains tag && l.any (fun t => ((s.ctx t).map onTile).getD false))

/-- R369: the flits of a context that are on a link and have reached a router of its partition go into that router's wheelpit, 16 at most. -/
def State.wheelOf (s : State) (tag : Nat) (c : Context) : State :=
  let mine (f : Flit) : Bool := (f.injected || f.bounced) && ((kget s.msgs f.msg).map (fun m => confinedKind m.msg.kind && c.takes tag m.msg)).getD false
  ((flitRouters (s.flits.filter mine)).filter (s.inPartition tag c)).foldl (fun s r =>
    let take := (s.flits.filter (fun f => f.router == r && mine f)).take (16 - (s.router r).wheelpit.length)
    { s with flits := s.flits.filter (fun f => !take.contains f) }.modRouter r (fun x => { x with wheelpit := x.wheelpit ++ take })) s

/-- R368 step 3: the drain of every context that has stopped and is not yet saved. -/
def State.drainLinks (s : State) : State :=
  (s.ctxs.filter (fun c => (c.2.state == .out || c.2.state == .trapped) && c.2.saved.isNone)).foldl (fun s c => s.wheelOf c.1 c.2) s

/-- R321, R322: every router places the flits of its inputs and injects one. A router with a flit that has waited 256 cycles signals its four
neighbours, which inject nothing unless one of theirs has waited as long. Flits of contexts that are being switched out then leave their links. -/
def execRouterFlitPlacement (s : State) : Out :=
  let starved (r : Nat) : Bool := s.flits.any (fun f => f.router == r && !f.injected && !f.bounced && decide (256 ≤ f.waited))
  let parts := (flitRouters s.flits).map (fun r =>
    routerCycle s.mayStart (!starved r && [0, 1, 2, 3].any (fun o => starved (neighbour r o))) ((s.flits.filter (fun f => f.router == r)).map s.viewFlit))
  let out := parts.flatMap (·.1)
  let flits := parts.flatMap (·.2)
  let started := ((out ++ flits).filter (fun f => f.injected || out.contains f)).map (·.msg)
  let msgs := s.msgs.map (fun x =>
    (x.1, { x.2 with msg := { x.2.msg with age := ((out.find? (fun f => f.msg == x.1 && f.first)).map (fun f =>
                       if x.2.edge then min (f.age + 1) 1023 else f.age)).getD x.2.msg.age },
                     arrived := x.2.arrived + (out.filter (fun f => f.msg == x.1)).length,
                     tag := if x.2.tag.isNone && started.contains x.1 then some (s.freeTag x.2.src) else x.2.tag }))
  let s := { s with flits := flits, msgs := msgs }
  event (flits.foldl State.strayMessage s).drainLinks

end Sys2Proof.Machine
end

