-- ==== Sys2Proof/Machine/Copies.lean ====
section
/-! DEFINITION. The copy unit (spec 07 R223 to R230; 11 R308 to R316): pushes, statuses, layout programs, segments and completion. -/

namespace Sys2Proof.Machine

/-! Job identities and statuses (07 R224, R227). -/

/-- The identity of a core's next push to an engine. -/
def State.jobIdent (s : State) (core engine : Nat) : Nat :=
  ((s.core core).pushes + 1) % 65536 + engine * 2 ^ 16 + keyId core * 2 ^ 20 + keySpace core * 2 ^ 32

/-- A push counted: the identity goes to xd, `cpc` goes up, the pending descriptor is taken by the caller. -/
def State.countPush (s : State) (c : Ctx) (ident : Nat) : State :=
  (s.modCore c.core (fun k => { k with pushes := k.pushes + 1 })).modTop c.core (fun f =>
    (f.modLv (fun l => { l with cpc := l.cpc + 1 })).xSet (fieldA c.w) (BitVec.ofNat 64 ident))

/-- A status held for its level: the earliest of 32 gives way (R227). -/
def Core.holdStatus (c : Core) (j : JobStatus) : Core :=
  let here := c.statuses.filter (fun x => x.level == j.level)
  let l := if 32 ≤ here.length then (match here.head? with | some x => c.statuses.erase x | none => c.statuses) else c.statuses
  { c with statuses := l ++ [j] }

/-- An engine job of a task ends with a status (R207, R211, R227): `cpc` goes down and the status is held while its task is on the stack;
a failure is reported, a success releases the successor. -/
def State.endJob (s : State) (core level task ltag ident engine status : Nat) (item : Word) (succ : Option Descr) (after : List Nat)
    (fail : Word) : State :=
  let live := (s.frameOf core task).isSome
  let s := s.modTask core task (fun f => f.modLv (fun l => { l with cpc := l.cpc - 1 }))
  let s := if live then s.modCore core (fun c => c.holdStatus { level := level, engine := engine, job := ident, status := status }) else s
  if status ≤ 2 then
    match succ with
    | some d => s.release core ltag item d after
    | none => s
  else s.report ltag status 0 item (BitVec.ofNat 64 ident) fail

/-- Whether a job of a level is still under way. -/
def State.jobPending (s : State) (core level ident : Nat) : Bool :=
  s.copies.any (fun j => j.2.core == core && j.2.level == level && j.2.ident == ident) ||
    s.colls.any (fun g => g.2.cmds.any (fun x => !x.lost && x.core == core && x.level == level && x.ident == ident)) ||
    s.ueJobs.any (fun j => j.2.core == core && j.2.level == level && j.2.ident == ident)

/-- A status popped (R227): 0 while the job runs, 15 when none is held. -/
def State.popStatus (s : State) (c : Ctx) (engines : List Nat) : State :=
  let ident := c.xb.toNat
  let engine := field c.xb 19 16
  if !engines.contains engine then s.writeX c (fieldA c.w) 15#64
  else if s.jobPending c.core c.f.level ident then s.writeX c (fieldA c.w) 0#64
  else
    match (s.core c.core).statuses.find? (fun x => x.level == c.f.level && x.engine == engine && x.job == ident) with
    | some x => (s.modCore c.core (fun k => { k with statuses := k.statuses.erase x })).writeX c (fieldA c.w) (BitVec.ofNat 64 x.status)
    | none => s.writeX c (fieldA c.w) 15#64

def execCpytst (w : Bundle) (s : State) : Out := bundle .cpytst w s (fun c s => s.popStatus c [1, 2])
def execUepop (w : Bundle) (s : State) : Out := bundle .uepop w s (fun c s => s.popStatus c [3])

/-! Layout programs (R228, 11 R313). -/

def execLxload (w : Bundle) (s : State) : Out :=
  bundle .lxload w s (fun c s =>
    let a := c.xa
    let tenant := s.tenantOf c.f.ltag
    if a.toNat % 8 ≠ 0 then s.exact c.core .misalign a
    else
      match s.readV c.core tenant a 8 .load with
      | (.fault cause va, s) => s.exact c.core cause va
      | (.wait p n, s) => s.requestBytes c.core tenant p n
      | (.busy, s) => s
      | (.ecc va, s) => s.eccRead c va
      | (.ok b, s) =>
        let head := leValue b
        let n := bitsOf head 8 4
        if n = 0 ∨ 16 < n then s.exact c.core .header a
        else
          match s.readV c.core tenant (a + 8#64) (8 * n) .load with
          | (.fault cause va, s) => s.exact c.core cause va
          | (.wait p n, s) => s.requestBytes c.core tenant p n
          | (.busy, s) => s
          | (.ecc va, s) => s.eccRead c va
          | (.ok b, s) =>
            let ops := (List.range n).map (recWord b)
            if !programOk ops then s.exact c.core .header a
            else (s.modTile (tileOf c.core) (fun t => { t with layouts := kset t.layouts (head % 16) ops })).advance c)

/-! Pushes (R224, R225). -/

def State.pushCopy (s : State) (c : Ctx) (words : List Word) : State :=
  let cmd := copyCmd words
  let prog := kget (s.tile (tileOf c.core)).layouts cmd.slot
  if copyBad words (tileOf c.core) s.pkg prog then s.exact c.core .header 0#64
  else if 32 ≤ c.f.lv.cpc then s
  else
    s.beforeRelease c 2 [] (fun s =>
      let after := s.unperformed c.core
      let (succ, s) := s.takePending c.core
      let ident := s.jobIdent c.core 1
      let s := s.countPush c ident
      if cmd.empty then (s.endJob c.core c.f.level c.f.task c.f.ltag ident 1 1 c.f.item succ after 0#64).advance c
      else
        let id := s.fresh.1
        let s := s.fresh.2
        let j : CopyJob :=
          { core := c.core, level := c.f.level, task := c.f.task, item := c.f.item, ltag := c.f.ltag, tenant := s.tenantOf c.f.ltag,
            ident := ident, words := words, succ := succ, segs := [], planned := false, startCycle := none, status := none,
            failAddr := 0#64, boxSent := false, acks := [], mfail := 0, prog := if cmd.lay then prog.getD [] else [], fsb := c.f.fsb,
            fscr := c.f.fscr, after := after }
        { s with copies := kset s.copies id j }.advance c)

def execCpy (w : Bundle) (s : State) : Out :=
  bundle .cpy w s (fun c s => s.pushCopy c (c.f.xRange (fieldB w) 4 ++ [0#64, 0#64, 0#64, 0#64]))
def execCpyx (w : Bundle) (s : State) : Out := bundle .cpyx w s (fun c s => s.pushCopy c (c.f.xRange (fieldB w) 8))

/-! Places (R225, R308, R316). -/

/-- The region that a scratch reference names on a tile: the launch that holds the tile gives its table (R225). -/
def State.refRegion (s : State) (j : CopyJob) (tile sel off n : Nat) : Except Nat Loc :=
  if !s.inMesh j.tenant tile then .error failedTenant
  else if (s.die (dieOfTile tile)).inReset then .error failedAbsent
  else if sel = 15 then
    if tile = tileOf j.core then (if off + n ≤ j.fscr then .ok (.array tile (j.fsb + off)) else .error failedXlate) else .error failedAbsent
  else
    match s.ctx (s.tile tile).launch with
    | none => .error failedAbsent
    | some c =>
      if c.tenant ≠ j.tenant then .error failedTenant
      else
        let e := c.allocEntry tile sel
        let holder := if bitOf e 23 then bitsOf e 32 24 else tile
        let h := c.allocEntry holder sel
        if bitsOf h 19 10 = 0 then .error failedAbsent
        else if 512 * bitsOf h 19 10 < off + n then .error failedXlate
        else .ok (.array holder (512 * bitsOf h 9 0 + off))

/-- The first address of the code by which the model addresses scratch of another package: tile at bit 40, base at bit 36, offset below
(log entry 22). -/
def scratchBase : Nat := 2 ^ 56

/-- The place that a scratch reference names on a tile of its package: this one, or another (R225). -/
def State.refPlace (s : State) (j : CopyJob) (ref : Word) (tile d n : Nat) : Except Nat Loc :=
  if field ref 42 33 ≠ s.pkg then .ok (.global 3 (field ref 42 33) (scratchBase + tile * 2 ^ 40 + field ref 23 20 * 2 ^ 36 + field ref 18 0 + d))
  else s.refRegion j tile (field ref 23 20) (field ref 18 0 + d) n

/-- The places of a run in scratch. -/
def State.refPlaces (s : State) (j : CopyJob) (ref : Word) (d n : Nat) : Except Nat (List (Loc × Nat)) :=
  (s.refPlace j ref (field ref 32 24) d n).map (fun l => [(l, n)])

/-- The status that stands for a segment end that has to wait: an `ahnd` handler holds a word of its tables (07 R200). -/
def endWaits : Nat := 0

/-- The status of an address that has no place (R227). -/
def NoPhys.status : NoPhys → Nat
  | .cause _ => failedXlate
  | .held => endWaits
  | .ecc => failedEcc

/-- The places of a run of virtual bytes, line by line. -/
def State.vaPlaces (s : State) (j : CopyJob) (need : Need) : List (Word × Nat) → Except (Nat × Word) (List (Loc × Nat)) × State
  | [] => (.ok [], s)
  | (va, n) :: rest =>
    match s.translate j.core j.tenant va need with
    | (.error e, s) => (.error (e.status, va), s)
    | (.ok p, s) =>
      if p.isRegister then (.error (failedXlate, va), s)
      else if p.policy < 3 && s.homeDown p.policy p.home p.pa then (.error (failedAbsent, va), s)
      else if need == .load && p.policy < 3 && s.lineBad p.policy p.home (p.pa / 64) then (.error (failedEcc, va), s)
      else
        match s.vaPlaces j need rest with
        | (.ok l, s) => (.ok ((.global p.policy p.home p.pa, n) :: l), s)
        | r => r

/-- The places of the runs of a segment at one end: each a displacement from the end's address. -/
def State.runPlaces (s : State) (j : CopyJob) (scr : Bool) (base : Word) (need : Need) :
    List (Nat × Nat) → Except (Nat × Word) (List (Loc × Nat)) × State
  | [] => (.ok [], s)
  | (d, n) :: rest =>
    let here : Except (Nat × Word) (List (Loc × Nat)) × State :=
      if scr then
        (match s.refPlaces j base d n with | .ok l => .ok l | .error e => .error (e, base), s)
      else s.vaPlaces j need (linePieces (base + BitVec.ofNat 64 d) n (n / 64 + 2))
    match here with
    | (.error e, s) => (.error e, s)
    | (.ok l, s) =>
      match s.runPlaces j scr base need rest with
      | (.ok m, s) => (.ok (l ++ m), s)
      | r => r

/-- The masked tiles of a multicast (R316). -/
def CopyJob.masked (j : CopyJob) : List Nat :=
  let die := dieOfTile (field (j.words.getD 1 0#64) 32 24)
  ((List.range 64).filter (fun i => bitOf (copyCmd j.words).tiles i)).map (fun i => 64 * die + i)

/-- The places of a multicast: those of every masked tile of the package that the reference names that can be written, with the lowest status of the
others (R225, R316). -/
def State.castPlaces (s : State) (j : CopyJob) (runs : List (Nat × Nat)) : List (Loc × Nat) × Nat :=
  let ref := j.words.getD 1 0#64
  let one (t : Nat) : Except Nat (List (Loc × Nat)) :=
    runs.foldl (fun acc r =>
      match acc, s.refPlace j ref t r.1 r.2 with
      | .ok l, .ok p => .ok (l ++ [(p, r.2)])
      | .error e, _ => .error e
      | _, .error e => .error e) (.ok [])
  j.masked.foldl (fun acc t =>
    match one t with
    | .ok l => (acc.1 ++ l, acc.2)
    | .error e => (acc.1, if acc.2 = 0 then e else min acc.2 e)) ([], 0)

/-! Segments (R308 to R310). -/

def CopyJob.cmd (j : CopyJob) : CopyCmd := copyCmd j.words

/-- The virtual addresses of the ends of a job. -/
def CopyJob.srcVa (j : CopyJob) : Option Nat := if j.cmd.ssc then none else some (j.words.getD 0 0#64).toNat
def CopyJob.dstVa (j : CopyJob) : Option Nat := if j.cmd.dsc || j.cmd.dch then none else some (j.words.getD 1 0#64).toNat

/-- The segments of a job before any has started. -/
def CopyJob.plan (j : CopyJob) : CopyJob :=
  if j.planned then j
  else
    { j with planned := true,
             segs := (copySegments j.cmd j.prog j.srcVa j.dstVa ((j.words.getD 0 0#64).toNat % 8)).map (fun p =>
               { reads := p.1, writes := p.2, started := false, src := [], dst := [], data := [], left := 0, wrote := false }) }

/-- Whether a segment is in flight: started, not yet performed. -/
def Segment.flying (x : Segment) : Bool := x.started && !(x.wrote && x.left == 0)
def Segment.over (x : Segment) : Bool := x.wrote && x.left == 0

/-- Whether two lists of places share a byte. -/
def placesMeet (a b : List (Loc × Nat)) : Bool := a.any (fun x => b.any (fun y => locsMeet x.1 x.2 y.1 y.2))

/-- Whether a segment writes bytes of the aligned 8-byte unit in which a place lies. -/
def Segment.touches (x : Segment) (l : Loc) : Bool := x.dst.any (fun p => locsMeet p.1 p.2 l.unit 8)

/-- Whether a segment of a job, or one that writes a unit together with it, is in flight. -/
def CopyJob.inFlight (j : CopyJob) (x : Segment) : Bool :=
  x.flying || (x.started && j.segs.any (fun y => y.flying && y.dst.any (fun p => x.touches p.1 || x.touches (p.1.shift (p.2 - 1)))))

/-- R309: whether an earlier job of the same core has a segment in flight that a new one would overtake. -/
def State.copyBlocked (s : State) (id : Nat) (j : CopyJob) (src dst : List (Loc × Nat)) : Bool :=
  s.copies.any (fun k => decide (k.1 < id) && k.2.core == j.core &&
    k.2.segs.any (fun x => k.2.inFlight x && (placesMeet dst x.src || placesMeet dst x.dst || placesMeet src x.dst)))

/-- The pseudo core under which accesses of a copy job to other packages and the host are kept (log entry 22). -/
def copyCore (id : Nat) : Nat := 131072 + id

/-- An access of a segment to another package or the host. -/
def State.copyOp (s : State) (id seg : Nat) (j : CopyJob) (kind : OpKind) (loc : Loc) (ix n data : Nat) : State :=
  let op := s.fresh.1
  let o : MemOp :=
    { core := copyCore id, level := j.level, task := 0, item := j.item, ltag := j.ltag, tenant := j.tenant, pc := 0, kind := kind,
      dest := .copy id seg, ord := 0, vec := false, elems := [Elem.new ix loc 0 n data], fault := none, handler := none }
  { s.fresh.2 with ops := kset s.fresh.2.ops op o }

def Loc.far : Loc → Bool
  | .global p _ _ => decide (3 ≤ p)
  | .array _ _ => false

/-- Bytes at a place of this package. -/
def State.readLoc (s : State) (l : Loc) (n : Nat) : List Byte :=
  match l with
  | .global p h pa => s.readHome p h pa n
  | .array t off => memGetBytes (s.tile t).array off n

/-- Bytes written at a place of this package; both are uses of the line (10 R289). -/
def State.writeLoc (s : State) (l : Loc) (b : List Byte) : State :=
  match l with
  | .global p h pa => (s.useLine p h (pa / 64) false).writeHome p h pa b
  | .array t off => s.modTile t (fun x => { x with array := memSetBytes x.array off b })

/-- The places read: bytes of this package at once, the others asked for and counted. -/
def State.readPlaces (s : State) (id seg : Nat) (j : CopyJob) (ix : Nat) : List (Loc × Nat) → List Byte × Nat × State
  | [] => ([], 0, s)
  | (l, n) :: rest =>
    if l.far then
      let r := (s.copyOp id seg j .load l ix n 0).readPlaces id seg j (ix + n) rest
      (List.replicate n 0#8 ++ r.1, r.2.1 + 1, r.2.2)
    else
      let r := (match l with | .global p h pa => s.useLine p h (pa / 64) false | .array _ _ => s).readPlaces id seg j (ix + n) rest
      (s.readLoc l n ++ r.1, r.2.1, r.2.2)

/-- Runs of bytes written at their places. -/
def State.writeRuns (s : State) (id seg : Nat) (j : CopyJob) : List (Loc × List Byte) → Nat × State
  | [] => (0, s)
  | (l, b) :: rest =>
    if l.far then
      let r := (s.copyOp id seg j .store l 0 b.length (leValue b)).writeRuns id seg j rest
      (r.1 + 1, r.2)
    else (s.writeLoc l b).writeRuns id seg j rest

def State.setCopy (s : State) (id : Nat) (j : CopyJob) : State := { s with copies := kset s.copies id j }

def CopyJob.setSeg (j : CopyJob) (i : Nat) (x : Segment) : CopyJob := { j with segs := j.segs.mapIdx (fun k y => if k = i then x else y) }

/-- The core that stands for the streamer or the home of a place (R308). -/
def State.placeHome (s : State) (l : Loc) : Nat :=
  match l with
  | .array t _ => 8 * (t % 512)
  | .global 3 peer _ => coreKey 2 (64 * s.connDie (connKey peer 0))
  | .global 4 _ _ => coreKey 2 0
  | .global p home _ => if isTilePolicy p then 8 * home else coreKey 1 (16 * home)

/-- The tiles that relay a multicast: the lowest masked one of each super-group (R316). -/
def CopyJob.relays (j : CopyJob) : List Nat := j.masked.filter (fun t => !j.masked.any (fun u => decide (u < t) && superGroupOf u == superGroupOf t))

/-- R308, R320: the data of a segment sets out for its destination, as messages of up to 16 data flits. -/
def State.sendCopyData (s : State) (id i : Nat) (j : CopyJob) (x : Segment) : State :=
  match x.src, x.dst with
  | (a, _) :: _, (b, _) :: _ =>
    let n := (x.src.map (·.2)).foldl (· + ·) 0
    let from_ := s.placeHome a
    let ends := if j.cmd.mcast && !b.far then j.relays.map (8 * ·) else [s.placeHome b]
    (ends.filter (· != from_)).foldl (fun s t =>
      (List.range (ceilDiv n 512)).foldl (fun s k => s.sendInternal 6 from_ t (ceilDiv (min 512 (n - 512 * k)) 32) j.ltag (.segment id i)) s) s
  | _, _ => s

/-- Whether a handler of `ahnd` holds bytes of some places (07 R200). -/
def State.placesHeld (s : State) (l : List (Loc × Nat)) : Bool := l.any (fun p => s.heldByHandler 0 p.1 p.2)

/-- The two ends of a segment: its source places, its destination places with the status of a multicast's failed tiles. -/
def State.segmentEnds (s : State) (j : CopyJob) (x : Segment) :
    Except (Nat × Word) (List (Loc × Nat)) × Except (Nat × Word) (List (Loc × Nat)) × Nat × State :=
  let cmd := j.cmd
  let (from_, s) := s.runPlaces j cmd.ssc (j.words.getD 0 0#64) .load x.reads
  if cmd.dch then (from_, .ok [], 0, s)
  else if cmd.mcast then let r := s.castPlaces j x.writes; (from_, .ok r.1, r.2, s)
  else let r := s.runPlaces j cmd.dsc (j.words.getD 1 0#64) .store x.writes; (from_, r.1, 0, r.2)

/-- Whether a segment cannot start now: its tables or its source are held by an `ahnd` handler, or an earlier job of the core stands in its way (R309). -/
def State.segmentBlocked (s : State) (id : Nat) (j : CopyJob) (x : Segment) : Bool :=
  match s.segmentEnds j x with
  | (.ok src, .ok dst, _, _) => s.copyBlocked id j src dst || s.placesHeld src
  | (.error e, .ok _, _, _) => e.1 == endWaits
  | (.ok _, .error e, _, _) => e.1 == endWaits
  | (.error e, .error f, _, _) => e.1 == endWaits || f.1 == endWaits

/-- Whether a job has a segment to start. -/
def CopyJob.waits (j : CopyJob) : Bool := j.status.isNone && (!j.planned || j.segs.any (fun x => !x.started))

/-- Whether a job's next segment could start now. -/
def State.copyFree (s : State) (id : Nat) (j : CopyJob) : Bool :=
  let j := j.plan
  match j.segs.find? (fun x => !x.started) with
  | some x => !s.segmentBlocked id j x
  | none => true

/-- R308: the job whose turn it is: the cores of a tile take turns, and within a core's turn the highest level is served whose first waiting job is not
held back (R309, log entry 21). -/
def State.copyTurnOf (s : State) (tile : Nat) : Option Nat :=
  let turn := (s.tile tile).copyTurn
  let here (k : Nat) : List (Nat × CopyJob) := s.copies.filter (fun j => j.2.core == k && j.2.waits && !s.parked j.2.ltag && s.afterDone j.2.after)
  let firsts (k : Nat) : List (Nat × CopyJob) := (here k).filter (fun j => ((here k).find? (fun i => i.2.level == j.2.level)).map (·.1) == some j.1)
  ((List.range 8).map (fun i => 8 * tile + (turn + 1 + i) % 8)).findSome? (fun k =>
    ((sortBy (fun (a b : Nat × CopyJob) => decide (b.2.level < a.2.level)) (firsts k)).find? (fun j => s.copyFree j.1 j.2)).map (·.1))

/-- R308: the next segment of a job starts: both ends are translated, the source is read. -/
def State.startSegment (s : State) (id : Nat) (j : CopyJob) (i : Nat) (x : Segment) : State :=
  match s.segmentEnds j x with
  | (.error e, .error f, _, s) => s.setCopy id ((j.fail s.cycle e.1 e.2).fail s.cycle f.1 f.2)
  | (.error e, .ok _, _, s) => s.setCopy id (j.fail s.cycle e.1 e.2)
  | (.ok _, .error f, _, s) => s.setCopy id (j.fail s.cycle f.1 f.2)
  | (.ok src, .ok dst, mfail, s) =>
      let r := s.readPlaces id i j 0 src
      let x := { x with started := true, src := src, dst := dst, data := r.1, left := r.2.1 }
      let j := { j.setSeg i x with startCycle := some (j.startCycle.getD s.cycle),
                                   mfail := if mfail = 0 then j.mfail else if j.mfail = 0 then mfail else min mfail j.mfail }
      ((r.2.2.setCopy id j).sendCopyData id i j x).modTile (tileOf j.core) (fun t => { t with copyTurn := j.core % 8 })

/-- R308, R309: the copy unit starts a segment of the job whose turn it is. -/
def execCopySegmentStart (job : Nat) (s : State) : Out :=
  match kget s.copies job with
  | none => event s
  | some j =>
    if s.stilled j.core = true ∨ s.copyTurnOf (tileOf j.core) ≠ some job then event s
    else
      let j := j.plan
      match j.segs.findIdx? (fun x => !x.started) with
      | some i => event (match j.segs[i]? with | some x => s.startSegment job j i x | none => s)
      | none => event (s.setCopy job j)

/-! What segments write. -/

/-- The bytes that the job writes, when it converts or rearranges; `openScale` gives the scales that the spec leaves open. -/
def CopyJob.laidOut (j : CopyJob) (openScale : Nat → Nat) : List Byte :=
  (boxWrites j.cmd j.prog openScale (j.segs.flatMap (·.data))).flatMap id

/-- The length of a list of runs. -/
def runsLength (l : List (Nat × Nat)) : Nat := (l.map (·.2)).foldl (· + ·) 0

/-- Whether a segment has read its source. -/
def Segment.hasRead (x : Segment) : Bool := x.started && (x.left == 0 || x.wrote)

/-- The bytes that a job has read, in order, with zeros for those still to come. -/
def CopyJob.stream (j : CopyJob) : List Byte :=
  j.segs.flatMap (fun x => if x.started then x.data else List.replicate (runsLength x.reads) 0#8)

/-- Where the bytes that a segment writes begin among all that the job writes. -/
def CopyJob.writeFrom (j : CopyJob) (i : Nat) : Nat := ((j.segs.take i).map (fun y => runsLength y.writes)).foldl (· + ·) 0

/-- What a segment of a job writes. -/
def CopyJob.segmentBytes (j : CopyJob) (openScale : Nat → Nat) (i : Nat) (x : Segment) : List Byte :=
  ((if j.cmd.plain then j.stream else j.laidOut openScale).drop (j.writeFrom i)).take (runsLength x.writes)

/-- Whether everything that a segment of a plain job writes has been read. -/
def CopyJob.supplied (j : CopyJob) (i : Nat) : Bool :=
  let a := j.writeFrom i
  let n := runsLength ((j.segs[i]?.map (·.writes)).getD [])
  (List.range j.segs.length).all (fun k =>
    match j.segs[k]? with
    | some y => y.hasRead || !overlaps a n (((j.segs.take k).map (fun z => runsLength z.reads)).foldl (· + ·) 0) (runsLength y.reads)
    | none => true)

/-- Whether two segments write bytes of one aligned 8-byte unit. -/
def CopyJob.shareUnit (j : CopyJob) (x y : Segment) : Bool :=
  let b := (j.words.getD 1 0#64).toNat % 8
  x.writes.any (fun p => y.writes.any (fun q =>
    decide (0 < p.2) && decide (0 < q.2) && decide ((b + p.1) / 8 ≤ (b + q.1 + q.2 - 1) / 8) && decide ((b + q.1) / 8 ≤ (b + p.1 + p.2 - 1) / 8)))

/-- The source places that a job has still to read. -/
def State.unreadPlaces (s : State) (j : CopyJob) : List (Loc × Nat) :=
  (j.segs.filter (fun x => !x.hasRead)).flatMap (fun x =>
    if x.started then x.src else match (s.runPlaces j j.cmd.ssc (j.words.getD 0 0#64) .load x.reads).1 with | .ok l => l | .error _ => [])

/-- Whether a segment may be performed: what it writes has been read, and, since a copy that overlaps itself reads before it writes (07 R230), so has
everything that its write would change. A job that converts or rearranges has read everything. -/
def State.segmentReady (s : State) (j : CopyJob) (i : Nat) (x : Segment) : Bool :=
  if !j.cmd.plain then j.segs.all Segment.hasRead
  else
    let group := (List.range j.segs.length).filter (fun k => k == i || ((j.segs[k]?.map (fun y => j.shareUnit x y)).getD false))
    let segs := group.filterMap (fun k => j.segs[k]?)
    group.all j.supplied && segs.all (·.started) && !placesMeet (segs.flatMap (·.dst)) (s.unreadPlaces j)

/-- Bytes laid over places, one by one. -/
def cellsOf (b : List Byte) : List (Loc × Nat) → List (Loc × Byte)
  | [] => []
  | (l, n) :: rest => (b.take n).mapIdx (fun k v => (l.shift k, v)) ++ cellsOf (b.drop n) rest

/-- The bytes of a segment at their places, once for each tile of a multicast. -/
def CopyJob.segmentCells (j : CopyJob) (openScale : Nat → Nat) (i : Nat) (x : Segment) : List (Loc × Byte) :=
  let copies := if j.cmd.mcast then x.dst.length / max 1 x.writes.length else 1
  cellsOf ((List.replicate copies (j.segmentBytes openScale i x)).flatMap id) x.dst

/-- The bytes that are performed together with a segment: those of the aligned 8-byte units that no earlier segment of the job writes, the bytes of later
segments in them included, so that a unit is never torn (R309). -/
def CopyJob.performed (j : CopyJob) (openScale : Nat → Nat) (i : Nat) : List (Loc × Byte) :=
  (j.segs.mapIdx (fun k x =>
    if i ≤ k then (j.segmentCells openScale k x).filter (fun c => j.segs.findIdx (·.touches c.1) == i) else [])).flatMap id

/-- Neighbouring bytes of one line taken together. -/
def joinCells (l : List (Loc × Byte)) : List (Loc × List Byte) :=
  l.foldr (fun c acc =>
    match acc with
    | (m, bs) :: rest => if m = c.1.shift 1 ∧ m.line = c.1.line ∧ bs.length < 64 then (c.1, c.2 :: bs) :: rest else (c.1, [c.2]) :: acc
    | [] => [(c.1, [c.2])]) []

/-- The channel targets of a job (07 R225, R188). -/
def CopyJob.targets (j : CopyJob) : List Nat := channelTargets (j.words.getD 1 0#64)
def CopyJob.targetPkg (j : CopyJob) : Nat := field (j.words.getD 1 0#64) 21 12

/-- R328, R188: the next words of a segment of a copy to a channel go out when every target can take them; bytes short of a word go over to the next
segment. -/
def State.streamSegment (s : State) (id i : Nat) (j : CopyJob) (x : Segment) : State :=
  let v := j.words.getD 1 0#64
  let last := decide (j.segs.length ≤ i + 1)
  let n := min 32 (if last then x.data.length else x.data.length / 8 * 8)
  let words := (chunksOf 8 (x.data.take n) 4).map (fun b => BitVec.ofNat 64 (leValue b))
  if j.targets.any (fun k => s.outsideMesh j.ltag { core := k, pkg := j.targetPkg, gov := false }) then s.setCopy id (j.fail s.cycle failedTenant v)
  else if n = 0 then
    if last then
      if j.targets.all (fun k => s.unacked j.core j.targetPkg k == 0) then s.setCopy id (j.setSeg i { x with wrote := true }) else s
    else
      match j.segs[i + 1]? with
      | some y =>
        if y.started && y.left == 0 then
          s.setCopy id ((j.setSeg i { x with data := [], wrote := true }).setSeg (i + 1) { y with data := x.data ++ y.data })
        else s
      | none => s
  else if j.targets.any (fun k => decide (32 < s.unacked j.core j.targetPkg k + words.length)) then s
  else
    (j.targets.foldl (fun s k =>
      s.sendWords j.core j.targetPkg k (field v 25 22) j.level j.ltag j.item words false true 6 (.fromCopy id) []) s).setCopy id
      (j.setSeg i { x with data := x.data.drop n })

/-- The bytes of a copy to a channel that converts or rearranges are laid out before the first words leave; they then stand in its first segment. -/
def CopyJob.laidForStream (j : CopyJob) (openScale : Nat → Nat) : CopyJob :=
  if j.cmd.plain || j.segs.any (fun x => !x.dst.isEmpty) then j
  else
    { j with segs := j.segs.mapIdx (fun i x =>
        { x with data := if i = 0 then j.laidOut openScale else [], dst := [(.array 0 0, 0)] }) }

/-- R308, R230: a segment's data is performed at its destination; the words of a copy to a channel leave in order. -/
def execCopySegmentPerformed (job seg : Nat) (s : State) : Out :=
  match kget s.copies job with
  | none => event s
  | some j =>
    match j.segs[seg]? with
    | none => event s
    | some x =>
      let openScale := Config.choice s.freeIx
      if !x.started || x.wrote || j.status.isSome then event s
      else if j.cmd.dch then
        if (j.segs.take seg).all (·.wrote) && (if j.cmd.plain then x.left == 0 else j.segs.all Segment.hasRead) then
          let j := j.laidForStream openScale
          event (State.streamSegment { s with freeIx := s.freeIx + 1 } job seg j (j.segs.getD seg x))
        else event s
      else if !s.segmentReady j seg x || s.underWay 6 (.segment job seg) || s.placesHeld x.dst then event s
      else
        let r := s.writeRuns job seg j (joinCells (j.performed openScale seg))
        event (State.setCopy { r.2 with freeIx := r.2.freeIx + 1 } job (j.setSeg seg { x with left := r.1, wrote := true }))

/-- The masked tiles of a super-group. -/
def CopyJob.castCount (j : CopyJob) (sg : Nat) : Nat := (j.masked.filter (fun t => superGroupOf t == sg)).length

/-- The core that stands for the relay of a super-group, or for the Sluice towards the package of the masked tiles. -/
def State.relayCore (s : State) (j : CopyJob) (superGroup : Nat) : Nat :=
  let pkg := field (j.words.getD 1 0#64) 42 33
  if pkg = s.pkg then 8 * ((j.relays.find? (fun t => superGroupOf t == superGroup)).getD 0) else coreKey 2 (64 * s.connDie (connKey pkg 0))

/-- R316: the combined acknowledgement of a super-group sets out (11 R320 kind 7) and reaches the copy unit. -/
def execMulticastAck (job superGroup : Nat) (s : State) : Out :=
  match kget s.copies job with
  | none => event s
  | some j =>
    event (if !(j.cmd.mcast && j.planned && j.segs.all Segment.over) || j.castCount superGroup == 0 then s
    else if !j.acksSent.contains superGroup then
      (s.setCopy job { j with acksSent := j.acksSent ++ [superGroup] }).sendInternal 7 (s.relayCore j superGroup) j.core 0 j.ltag (.segment job superGroup)
    else if s.underWay 7 (.segment job superGroup) then s
    else s.setCopy job { j with acks := kset j.acks superGroup (j.castCount superGroup) })

/-- Whether the acknowledgements of a multicast have reached the population count of its mask. -/
def CopyJob.castDone (j : CopyJob) : Bool :=
  !j.cmd.mcast || decide (j.masked.length ≤ ((j.acks.map (·.2)).foldl (· + ·) 0))

/-- R310: no completion 2^26 cycles after the first segment started. -/
def execCopyTimeout (job : Nat) (s : State) : Out :=
  match kget s.copies job with
  | none => event s
  | some j =>
    match j.startCycle with
    | some t => event (if t + 2 ^ 26 ≤ s.cycle ∧ s.parked j.ltag = false then s.setCopy job (j.fail s.cycle failedTimeout 0#64) else s)
    | none => event s

/-- R315: the clip box goes to the issuing core. -/
def State.sendBox (s : State) (id : Nat) (j : CopyJob) : State :=
  let c := j.cmd
  if 32 < s.unacked j.core s.pkg j.core + 5 then s
  else
    let w (lo hi : Nat) : Word := BitVec.ofNat 64 (lo + hi * 2 ^ 32)
    (s.sendWords j.core s.pkg j.core c.boxcls j.level j.ltag j.item
      [BitVec.ofNat 64 j.ident, w c.boxRows c.boxCols, w (c.rows - c.boxRows) (c.cols - c.boxCols), j.words.getD 1 0#64] true true 6
      (.fromCopy id) []).setCopy id { j with boxSent := true }

/-- A job ends with its status. -/
def State.finishCopy (s : State) (id : Nat) (j : CopyJob) (status : Nat) : State :=
  { s with copies := kdel s.copies id }.endJob j.core j.level j.task j.ltag j.ident 1 status j.item j.succ j.after j.failAddr

/-- R310, R315: a job whose segments have all been performed completes, CLIPPED once its box is in the channel; a failed one completes when no access of
it outside the package is under way, or its time has run out. -/
def execCopyJobCompletion (job : Nat) (s : State) : Out :=
  match kget s.copies job with
  | none => event s
  | some j =>
    if s.parked j.ltag then event s
    else
    match j.status with
    | some st =>
      event (if st != failedTimeout && s.ops.any (fun o => o.2.core == copyCore job) then s else s.finishCopy job j st)
    | none =>
      if !j.planned || !(j.segs.all Segment.over) || !j.castDone then event s
      else if j.mfail ≠ 0 then event (s.finishCopy job j j.mfail)
      else if !j.cmd.clipped then event (s.finishCopy job j 1)
      else if !j.boxSent then event (s.sendBox job j)
      else event (if j.boxDone then s.finishCopy job j 2 else s)

end Sys2Proof.Machine
end

