-- ==== Sys2Proof/Machine/EngineMem.lean ====
section
/-! DEFINITION. How the collective and the network engine read and write a tenant's memory (spec 07 R224, R227; 10 R282; 14 R387, R388):
what lies in this package at once, what lies in another package or the host by an access that leaves the package. -/

namespace Sys2Proof.Machine

/-- What an engine's read gives: the bytes, a state that waits for lines of another package or the host, or a status with the address. -/
inductive EngineRead where
  | ok (bytes : List Byte) (s : State)
  | later (s : State)
  | failed (status : Nat) (addr : Word)

/-- The status of a physical place, when it cannot be reached. -/
def State.placeStatus (s : State) (p : Phys) : Option Nat :=
  if p.isRegister then some failedXlate
  else if p.policy = 3 ∨ p.policy = 4 then none
  else if s.homeDown p.policy p.home p.pa then some failedAbsent
  else if s.lineBad p.policy p.home (p.pa / 64) then some failedEcc
  else none

/-- Virtual bytes read piece by piece; `core` is the pseudo core under which lines from outside are kept (log entry 22). -/
def State.engineRead (s : State) (core tenant : Nat) : List (Word × Nat) → EngineRead
  | [] => .ok [] s
  | (va, n) :: rest =>
    match s.translate core tenant va .load with
    | (.error .held, s) => .later s
    | (.error e, _) => .failed e.status va
    | (.ok p, s) =>
      match s.placeStatus p with
      | some st => .failed st va
      | none =>
        if s.heldByHandler 0 p.loc n then .later s
        else
        let s := s.bringLine core p
        match s.readPhys core p n with
        | .ok b =>
          match s.engineRead core tenant rest with
          | .ok more s => .ok (b ++ more) s
          | r => r
        | .wait p n => .later (s.requestBytes core tenant p n)
        | .busy => .later s
        | .fault c _ => .failed (statusOfCause c) va
        | .ecc _ => .failed failedEcc va

def State.engineReadV (s : State) (core tenant : Nat) (va : Word) (n : Nat) : EngineRead :=
  s.engineRead core tenant (linePieces va n (n / 64 + 2))

/-- The lines that a pseudo core keeps let go. -/
def State.dropPseudo (s : State) (core : Nat) : State := { s with cores := kdel s.cores core }

/-- The pieces of lines under virtual bytes, each translated for storing; the status `endWaits` asks to come again. -/
def State.storePlaces (s : State) (core tenant : Nat) : List (Word × Nat) → Except (Nat × Word) (List (Phys × Nat)) × State
  | [] => (.ok [], s)
  | (va, n) :: rest =>
    match s.translate core tenant va .store with
    | (.error e, s) => (.error (e.status, va), s)
    | (.ok p, s) =>
      if p.isRegister then (.error (failedXlate, va), s)
      else if p.policy < 3 && s.homeDown p.policy p.home p.pa then (.error (failedAbsent, va), s)
      else
        match s.storePlaces core tenant rest with
        | (.ok l, s) => (.ok ((p, n) :: l), s)
        | r => r

/-- Bytes laid over translated pieces. -/
def overPlaces (b : List Byte) : List (Phys × Nat) → List (Phys × List Byte)
  | [] => []
  | (p, n) :: rest => (p, b.take n) :: overPlaces (b.drop n) rest

/-- The places of several runs of bytes, each with its virtual address; none is written when one cannot be. -/
def State.runStores (s : State) (core tenant : Nat) : List (Word × List Byte) → Except (Nat × Word) (List (Phys × List Byte)) × State
  | [] => (.ok [], s)
  | (va, b) :: rest =>
    match s.storePlaces core tenant (linePieces va b.length (b.length / 64 + 2)) with
    | (.error e, s) => (.error e, s)
    | (.ok l, s) =>
      match s.runStores core tenant rest with
      | (.ok m, s) => (.ok (overPlaces b l ++ m), s)
      | r => r

/-- For whom an engine stores. -/
structure StoreFor where
  id : Nat
  ltag : Nat
  tenant : Nat
  item : Word

/-- Bytes stored at a translated place; `copyCore` of the engine's job counts what has left for another package or the host, and what waits for an `ahnd`
handler that holds the place (07 R200). -/
def State.engineStore (s : State) (j : StoreFor) (p : Phys) (b : List Byte) : State :=
  if p.policy < 3 ∧ s.heldByHandler 0 (.global p.policy p.home p.pa) b.length = false then (s.useLine p.policy p.home (p.pa / 64) false).writeHome p.policy p.home p.pa b
  else
    let op := s.fresh.1
    let o : MemOp :=
      { core := copyCore j.id, level := 8, task := 0, item := j.item, ltag := j.ltag, tenant := j.tenant, pc := 0, kind := .store,
        dest := .copy j.id 0, ord := 0, vec := false, elems := [Elem.new 0 (.global p.policy p.home p.pa) 0 b.length (leValue b)],
        fault := none, handler := none }
    { s.fresh.2 with ops := kset s.fresh.2.ops op o }

/-- Whether stores of an engine's job are still under way outside the package. -/
def State.storesOpen (s : State) (id : Nat) : Bool := s.ops.any (fun o => o.2.core == copyCore id)

/-- The accesses of the X9's own agents that have been issued between two states. -/
def issuedSince (s t : State) : List Nat := (t.ops.filter (fun o => decide (s.nextId ≤ o.1))).map (·.1)

/-- A counter of a tenant raised by 1, as a release at scope `.sys` after some accesses (14 R404, R405, R408): nothing where it does not translate. One in
the host or another package, one that an `ahnd` handler holds (07 R200), and one whose accesses are still under way is raised by an atomic. -/
def State.countUp (s : State) (tenant : Nat) (va : Word) (after : List Nat) : State :=
  match s.ownPhys tenant va with
  | none => s
  | some p =>
    if p.policy = 3 ∨ p.policy = 4 ∨ s.heldByHandler 0 p.loc 8 = true ∨ s.afterDone after = false ∨ s.ownPending tenant = true then
      s.ownOp tenant p va 8 0 (.atomic .aadd 8 1 0) after 2
    else
      match s.ownRead tenant va 8 with
      | some b => s.ownWrite tenant va (leBytes (leValue b + 1) 8)
      | none => s

end Sys2Proof.Machine
end

