-- ==== Sys2Proof/Machine/Collectives.lean ====
section
/-! DEFINITION. Collectives and `baddq` (spec 07 R223 to R226; 11 R331 to R335; 15 R417). -/

namespace Sys2Proof.Machine

/-! Values on the wire (R332). -/

/-- The codes and block scales of values in the wire format, rounded by `rne`. -/
def wireCodes (wire : Nat) (vals : List CopyVal) : List Nat × List Nat :=
  if isMx wire then mxRow wire 0 vals else (vals.map (putVal wire 0), [])

/-- A run of wire values as bytes: the elements, then the scales of an MX format (R334). -/
def wireBytes (wire : Nat) (vals : List CopyVal) : List Byte :=
  let r := wireCodes wire vals
  packElems wire r.1 ++ r.2.map (BitVec.ofNat 8)

/-- The values of n elements in a format, with the scales behind them. -/
def valuesOf (code n : Nat) (b : List Byte) : List CopyVal :=
  (List.range n).map (fun i => copyVal code (packedElem b code i) ((b.getD (tensorBytes code n + i / 32) 0#8).toNat))

/-- Values rounded to the wire format. -/
def settle (wire : Nat) (vals : List CopyVal) : List CopyVal := valuesOf wire vals.length (wireBytes wire vals)

/-- One combine of two values: integers exactly, with a saturated sum; others by R48. -/
def combineVal (red : Nat) (a b : CopyVal) : CopyVal :=
  match a, b with
  | .int x, .int y =>
    match red with
    | 0 => .int (satInt (x + y) (-(2 ^ 31 : Int)) (2 ^ 31 - 1))
    | 1 => .int (if x < y then y else x)
    | _ => .int (if y < x then y else x)
  | x, y => .num (combineNum red x.toNum y.toNum)

/-- One combine of two runs of wire values. -/
def combineVals (wire red : Nat) (a b : List CopyVal) : List CopyVal := settle wire (List.zipWith (combineVal red) a b)

/-- The identity with which a die's list is padded. -/
def combineIdentity (wire red : Nat) : CopyVal :=
  if wire = 12 then
    match red with
    | 0 => .int 0
    | 1 => .int (-(2 ^ 31 : Int))
    | _ => .int (2 ^ 31 - 1)
  else
    match red with
    | 0 => .num (zeroNum true)
    | 1 => .num (.inf true)
    | _ => .num (.inf false)

/-- The halving tree of 02 R76 over runs; `fuel` bounds its depth. -/
def halvingTree {α : Type} (g : α → α → α) : Nat → List α → Option α
  | 0, l => l.head?
  | n + 1, l => if l.length ≤ 1 then l.head? else halvingTree g n (List.zipWith g (l.take (l.length / 2)) (l.drop (l.length / 2)))

/-- The least power of two that is not below n. -/
def powerAbove (n : Nat) : Nat := if n ≤ 1 then 1 else 2 ^ (Nat.log2 (n - 1) + 1)

/-- Step 1 of R332: the result of one die. -/
def combineDie (wire red n : Nat) (runs : List (List CopyVal)) : List CopyVal :=
  let width := powerAbove runs.length
  let padded := runs ++ List.replicate (width - runs.length) (List.replicate n (combineIdentity wire red))
  (halvingTree (combineVals wire red) 17 padded).getD []

/-! Commands (07 R226, R331). -/

/-- A command taken apart. -/
structure CollOp where
  op : Nat
  red : Nat
  efmt : Nat
  wire : Nat
  group : Nat
  count : Nat
  blockBytes : Nat
  root : Nat
  deriving DecidableEq, Repr

def collOp (w : List Word) : CollOp :=
  let at1 (i hi lo : Nat) : Nat := field (w.getD i 0#64) hi lo
  { op := at1 0 3 0, red := at1 0 5 4, efmt := at1 0 11 8, wire := at1 0 15 12, group := at1 0 31 16, count := at1 3 39 0,
    blockBytes := at1 4 31 0, root := at1 5 15 0 }

/-- Formats that a collective takes (07 R226). -/
def collFormats : List Nat := [0, 1, 2, 4, 5, 7, 12]

/-- The wire bytes of a block: its elements, and the scales of an MX format (R333, R334). -/
def CollOp.wireSize (o : CollOp) : Nat := o.blockBytes + (if isMx o.wire then ceilDiv (8 * o.blockBytes / codeBits o.wire) 32 else 0)

/-- Fields for which a push raises HEADER, given the ranks of the group and the frame scratch that the handler asks for (R226, R331,
R333). A group that the launch does not define, a root beyond it and a block of no bytes count as bad fields (log entry 23). -/
def collBad (o : CollOp) (ranks : Option Nat) (fscr : Nat) : Bool :=
  decide (3 < o.op) || o.red == 3 || !collFormats.contains o.efmt || !collFormats.contains o.wire || o.blockBytes == 0 ||
    o.blockBytes % 256 != 0 || decide (16384 < o.blockBytes) || decide (256 * fscr < 2 * o.wireSize) ||
    (match ranks with | none => true | some r => o.op == 3 && decide (r ≤ o.root))

/-- The ranks of a group: core and package each. -/
def State.groupOf (s : State) (ltag group : Nat) : Option (List (Nat × Nat)) := ((s.ctx ltag).map (·.groups)).bind (fun g => g[group]?)

/-- The rank of a core of this package. -/
def State.rankOf (s : State) (ranks : List (Nat × Nat)) (core : Nat) : Option Nat :=
  ranks.findIdx? (fun r => r.1 == core && r.2 == s.pkg)

/-- How many collectives of a group of a launch have begun. -/
def State.collsBegun (s : State) (ltag group : Nat) : Nat := ((s.ctx ltag).map (fun c => kgetD c.collSeq group 0)).getD 0

/-- The next collective of a group, in which nothing has happened, and its name. -/
def State.openCollective (s : State) (ltag tenant group : Nat) : Nat × State :=
  let n := s.collsBegun ltag group
  let c : Collective :=
    { ltag := ltag, tenant := tenant, group := group, cmds := [], parts := [], handled := [], sent := [], joined := [], peers := [], finished := [],
      failed := [], started := s.cycle, missing := [], status := none, others := [], told := false, ord := n }
  let id := s.fresh.1
  let s := s.fresh.2.modCtx ltag (fun x => { x with collSeq := kset x.collSeq group (n + 1) })
  (id, { s with colls := kset s.colls id c })

/-- R331: a rank's command joins the first collective of its group that lacks it, or opens one. -/
def State.joinCollective (s : State) (ltag tenant : Nat) (o : CollOp) (cmd : CollCmd) : State :=
  let r := match s.colls.find? (fun c => c.2.ltag == ltag && c.2.group == o.group && c.2.cmds.all (fun x => x.rank != cmd.rank)) with
    | some (id, _) => (id, s)
    | none => s.openCollective ltag tenant o.group
  r.2.modColl r.1 (fun c => { c with cmds := insertBy (fun (a b : CollCmd) => decide (a.rank < b.rank)) cmd c.cmds })

/-- The push of a checked command. A core that is no rank of the group has nothing to contribute, and its job fails (log entry 23). -/
def State.pushCollective (s : State) (c : Ctx) (words : List Word) (ranks : List (Nat × Nat)) : State :=
  if 32 ≤ c.f.lv.cpc then s
  else
    s.beforeRelease c 2 [] (fun s =>
      let after := s.unperformed c.core
      let (succ, s) := s.takePending c.core
      let ident := s.jobIdent c.core 2
      let s := s.countPush c ident
      match (if isCompute c.core then s.rankOf ranks c.core else none) with
      | none => (s.endJob c.core c.f.level c.f.task c.f.ltag ident 2 failedAbsent c.f.item succ after 0#64).advance c
      | some r =>
        let cmd : CollCmd :=
          { rank := r, lost := false, core := c.core, level := c.f.level, task := c.f.task, item := c.f.item, ident := ident, words := words, succ := succ,
            after := after }
        (s.joinCollective c.f.ltag (s.tenantOf c.f.ltag) (collOp words) cmd).advance c)

def execColl (w : Bundle) (s : State) : Out :=
  bundle .coll w s (fun c s =>
    let words := c.f.xRange (fieldB w) 8
    let o := collOp words
    let ranks := s.groupOf c.f.ltag o.group
    let h := ((s.ctx c.f.ltag).map (fun x => x.words.getD 5 0#64)).getD 0#64
    if h = 0#64 then s.exact c.core .header 0#64
    else
      match s.frameWord c.core (s.tenantOf c.f.ltag) h with
      | (.wait p n, s) => s.requestBytes c.core (s.tenantOf c.f.ltag) p n
      | (.busy, s) => s
      | (.ecc, s) => s.eccRead c (h - 4#64)
      | (.word v _, s) =>
        if collBad o (ranks.map (·.length)) (bitsOf v 15 8) then s.exact c.core .header 0#64 else s.pushCollective c words (ranks.getD []))

/-! Blocks (R333). -/

/-- The commands that are known: rank and words, those of this package first in increasing rank. -/
def Collective.known (c : Collective) : List (Nat × Nat × List Word) := c.cmds.map (fun x => (x.rank, x.ident, x.words)) ++ c.others

/-- The command of the lowest rank. -/
def Collective.first (c : Collective) : Option (Nat × Nat × List Word) :=
  (sortBy (fun (a b : Nat × Nat × List Word) => decide (a.1 < b.1)) c.known).head?

def Collective.op (c : Collective) : CollOp := collOp ((c.first.map (·.2.2)).getD [])

def State.ranksOf (s : State) (c : Collective) : List (Nat × Nat) := (s.groupOf c.ltag c.group).getD []

/-- The elements of the vector that a collective moves (R331). -/
def CollOp.elements (o : CollOp) (ranks : Nat) : Nat := if o.op = 1 ∨ o.op = 2 then o.count * ranks else o.count

/-- Wire elements of a block. -/
def CollOp.perBlock (o : CollOp) : Nat := 8 * o.blockBytes / codeBits o.wire

def CollOp.blocks (o : CollOp) (ranks : Nat) : Nat := ceilDiv (o.elements ranks) o.perBlock

/-- The elements of a block: the first and how many. -/
def CollOp.span (o : CollOp) (ranks block : Nat) : Nat × Nat :=
  (block * o.perBlock, min o.perBlock (o.elements ranks - block * o.perBlock))

/-- The ranks whose commands are not known, and those of them that stand on this package. -/
def State.absentRanks (s : State) (c : Collective) : List Nat :=
  (List.range (s.ranksOf c).length).filter (fun r => c.known.all (fun x => x.1 != r))
def State.absentHere (s : State) (c : Collective) : List Nat :=
  (s.absentRanks c).filter (fun r => ((s.ranksOf c).getD r (0, 0)).2 == s.pkg)

/-- The ranks of this package that contribute no more: their die has been reset since they pushed, or they can push no longer (R335; 15 R419). -/
def State.goneRanks (s : State) (c : Collective) : List Nat :=
  (c.cmds.filter (·.lost)).map (·.rank) ++
    (s.absentHere c).filter (fun r =>
      let core := ((s.ranksOf c).getD r (0, 0)).1
      (s.die (dieOf core)).inReset || !((s.ctx c.ltag).map (fun x => x.foot.contains core)).getD true)

/-- The ranks whose commands differ from that of the lowest rank (R331). -/
def Collective.disagreeing (c : Collective) : List Nat := (c.known.filter (fun x => decide (collOp x.2.2 ≠ c.op))).map (·.1)

/-- The pseudo core under which a collective reads other packages and the host (log entry 22). -/
def collCore (id : Nat) : Nat := 262144 + id

/-- The outcome of reading or combining a block's sources. -/
inductive Gather where
  | ok (vals : List CopyVal) (s : State)
  | later (s : State)
  | fail

/-- The source elements of a rank: n of them from element i on, out of a source of `total`. -/
def State.readSource (s : State) (id : Nat) (c : Collective) (cmd : CollCmd) (i n total : Nat) : Gather :=
  let o := c.op
  let base := cmd.words.getD 1 0#64
  let size := codeBits o.efmt / 8
  match s.engineReadV (collCore id) c.tenant (base + BitVec.ofNat 64 (size * i)) (size * n) with
  | .later s => .later s
  | .failed _ _ => .fail
  | .ok b s =>
    if !isMx o.efmt then .ok (valuesOf o.efmt n b) s
    else
      match s.engineReadV (collCore id) c.tenant (base + BitVec.ofNat 64 (total + i / 32)) (if n = 0 then 0 else (i + n - 1) / 32 - i / 32 + 1) with
      | .later s => .later s
      | .failed _ _ => .fail
      | .ok sc s =>
        .ok ((List.range n).map (fun k => copyVal o.efmt (packedElem b o.efmt k) ((sc.getD ((i + k) / 32 - i / 32) 0#8).toNat))) s

/-- What a rank contributes to a block, as elements of the block: all of it for a reduction; its own segment for an all-gather; the
root's source for a broadcast. Nothing stands for the elements it does not contribute. -/
def State.contribution (s : State) (id : Nat) (c : Collective) (cmd : CollCmd) (ranks block : Nat) : Nat × Gather :=
  let o := c.op
  let b := o.span ranks block
  match o.op with
  | 2 =>
    let lo := max b.1 (cmd.rank * o.count)
    let hi := min (b.1 + b.2) (cmd.rank * o.count + o.count)
    if hi ≤ lo then (0, .ok [] s) else (lo - b.1, s.readSource id c cmd (lo - cmd.rank * o.count) (hi - lo) o.count)
  | 3 => if cmd.rank = o.root then (0, s.readSource id c cmd b.1 b.2 o.count) else (0, .ok [] s)
  | _ => (0, s.readSource id c cmd b.1 b.2 (o.elements ranks))

/-- The contributions of commands, with each its rank's core and the place of its first element, or all the ranks that do not contribute. -/
inductive Contributions where
  | ok (l : List (Nat × Nat × List CopyVal)) (s : State)
  | later (s : State)
  | missing (ranks : List Nat)

/-- One more rank that does not contribute. -/
def Contributions.without (r : Nat) : Contributions → Contributions
  | .ok _ _ => .missing [r]
  | .later s => .later s
  | .missing l => .missing (r :: l)

def State.contributions (s : State) (id : Nat) (c : Collective) (ranks block : Nat) : List CollCmd → Contributions
  | [] => .ok [] s
  | x :: rest =>
    if x.lost || (s.die (dieOf x.core)).inReset then (s.contributions id c ranks block rest).without x.rank
    else
      match s.contribution id c x ranks block with
      | (_, .fail) => (s.contributions id c ranks block rest).without x.rank
      | (_, .later s) => .later s
      | (i, .ok v s) =>
        match s.contributions id c ranks block rest with
        | .ok l s => .ok ((x.core, i, v) :: l) s
        | r => r

/-- Elements put over others from a place on. -/
def overlay (base : List CopyVal) (i : Nat) (v : List CopyVal) : List CopyVal := base.take i ++ v ++ base.drop (i + v.length)

/-- The results of a block on this package that are still to be combined: one for each die of a reduction (R332 step 1), one otherwise. -/
def packageParts (o : CollOp) (n : Nat) (l : List (Nat × Nat × List CopyVal)) : List (List Byte) :=
  if o.op < 2 then
    ((List.range 8).filter (fun d => l.any (fun x => dieOf x.1 == d))).map (fun d =>
      wireBytes o.wire (combineDie o.wire o.red n ((l.filter (fun x => dieOf x.1 == d)).map (fun x => settle o.wire x.2.2))))
  else
    let none0 : List CopyVal := List.replicate n (if o.wire = 12 then .int 0 else .num (zeroNum false))
    [wireBytes o.wire (l.foldl (fun acc x => overlay acc x.2.1 x.2.2) none0)]

/-- The packages of a group, in increasing order. -/
def groupPackages (ranks : List (Nat × Nat)) : List Nat :=
  sortBy (fun a b => decide (a < b)) (ranks.foldl (fun acc r => if acc.contains r.2 then acc else acc ++ [r.2]) [])

def peerKey (block pkg : Nat) : Nat := block * 1024 + pkg

/-- A message of kind 7 of a collective to another package (log entry 23): a result of a block (`what` 0), the command of a rank (1), the failure of a
block (2), or that all blocks have been delivered (3), which `endw` and `gov` tell apart; `handler` numbers the collective among those of its group. -/
def State.tellPackage (s : State) (c : Collective) (what n peer : Nat) (words : List Word) (item : Word) : State :=
  let m : Msg :=
    { kind := 7, dpkg := peer, dcore := 0, dspace := 2, src := { core := 0, pkg := s.pkg, space := 2 }, tenant := c.tenant, cls := 0, level := 0,
      ordered := true, pseq := 0, rel := true, scope := 6, gov := decide (2 ≤ what), words := words, endw := what % 2 == 1, ltag := c.ltag,
      handler := BitVec.ofNat 64 c.ord,
      item := item, ev := .collective c.group n, rangeOf := none, after := [] }
  (s.sendScale peer 1 (some m) none).getD s

/-- A package's result of a block sent to another package. -/
def State.sendBlock (s : State) (c : Collective) (block peer : Nat) (b : List Byte) : State :=
  s.tellPackage c 0 block peer ((chunksOf 8 b (b.length / 8 + 1)).map (fun x => BitVec.ofNat 64 (leValue x))) (BitVec.ofNat 64 b.length)

/-- The other packages of a group. -/
def State.otherPackages (s : State) (c : Collective) : List Nat := (groupPackages (s.ranksOf c)).filter (fun p => p != s.pkg)

/-- The commands of this package's ranks told to the other packages, once all have been pushed (R331). -/
def State.tellCommands (s : State) (id : Nat) (c : Collective) : State :=
  (c.cmds.foldl (fun s x => (s.otherPackages c).foldl (fun s q => s.tellPackage c 1 x.rank q x.words (BitVec.ofNat 64 x.ident)) s) s).modColl id
    (fun c => { c with told := true })

/-- The blocks that have failed here told to the other packages, with the status: every rank's job fails (R335). -/
def State.tellFailures (s : State) (c : Collective) : State :=
  (if c.failed.isEmpty then [0] else c.failed).foldl (fun s b =>
    (s.otherPackages c).foldl (fun s q =>
      s.tellPackage c 2 b q (c.missing.map (BitVec.ofNat 64)) (BitVec.ofNat 64 (c.status.getD failedAbsent))) s) s

/-- This package's part delivered, which the other packages are told. -/
def State.tellDone (s : State) (id : Nat) (c : Collective) : State :=
  ((s.otherPackages c).foldl (fun s q => s.tellPackage c 3 0 q [] 0#64) s).modColl id (fun c => { c with toldDone := true })

/-- The results of all packages joined: a list to be combined for a reduction, the elements of each owner otherwise. -/
def joinPackages (o : CollOp) (ranks : List (Nat × Nat)) (block : Nat) (get : Nat → List Byte) : List (List Byte) :=
  let pkgs := groupPackages ranks
  if o.op < 2 then pkgs.map get
  else
    let b := o.span ranks.length block
    let vals (p : Nat) : List CopyVal := valuesOf o.wire b.2 (get p)
    let owner (i : Nat) : Nat := (ranks.getD (if o.op = 3 then o.root else (b.1 + i) / max 1 o.count) (0, 0)).2
    let all := pkgs.map (fun p => (p, vals p))
    [wireBytes o.wire ((List.range b.2).map (fun i =>
      ((all.find? (fun x => x.1 == owner i)).bind (fun x => x.2[i]?)).getD (.num (zeroNum false))))]

/-- The gateway core of a block (R333). -/
def gatewayOf (block : Nat) : Nat := coreKey 2 (64 * (block % 2) + block / 2 % 36)

/-- R333: the collective handler of a block sets out for its gateway core. -/
def State.startHandler (s : State) (id : Nat) (c : Collective) (block : Nat) (first : List Byte) : State :=
  let g := gatewayOf block
  match s.ctx c.ltag with
  | none => s
  | some x =>
    let level := x.recBits 0 40 38
    let ev : REvent :=
      { kind := .collective id block, handler := x.words.getD 5 0#64, level := level,
        args := [BitVec.ofNat 64 block, 0#64, BitVec.ofNat 64 (secondOperand first.length), BitVec.ofNat 64 ((c.first.map (·.2.1)).getD 0)],
        item := (c.cmds.head?.map (·.item)).getD 0#64, src := s.sourceOf ((c.cmds.head?.map (·.core)).getD 0), cls := none, ltag := c.ltag,
        gov := none }
    (s.inject (handlerRouter g) (s.handlerMsg g c.tenant ev) 1 (s.memPref c.ltag)).modColl id (fun c => { c with handled := c.handled ++ [block] })

/-! Delivery (R331, R335). -/

/-- The elements of a block that a rank receives: the place of the first one in the block, its place in the destination, how many. -/
def CollOp.received (o : CollOp) (ranks block rank : Nat) : Nat × Nat × Nat :=
  let b := o.span ranks block
  if o.op = 1 then
    let lo := max b.1 (rank * o.count)
    let hi := min (b.1 + b.2) (rank * o.count + o.count)
    if hi ≤ lo then (0, 0, 0) else (lo - b.1, lo - rank * o.count, hi - lo)
  else (0, b.1, b.2)

/-- The elements of the vector that a rank receives: the first and how many (R331). -/
def CollOp.share (o : CollOp) (ranks rank : Nat) : Nat × Nat := if o.op = 1 then (rank * o.count, o.count) else (0, o.elements ranks)

/-- What is written for a rank: displacements from its destination with bytes. The destination's own blocks of 32 of an MX format are written whole, each
with its scale, by the last block of the wire that holds some of their elements (R332, R335); `result` gives what is known of the vector. -/
def deliveries (o : CollOp) (ranks block rank : Nat) (vals : List CopyVal) (result : Nat → Option CopyVal) : List (Nat × List Byte) :=
  let r := o.received ranks block rank
  if r.2.2 = 0 then []
  else if isMx o.efmt then
    let mine := o.share ranks rank
    ((List.range ((r.2.1 + r.2.2 - 1) / 32 - r.2.1 / 32 + 1)).map (fun k => r.2.1 / 32 + k)).flatMap (fun g =>
      match (List.range (min 32 (mine.2 - 32 * g))).mapM (fun k => result (mine.1 + 32 * g + k)) with
      | some v => let q := mxRow o.efmt 0 v; [(codeBits o.efmt * 32 * g / 8, packElems o.efmt q.1), (tensorBytes o.efmt mine.2 + g, q.2.map (BitVec.ofNat 8))]
      | none => [])
  else [(codeBits o.efmt / 8 * r.2.1, packElems o.efmt (((vals.drop r.1).take r.2.2).map (putVal o.efmt 0)))]

/-- Whether a block's result has to be kept for destination blocks of 32 that it shares with another block of the wire. -/
def CollOp.keeps (o : CollOp) : Bool := o.op == 1 && isMx o.efmt

/-- An element of the result, when its block is the one being delivered or has been before. -/
def Collective.resultAt (c : Collective) (ranks block : Nat) (vals : List CopyVal) (i : Nat) : Option CopyVal :=
  let o := c.op
  let b := i / o.perBlock
  if b = block then vals[i - b * o.perBlock]?
  else if c.finished.contains b then (kget c.parts b).bind (fun p => p.head?.bind (fun w => (valuesOf o.wire (o.span ranks b).2 w)[i - b * o.perBlock]?))
  else none

/-- The final result of a block written whole to every rank of this package. -/
def State.finishBlock (s : State) (id : Nat) (c : Collective) (block : Nat) (result : List Byte) : State :=
  let o := c.op
  let ranks := (s.ranksOf c).length
  let vals := valuesOf o.wire (o.span ranks block).2 result
  let puts := c.cmds.flatMap (fun x =>
    (deliveries o ranks block x.rank vals (c.resultAt ranks block vals)).map (fun p => (x.words.getD 2 0#64 + BitVec.ofNat 64 p.1, p.2)))
  match s.runStores (collCore id) c.tenant puts with
  | (.error (0, _), s) => s
  | (.error _, s) => s.failBlock id block failedAbsent []
  | (.ok l, s) =>
    let j : StoreFor := { id := id, ltag := c.ltag, tenant := c.tenant, item := (c.cmds.head?.map (·.item)).getD 0#64 }
    (l.foldl (fun s x => s.engineStore j x.1 x.2) s).modColl id (fun c =>
      { c with finished := c.finished ++ [block], parts := if o.keeps then kset c.parts block [result] else kdel c.parts block })

/-! The events. -/

/-- The first stage of a block: the sources are read and each die combines its own. -/
def State.startBlock (s : State) (id : Nat) (c : Collective) (block : Nat) : State :=
  let ranks := (s.ranksOf c).length
  match s.contributions id c ranks block c.cmds with
  | .later s => s
  | .missing l => (s.failBlock id block failedAbsent l).dropPseudo (collCore id)
  | .ok l s =>
    let n := (c.op.span ranks block).2
    (s.modColl id (fun c => { c with parts := kset c.parts block (packageParts c.op n l) })).dropPseudo (collCore id)

/-- The next stage of a block whose parts are known. -/
def State.advanceBlock (s : State) (id : Nat) (c : Collective) (block : Nat) (parts : List (List Byte)) : State :=
  let ranks := s.ranksOf c
  let others := s.otherPackages c
  match parts with
  | p :: _ :: _ => if c.handled.contains block then s else s.startHandler id c block p
  | [p] =>
    if others.isEmpty || c.joined.contains block then s.finishBlock id c block p
    else if !c.sent.contains block then
      (others.foldl (fun s q => s.sendBlock c block q p) s).modColl id (fun c => { c with sent := c.sent ++ [block] })
    else if others.all (fun q => (kget c.peers (peerKey block q)).isSome) then
      let get (q : Nat) : List Byte := if q = s.pkg then p else kgetD c.peers (peerKey block q) []
      s.modColl id (fun c =>
        { c with joined := c.joined ++ [block], parts := kset c.parts block (joinPackages c.op ranks block get) })
    else s
  | [] => s

/-- R332, R333: the next stage of a block's combine. Ranks that disagree fail the whole (R331). -/
def execCollectiveBlockCombine (coll block : Nat) (s : State) : Out :=
  match kget s.colls coll with
  | none => event s
  | some c =>
    if s.parked c.ltag || c.finished.contains block || c.failed.contains block ||
        decide (c.op.blocks (s.ranksOf c).length ≤ block) then event s
    else if !(s.goneRanks c).isEmpty then event (s.failBlock coll block failedAbsent (s.goneRanks c))
    else if !(s.absentHere c).isEmpty || !(c.cmds.all (fun x => s.afterDone x.after)) then event s
    else if !c.told then event (s.tellCommands coll c)
    else if !(s.absentRanks c).isEmpty then event s
    else if !c.disagreeing.isEmpty then event (s.failBlock coll block failedAbsent c.disagreeing)
    else
      match kget c.parts block with
      | none => event (s.startBlock coll c block)
      | some parts => event (s.advanceBlock coll c block parts)

/-- R335: a block that has not completed within the limit, on this package or on another; a collective of no block counts as one of a block 0. The contributors
that are missing are the ranks that have not pushed and those of packages whose result, or whose end, has not come. -/
def execCollectiveBlockTimeout (coll block : Nat) (s : State) : Out :=
  match kget s.colls coll with
  | none => event s
  | some c =>
    let ranks := s.ranksOf c
    if s.parked c.ltag || (c.finished.contains block && !c.toldDone) || c.failed.contains block || decide (max 1 (c.op.blocks ranks.length) ≤ block) ||
        decide (s.cycle < c.started + s.policy.collLimit) then event s
    else
      let late := (List.range ranks.length).filter (fun r =>
        let p := (ranks.getD r (0, 0)).2
        c.known.all (fun x => x.1 != r) || (p != s.pkg && (if c.toldDone then !c.dones.contains p else (kget c.peers (peerKey block p)).isNone)))
      event (s.failBlock coll block failedTimeout late)

/-- R335, 15 R417: the kind-2 entries of a failed job: one for each run of 64 ranks that holds a missing contributor. -/
def State.missingEntries (s : State) (ltag status ident : Nat) (item : Word) (missing : List Nat) : List Nat → State
  | [] => s
  | run :: rest =>
    let here := missing.filter (fun r => r / 64 == run)
    let s := if here.isEmpty then s
      else s.cqEntry ltag 2 status 0 item (BitVec.ofNat 64 (ident % 2 ^ 32 + 64 * run * 2 ^ 32))
        (BitVec.ofNat 64 ((here.map (fun r => 2 ^ (r % 64))).foldl (· ||| ·) 0))
    s.missingEntries ltag status ident item missing rest

/-- The job of one rank ends; one whose die has been reset has ended with it (15 R419). -/
def State.endRank (s : State) (c : Collective) (x : CollCmd) : State :=
  let status := c.status.getD 1
  if x.lost then s
  else
  let s := s.endJob x.core x.level x.task c.ltag x.ident 2 status x.item x.succ x.after 0#64
  if status = 1 then s
  else s.missingEntries c.ltag status x.ident x.item c.missing (List.range ((s.ranksOf c).length / 64 + 1))

/-- R331, R335: when every block has been delivered or has failed, the jobs of the ranks end: with success once all packages have delivered theirs. -/
def execCollectiveJobCompletion (coll : Nat) (s : State) : Out :=
  match kget s.colls coll with
  | none => event s
  | some c =>
    let n := c.op.blocks (s.ranksOf c).length
    let ready := (s.absentHere c).isEmpty && c.cmds.all (fun x => s.afterDone x.after)
    let agreed := !(s.absentRanks c).isEmpty || c.disagreeing.isEmpty
    if s.parked c.ltag then event s
    else if ready && !c.told then event (s.tellCommands coll c)
    else if ready && !agreed && c.status.isNone then event (s.failBlock coll 0 failedAbsent c.disagreeing)
    else if ((List.range n).any (fun b => !c.finished.contains b && !c.failed.contains b) && agreed) || s.storesOpen coll ||
        (n == 0 && !(s.absentRanks c).isEmpty && c.status.isNone) then event s
    else if c.status.isNone && !c.toldDone then event (s.tellDone coll c)
    else if c.status.isNone && !(s.otherPackages c).all c.dones.contains then event s
    else
      let s := if c.status.isSome then s.tellFailures c else s
      event (c.cmds.foldl (fun s x => s.endRank c x) (State.dropPseudo { s with colls := kdel s.colls coll } (collCore coll)))

/-- What another package tells of a collective (R331, R332, R335) is kept with the collective of that number of the group, which may not have begun here; one
that has ended here needs it no more. -/
def State.peerBlock (s : State) (m : Msg) (group n : Nat) : State :=
  let take (s : State) (id : Nat) : State :=
    if m.gov && m.endw then s.modColl id (fun c => { c with dones := c.dones ++ [m.src.pkg] })
    else if m.gov then s.failBlock id n m.item.toNat (m.words.map (·.toNat))
    else
      s.modColl id (fun c =>
        if m.endw then { c with others := c.others ++ [(n, m.item.toNat, m.words)] }
        else { c with peers := kset c.peers (peerKey n m.src.pkg) ((m.words.flatMap (fun w => leBytes w.toNat 8)).take m.item.toNat) })
  match s.colls.find? (fun c => c.2.tenant == m.tenant && c.2.group == group && c.2.ord == m.handler.toNat) with
  | some (id, _) => take s id
  | none =>
    match s.ctxs.find? (fun c => c.2.tenant == m.tenant && decide (group < c.2.groups.length)) with
    | some (tag, _) =>
      if s.collsBegun tag group = m.handler.toNat then let r := s.openCollective tag m.tenant group; take r.2 r.1 else s
    | none => s

/-! The end of a collective handler (R333). -/

/-- The combined block is taken from the handler's frame scratch and takes the place of the two that were combined. -/
def State.handlerEnded (s : State) (core : Nat) (f : Frame) (coll block : Nat) : State :=
  match (kget s.colls coll).map (fun c => kgetD c.parts block []) with
  | some (p :: _ :: rest) =>
    let b := memGetBytes (s.tile (scratchTile core)).array f.fsb p.length
    s.modColl coll (fun c =>
      { c with parts := kset c.parts block (b :: rest), handled := c.handled.filter (fun x => x != block) })
  | _ => s

/-! `baddq` (R334). -/

/-- Step i of `baddq` on runs of n bytes at two places of an array: an element, or a block of 32 of an MX run, is read from both, combined and written to
the first, with the flags so far. A later step reads what an earlier one wrote. -/
def baddqStep (ty red p q n : Nat) (acc : Mem × Flags) (i : Nat) : Mem × Flags :=
  if ty = 16 then
    let at1 (k : Nat) : Nat := (memGet acc.1 k).toNat
    let elems (o : Nat) : List Nat := (List.range 32).map (fun j => at1 (o + 32 * i + j))
    let r := combineBlock red (elems p) (at1 (p + n + i)) (elems q) (at1 (q + n + i))
    (memSet (memSetBytes acc.1 (p + 32 * i) (r.codes.map (BitVec.ofNat 8))) (p + n + i) (BitVec.ofNat 8 r.scale), acc.2 ||| r.fl)
  else
    let e := typeBits ty / 8
    let r := combineElem (fmtOfType ty) red (memGetN acc.1 (p + e * i) e) (memGetN acc.1 (q + e * i) e)
    (memSetN acc.1 (p + e * i) e r.1, acc.2 ||| r.2)

/-- The array and the flags after `baddq` on two runs of n bytes. -/
def baddqRun (ty red p q n : Nat) (m : Mem) : Mem × Flags :=
  (List.range (if ty = 16 then n / 32 else n / (typeBits ty / 8))).foldl (baddqStep ty red p q n) (m, flNone)

def execBaddq (w : Bundle) (s : State) : Out :=
  bundle .baddq w s (fun c s =>
    let a := c.xa.toNat
    let b := c.xb.toNat
    let n := c.xc.toNat
    let ty := typeOf .baddq w
    let len := if ty = 16 then n + n / 32 else n
    let tile := scratchTile c.core
    if a % 16 ≠ 0 then s.exact c.core .misalign c.xa
    else if b % 16 ≠ 0 then s.exact c.core .misalign c.xb
    else if n % 256 ≠ 0 then s.exact c.core .misalign c.xc
    else if n = 0 then s.advance c
    else if c.f.fscr < a + len then s.exact c.core .window c.xa
    else if c.f.fscr < b + len then s.exact c.core .window c.xb
    else
      let r := baddqRun ty (modOpt w) (c.f.fsb + a) (c.f.fsb + b) n (s.tile tile).array
      let s := s.modTile tile (fun t => { t with array := r.1 })
      let s := s.modTop c.core (fun f => f.orFlags r.2)
      if c.f.trapsOn r.2 then s.exact c.core .fpx 0#64 else s.advance c)

end Sys2Proof.Machine
end

