-- ==== Sys2Proof/Machine/Governor.lean ====
section
/-! DEFINITION. The die Governor: the range matcher, placement, forwarding and stealing (spec 09 R261 to R265; 15 R421). -/

namespace Sys2Proof.Machine

/-! The range matcher (R264). -/

/-- Whether two ranges overlap. -/
def rangesMeet (a b : Range) : Bool := overlaps a.base a.len b.base b.len

/-- Whether an earlier record holds a later one: a write of either against any range of the other. -/
def RangeEntry.holds (x y : RangeEntry) : Bool := rangesMeet x.wr y.rd || rangesMeet x.wr y.wr || rangesMeet x.rd y.wr

/-- Whether the ranges of a record are clear at its die: no earlier registered record in flight holds it. A record without an entry
here (an event delivered with gov = 1, a stolen record) is clear. -/
def Die.clear (d : Die) (id : Nat) : Bool :=
  match d.ranges.find? (fun r => r.id == id) with
  | none => true
  | some y => !((d.ranges.takeWhile (fun r => r.id != id)).any (fun x => x.holds y))

/-- R264: a retire notice that has come frees the entries of a record; one whose entries are saved (13 R370) waits for its context. -/
def execRangeRetire (die task : Nat) (s : State) : Out :=
  let parked := s.ctxs.any (fun c => (c.2.saved.map (fun v => v.ranges.any (fun r => r.1 == die && r.2.id == task))).getD false)
  event (if s.retired.contains (die, task) && !parked && !s.underWay 10 (.token task) then
    { s with retired := s.retired.erase (die, task) }.modDie die (fun d => { d with ranges := d.ranges.filter (fun r => r.id != task) })
  else s)

/-! Placement (R262). -/

/-- Whether a record's affinity includes a die (R263). -/
def GovRec.localTo (g : GovRec) (die : Nat) : Bool :=
  match g.aff with
  | 0 => true
  | 1 => isAster die
  | 2 => !isAster die
  | _ => g.affDie == die

/-- R262 step 2: whether a record qualifies for a core, on whose tile the launch has started (13 R356). -/
def State.placeable (s : State) (g : GovRec) (core : Nat) : Bool :=
  s.launchAt core == some g.ev.ltag && ((s.ctx g.ev.ltag).map (fun c => c.started.contains (tileOf core))).getD false && s.inboxRoom core g.ev.level && (s.core core).admits g.ev.level &&
    !(g.planes && !(s.core core).frames.isEmpty) && !(s.tile (tileOf core)).reserved

/-- r of R249 plus 1: 0 for an empty stack. -/
def Core.rank (c : Core) : Nat := match c.frames with | [] => 0 | f :: _ => f.level + 1

/-- R262 step 3: the core a record is placed on. -/
def State.placeCore (s : State) (die : Nat) (g : GovRec) : Option Nat :=
  let cores := ((List.range 512).map (fun i => 512 * die + i)).filter (fun k => s.placeable g k)
  (sortBy (fun a b => decide ((s.core a).rank < (s.core b).rank)) cores).head?

/-- Records in the order of R262 step 1: highest level first, oldest first within a level. -/
def inPlaceOrder (l : List GovRec) : List GovRec := sortBy (fun (a b : GovRec) => decide (b.ev.level < a.ev.level)) l

/-- Whether a record may be considered: its ranges are clear, and the accesses that its event releases have been performed. -/
def State.recReady (s : State) (die : Nat) (g : GovRec) : Bool := (s.die die).clear g.id && s.afterDone g.after

/-- Whether a die places a record itself: one whose affinity includes the die is placed locally, but for one that was forwarded to a die that does not
qualify any more (R263). -/
def State.staysHere (s : State) (die : Nat) (g : GovRec) : Bool := g.localTo die && (!g.forwarded || s.dieQualifies die g.ev.ltag)

/-- The core that stands for the Governor of a die on the Millrace (11 R320 kind 10). -/
def govCore (die : Nat) : Nat := 512 * die

/-- Records that set out for the Governor of another die (R263, R265), one message each. -/
def State.giveRecords (s : State) (src dst : Nat) (l : List GovRec) : State :=
  l.foldl (fun (s : State) g => State.sendInternal { s with given := s.given ++ [{ src := src, dst := dst, rec_ := g }] } 10 (govCore src) (govCore dst) 1 g.ev.ltag (.token g.id)) s

/-- A placed record sent to its core (11 R320 kind 1; kind 9 for a package), with what its event released. DESIGN CHOICE: the Governor's message enters the
network at the core's own router (log entry 9). -/
def State.sendPlaced (s : State) (core : Nat) (g : GovRec) : State :=
  let m : Msg :=
    { kind := 1, dpkg := s.pkg, dcore := keyId core, dspace := keySpace core, src := g.ev.src, tenant := s.tenantOf g.ev.ltag, cls := 0, level := g.ev.level,
      ordered := false, pseq := 0, rel := true, scope := 6, gov := false, words := g.ev.args, endw := false, ltag := g.ev.ltag,
      handler := g.ev.handler, item := g.ev.item, ev := g.ev.kind, rangeOf := g.ev.gov, after := g.ev.after }
  match g.ev.kind with
  | .package p => s.inject (tileOf core) { m with kind := 9 } (((kget s.packs p).map (·.flits)).getD 1) (s.memPref g.ev.ltag)
  | _ => s.inject (tileOf core) m 1 0

/-- A record out of a ready queue. -/
def State.dropRec (s : State) (die id : Nat) : State :=
  s.modDie die (fun d => { d with ready := d.ready.filter (fun g => g.id != id) })

/-- R262: the Governor places one ready record. -/
def execGovernorPlacement (die : Nat) (s : State) : Out :=
  let recs := (inPlaceOrder (s.die die).ready).filter (fun g => s.staysHere die g && s.recReady die g)
  event (if s.dieHeld die then s
    else
      match recs.findSome? (fun g => (s.placeCore die g).map (fun k => (g, k))) with
      | some (g, k) => (s.dropRec die g.id).sendPlaced k g
      | none => s)

/-! Forwarding (R263, R277, 15 R421). -/

/-- R263: a record goes from a die to another Governor, or, where none qualifies, its migration fails or it is dropped and reported. None while the
frame of a failed migration has to wait. -/
def State.forwardRec (s : State) (die : Nat) (g : GovRec) : Option State :=
  match s.forwardDie die g.aff g.affDie g.ev.ltag, g.ev.kind with
  | some d, _ => some (s.giveRecords die d [{ g with forwarded := true }])
  | none, .package p => if ((kget s.packs p).map s.mayReturn).getD true then some (s.bounce p) else none
  | none, _ =>
    let s := match g.ev.gov with | some r => s.retire (govCore die) g.ev.ltag r | none => s
    some (s.report g.ev.ltag failedAbsent 0 g.ev.item 0#64 0#64)

/-- R261, R263: a record that has come to a Governor enters its ready queue when that has room, oldest first; at a die that has stopped qualifying it is
forwarded again. -/
def State.enterGiven (s : State) (x : GivenRec) : State :=
  let taken : State := { s with given := s.given.erase x }
  if s.underWay 10 (.token x.rec_.id) then s
  else if !s.dieQualifies x.dst x.rec_.ev.ltag then (taken.forwardRec x.dst x.rec_).getD s
  else if s.given.find? (fun y => y.dst == x.dst && !s.underWay 10 (.token y.rec_.id)) != some x || decide (4096 ≤ (s.die x.dst).ready.length) then s
  else taken.modDie x.dst (fun d => { d with ready := d.ready ++ [x.rec_] })

/-- R263: a record that its die may not place goes to another Governor, or is dropped; one that another Governor has sent here enters. -/
def execGovernorForward (die task : Nat) (s : State) : Out :=
  match (s.die die).ready.find? (fun g => g.id == task) with
  | none =>
    match s.given.find? (fun x => x.dst == die && x.rec_.id == task) with
    | some x => event (s.enterGiven x)
    | none => event s
  | some g => event (if !s.recReady die g || s.staysHere die g then s else ((s.dropRec die task).forwardRec die g).getD s)

/-! Stealing (R265). -/

/-- The die ring. -/
def dieRing : List Nat := [0, 1, 2, 3, 7, 6, 5, 4]

def ringNeighbours (a b : Nat) : Bool :=
  let i := dieRing.findIdx (· == a)
  dieRing.getD ((i + 1) % 8) 8 == b || dieRing.getD ((i + 7) % 8) 8 == b

/-- An idle Governor: its ready queue is empty and a core of its die has no frame. -/
def State.governorIdle (s : State) (die : Nat) : Bool :=
  (s.die die).ready.isEmpty && (List.range 512).any (fun i => (s.core (512 * die + i)).frames.isEmpty)

/-- R265: at most one request per neighbour, at the interval of the policy. -/
def execStealRequest (die neighbour : Nat) (s : State) : Out :=
  event (if ringNeighbours die neighbour && s.governorIdle die && !s.dieHeld die && s.policy.stealRecords != 0 &&
      !(s.die die).steals.contains neighbour && decide ((s.die die).stealNext ≤ s.time) then
    (s.modDie die (fun d => { d with steals := d.steals ++ [neighbour], stealNext := s.time + s.policy.stealInterval })).sendInternal 10 (govCore die)
      (govCore neighbour) 0 0 (.access die neighbour)
  else s)

/-- R265: the neighbour answers with its clear records of affinity 0, in the order of placement, as many as the policy allows. DESIGN CHOICE: it gives no
record of a launch that holds no core of the die that asks, which could not place it (log entry 36). -/
def execStealAnswer (die neighbour : Nat) (s : State) : Out :=
  event (if (s.die die).steals.contains neighbour && !s.underWay 10 (.access die neighbour) then
    let give := ((inPlaceOrder (s.die neighbour).ready).filter (fun g =>
      g.aff == 0 && s.dieQualifies die g.ev.ltag && s.recReady neighbour g)).take s.policy.stealRecords
    let s := s.modDie neighbour (fun d => { d with ready := d.ready.filter (fun g => !give.contains g) })
    let s := if give.isEmpty then s.sendInternal 10 (govCore neighbour) (govCore die) 0 0 (.access neighbour die) else s
    (s.modDie die (fun d => { d with steals := d.steals.erase neighbour })).giveRecords neighbour die give
  else s)

end Sys2Proof.Machine
end

