-- ==== Sys2Proof/Machine/UltraEthernet.lean ====
section
/-! DEFINITION. Ultra Ethernet (spec 07 R224, R226; 14 R402 to R408). -/

namespace Sys2Proof.Machine

/-! Work requests (07 R226). -/

/-- A work request taken apart. -/
structure UeCmd where
  op : Nat
  rod : Bool
  ctx : Nat
  endpoint : Nat
  count : Bool
  src : Word
  len : Nat
  remote : Word
  key : Nat
  counter : Word
  imm : Nat
  deriving DecidableEq, Repr

def ueCmd (w : List Word) : UeCmd :=
  let at1 (i hi lo : Nat) : Nat := field (w.getD i 0#64) hi lo
  { op := at1 0 3 0, rod := at1 0 5 4 == 1, ctx := at1 0 15 8, endpoint := at1 0 31 16, count := at1 0 32 32 == 1, src := w.getD 1 0#64,
    len := at1 2 31 0, remote := w.getD 3 0#64, key := at1 4 31 0, counter := w.getD 5 0#64, imm := at1 6 31 0 }

def UeJob.cmd (j : UeJob) : UeCmd := ueCmd j.words

/-- Fields for which a push raises HEADER (R226, R403). -/
def State.ueBad (s : State) (words : List Word) : Bool :=
  let c := ueCmd words
  decide (2 < c.op) || decide (1 < field (words.getD 0 0#64) 5 4) || (c.count && c.counter.toNat % 8 != 0) ||
    (match kget s.netCtxs c.ctx with | none => true | some x => decide (x.endpoints.length ≤ c.endpoint))

/-! Pairs (R406, R407). -/

def uePairKey (ctx peer : Nat) : Nat := ctx * 65536 + peer

def UePair.reset : UePair := { nextPsn := 0, pending := [], cumul := 0, seen := [] }

def State.uePair (s : State) (k : Nat) : UePair := kgetD s.uePairs k UePair.reset
def State.modUePair (s : State) (k : Nat) (f : UePair → UePair) : State := { s with uePairs := kset s.uePairs k (f (s.uePair k)) }

/-- Whether a PSN stands before another, modulo 2^32. -/
def psnBefore (a b : Nat) : Bool := decide (2 ^ 31 ≤ (a + 2 ^ 32 - b % 2 ^ 32) % 2 ^ 32)

/-- Whether a packet has been received. -/
def UePair.has (x : UePair) (psn : Nat) : Bool := psnBefore psn x.cumul || x.seen.contains psn

/-- The lowest PSN not yet received, moved past those received beyond it. -/
def UePair.settle (x : UePair) : Nat → UePair
  | 0 => x
  | n + 1 =>
    if x.seen.contains x.cumul then
      { x with cumul := (x.cumul + 1) % 2 ^ 32, seen := x.seen.filter (fun p => p != x.cumul) }.settle n
    else x

def UePair.receive (x : UePair) (psn : Nat) : UePair :=
  if x.has psn then x else { x with seen := x.seen ++ [psn] }.settle (x.seen.length + 1)

/-- The acknowledgement of a pair (R407). -/
def State.ueAcknowledge (s : State) (ctx peer : Nat) : State :=
  let x := s.uePair (uePairKey ctx peer)
  let bits := (List.range 64).filter (fun i => x.seen.contains ((x.cumul + 1 + i) % 2 ^ 32))
  s.emit (.ueAck ctx peer x.peerEpoch x.cumul (BitVec.ofNat 64 ((bits.map (fun i => 2 ^ i)).foldl (· + ·) 0)))

/-- A packet counted as received and acknowledged. -/
def State.ueTaken (s : State) (p : UePacket) : State :=
  (s.modUePair (uePairKey p.ctx p.peer) (fun x => x.receive p.psn)).ueAcknowledge p.ctx p.peer

/-- The ports of a context: two on each Sluice (R402). -/
def NetContext.portList (x : NetContext) : List Nat := ((List.range 2).filter (bitOf x.ports)).map (2 * x.sluice + ·)

/-- A packet leaves by a port of its context. Under RUD each takes a path of its own, by its entropy value; those of a pair under ROD take one (R402). -/
def State.ueEmit (s : State) (ctx endpoint : Nat) (p : UePacket) : State :=
  let ports := ((kget s.netCtxs ctx).map NetContext.portList).getD []
  let path := Config.entropy (if p.rod then uePairKey ctx endpoint else 2 ^ 64 + s.freeIx)
  State.emit { s with freeIx := s.freeIx + 1 } (.ue (ports.getD (path % ports.length) 0) path p)

/-! Sending (R406). -/

def State.setUeJob (s : State) (id : Nat) (j : UeJob) : State := { s with ueJobs := kset s.ueJobs id j }

/-- The pseudo core under which the network engine keeps lines from outside (log entry 22). -/
def ueCore (id : Nat) : Nat := 524288 + id

/-- The packets of a pair that wait leave as far as the congestion control lets them: one at least may be under way (R402). -/
def State.ueDrive (s : State) (ctx endpoint : Nat) : State :=
  let k := uePairKey ctx endpoint
  let x := s.uePair k
  let window := max 1 (Config.ueWindow s.freeIx s.policy.ueCongestion)
  let go := (x.pending.filter (fun p => p.2.1 == 0)).take (window - (x.pending.filter (fun p => p.2.1 != 0)).length)
  if go.isEmpty then s
  else
    go.foldl (fun s p => s.ueEmit ctx endpoint p.1) (State.modUePair { s with freeIx := s.freeIx + 1 } k (fun x =>
      { x with pending := x.pending.map (fun p => if go.contains p then (p.1, 1, s.time) else p) }))

/-- What takes the place of a packet that is not to be placed any more: it consumes the packet's number at the target (log entry 24). -/
def ueBlank (p : UePacket) : UePacket := { p with op := 5, data := [], len := 0 }

/-- A job that fails: its packets are no longer sent. -/
def State.ueFail (s : State) (id : Nat) (j : UeJob) (status : Nat) (a : Word) : State :=
  ((s.setUeJob id { j with status := some (j.status.getD status), failAddr := if j.status.isSome then j.failAddr else a, sentAll := true }).modUePair
    (uePairKey j.cmd.ctx j.cmd.endpoint) (fun x =>
      { x with pending := x.pending.map (fun p => if j.psns.contains p.1.psn && p.1.op != 5 then (ueBlank p.1, 0, p.2.2) else p) })).ueDrive j.cmd.ctx j.cmd.endpoint

/-- The packets of a job, from a PSN on (R406). -/
def uePackets (id : Nat) (c : UeCmd) (target epoch psn : Nat) (data : List Byte) : List UePacket :=
  let one (i : Nat) (b : List Byte) : UePacket :=
    { ctx := target, peer := c.endpoint, epoch := epoch, psn := (psn + i) % 2 ^ 32, op := c.op, rod := c.rod, matchBits := c.remote, off := 4096 * i,
      len := c.len, data := b, key := c.key, addr := c.remote, imm := c.imm, msgId := id }
  if c.op = 2 ∨ c.len = 0 then [one 0 []] else (List.range (ceilDiv c.len 4096)).map (fun i => one i ((data.drop (4096 * i)).take 4096))

def State.ueTransmit (s : State) (id : Nat) (j : UeJob) (target : Nat) (data : List Byte) : State :=
  let c := j.cmd
  let k := uePairKey c.ctx c.endpoint
  let ps := uePackets id c target (s.uePair k).epoch (s.uePair k).nextPsn data
  let s := s.modUePair k (fun x => { x with nextPsn := (x.nextPsn + ps.length) % 2 ^ 32, pending := x.pending ++ ps.map (fun p => (p, 0, s.time)) })
  (s.setUeJob id { j with psns := ps.map (·.psn), sentAll := true }).ueDrive c.ctx c.endpoint

/-- Whether an earlier job stands before one that has not been sent: of the same core, or of the same pair. -/
def State.ueBehind (s : State) (id : Nat) (j : UeJob) : Bool :=
  s.ueJobs.any (fun x => decide (x.1 < id) && !x.2.sentAll &&
    (x.2.core == j.core || (x.2.cmd.ctx == j.cmd.ctx && x.2.cmd.endpoint == j.cmd.endpoint)))

/-- A job sent, once the stores that its push released have been performed (R224); the bytes it carries are read now. -/
def State.ueSend (s : State) (id : Nat) (j : UeJob) : State :=
  let c := j.cmd
  if j.sentAll || s.ueBehind id j || !s.afterDone j.after then s
  else
    match (kget s.netCtxs c.ctx).bind (fun x => x.endpoints[c.endpoint]?) with
    | none => s.ueFail id j failedAbsent 0#64
    | some ep =>
      if c.op = 2 then s.ueTransmit id j ep.ctx []
      else
        match s.engineReadV (ueCore id) j.tenant c.src c.len with
        | .later s => s
        | .failed st a => s.ueFail id j st a
        | .ok b s => (s.ueTransmit id j ep.ctx b).dropPseudo (ueCore id)

def execUepost (w : Bundle) (s : State) : Out :=
  bundle .uepost w s (fun c s =>
    let words := c.f.xRange (fieldB w) 8
    let tenant := s.tenantOf c.f.ltag
    if s.ueBad words then s.exact c.core .header 0#64
    else if (kget s.netCtxs (ueCmd words).ctx).map (·.tenant) ≠ some tenant then s.exact c.core .tenant (words.getD 0 0#64)
    else if 32 ≤ c.f.lv.cpc then s
    else
      s.beforeRelease c 2 [] (fun s =>
        let after := s.unperformed c.core
        let (succ, s) := s.takePending c.core
        let ident := s.jobIdent c.core 3
        let s := s.countPush c ident
        let id := s.fresh.1
        let s := s.fresh.2
        let j : UeJob :=
          { core := c.core, level := c.f.level, task := c.f.task, item := c.f.item, ltag := c.f.ltag, tenant := tenant, ident := ident,
            words := words, succ := succ, psns := [], arrived := [], sentAll := false, status := none, failAddr := 0#64, after := after }
        ((s.setUeJob id j).ueSend id j).advance c))

/-! Placement at the target (R404, R405). -/

/-- The pseudo core of a target context. -/
def ueTargetCore (ctx : Nat) : Nat := 458752 + ctx

/-- The endpoint's own context, to which answers go. -/
def State.ueAnswer (s : State) (p : UePacket) (op : Nat) (off : Nat) (data : List Byte) : State :=
  let target := (((kget s.netCtxs p.ctx).bind (fun x => x.endpoints[p.peer]?)).map (·.ctx)).getD 0
  s.ueEmit p.ctx p.peer { p with ctx := target, op := op, off := off, data := data }

/-- R405: an access that its key does not allow: the sender's job fails, the target does not change. The packet does not count as received, so that it
comes again when the answer is lost. -/
def State.ueRefuse (s : State) (p : UePacket) : State := s.ueAnswer p 3 0 []

/-- The part of a message that a packet's context has received. -/
def State.ueMsg (s : State) (p : UePacket) : Option UeMsg := s.ueMsgs.find? (fun m => m.ctx == p.ctx && m.peer == p.peer && m.msgId == p.msgId)

def State.setUeMsg (s : State) (m : UeMsg) : State :=
  { s with ueMsgs := s.ueMsgs.filter (fun x => !(x.ctx == m.ctx && x.peer == m.peer && x.msgId == m.msgId)) ++ [m] }

/-- The place of a word of a table that stands in the host or another package. -/
def State.tableOutside (s : State) (tenant : Nat) (a : Word) : Option Phys := (s.ownPhys tenant a).filter (fun p => p.policy == 3 || p.policy == 4)

/-- A word of a receive list or key table of a context in its tenant's memory; one from outside as it has come. -/
def State.tableWord (s : State) (ctx tenant : Nat) (a : Word) : Option Word :=
  match s.tableOutside tenant a with
  | some p => match s.readPhys (ueTargetCore ctx) p 8 with | .ok b => some (BitVec.ofNat 64 (leValue b)) | _ => none
  | none => (s.ownRead tenant a 8).map (fun b => BitVec.ofNat 64 (leValue b))

/-- A word of a table that has to be asked for, or that the engine itself is still writing. -/
def State.tableMissing (s : State) (ctx tenant : Nat) (l : List Word) : Option Phys :=
  l.findSome? (fun a => (s.tableOutside tenant a).filter (fun p =>
    (match s.readPhys (ueTargetCore ctx) p 8 with | .wait _ _ => true | _ => false) ||
      s.ops.any (fun o => o.2.core == ownAgent && o.2.kind.isStore && o.2.elems.any (fun e => locsMeet e.loc e.size (.global p.policy p.home p.pa) 8))))

/-- The address of word k of entry i of a receive list, and of a key's entry. -/
def listWord (x : NetContext) (i k : Nat) : Word := x.rlist + BitVec.ofNat 64 (64 * i + 8 * k)
def keyWord (x : NetContext) (i k : Nat) : Word := x.keys + BitVec.ofNat 64 (32 * i + 8 * k)

/-- R404 step 1: the entry of the receive list that a message's first packet takes. -/
def State.matchEntry (s : State) (x : NetContext) (p : UePacket) : Option UeMsg :=
  let word (i k : Nat) : Word := (s.tableWord p.ctx x.tenant (listWord x i k)).getD 0#64
  (firstBelow (fun i => (word i 2).getLsbD 32 && word i 0 == p.matchBits) x.rlen).map (fun i =>
    { ctx := p.ctx, peer := p.peer, msgId := p.msgId, entry := i, base := word i 1, size := field (word i 2) 31 0, counter := word i 3, got := 0,
      stores := [] })

/-- R405: the region that a key opens to a whole message. -/
def State.keyEntry (s : State) (x : NetContext) (p : UePacket) (write : Bool) : Option UeMsg :=
  let i := p.key % 65536
  let word (k : Nat) : Option Word := s.tableWord p.ctx x.tenant (keyWord x i k)
  match word 0, word 1, word 2, word 3 with
  | some base, some len, some flags, some counter =>
    if flags.getLsbD 2 && flags.getLsbD (if write then 1 else 0) && field flags 31 16 == p.key / 65536 &&
        decide (base.toNat ≤ p.addr.toNat) && decide (p.addr.toNat + p.len ≤ base.toNat + len.toNat) then
      some { ctx := p.ctx, peer := p.peer, msgId := p.msgId, entry := i, base := p.addr, size := p.len, counter := counter, got := 0, stores := [] }
    else none
  | _, _, _, _ => none

/-- What a packet needs of its context's tables and is not there: the entry of its key, or the receive list up to the entry that it takes. -/
def State.tablesMissing (s : State) (x : NetContext) (p : UePacket) : Option Phys :=
  if (s.ueMsg p).isSome then none
  else if p.op = 0 then
    let n := match s.matchEntry x p with | some m => m.entry + 1 | none => x.rlen
    s.tableMissing p.ctx x.tenant ((List.range n).flatMap (fun i => (List.range 4).map (listWord x i)))
  else s.tableMissing p.ctx x.tenant ((List.range 4).map (keyWord x (p.key % 65536)))

/-- A packet's bytes stored in the buffer of its message; those beyond the buffer are discarded. None when the buffer cannot be stored to. -/
def State.placePacket (s : State) (x : NetContext) (m : UeMsg) (p : UePacket) : Option State :=
  let b := p.data.take (m.size - p.off)
  match s.runStores (ueTargetCore p.ctx) x.tenant [(m.base + BitVec.ofNat 64 p.off, b)] with
  | (.error _, _) => none
  | (.ok l, s) =>
    let j : StoreFor := { id := s.nextId, ltag := 0, tenant := x.tenant, item := 0#64 }
    some (l.foldl (fun s q => s.engineStore j q.1 q.2) s)

/-- R404 steps 2 and 3, R405: after the last byte has been performed the engine writes the lengths of a SEND, and then raises the counter. -/
def State.messageDone (s : State) (x : NetContext) (m : UeMsg) (p : UePacket) : State :=
  let s := { s with ueMsgs := s.ueMsgs.filter (fun y => !(y.ctx == m.ctx && y.peer == m.peer && y.msgId == m.msgId)) }
  let t :=
    if p.op = 0 then
      (s.ownWriteAs x.tenant (listWord x m.entry 4) (leBytes p.len 4) m.stores 0).ownWriteAs x.tenant (listWord x m.entry 5) (leBytes p.imm 4) m.stores 0
    else s
  if m.counter = 0#64 then t else t.countUp x.tenant m.counter (m.stores ++ issuedSince s t)

/-- A packet of a SEND or WRITE placed in its message. -/
def State.placeIn (s : State) (x : NetContext) (m : UeMsg) (p : UePacket) : Option State :=
  (s.placePacket x m p).map (fun t =>
    let m := { m with got := m.got + p.data.length, stores := m.stores ++ issuedSince s t }
    let s := t
    (if p.len ≤ m.got then s.messageDone x m p else s.setUeMsg m).ueTaken p)

/-- R404 steps 1 and 4. -/
def State.placeSend (s : State) (x : NetContext) (p : UePacket) : State :=
  let placed : Option State :=
    match s.ueMsg p with
    | some m => s.placeIn x m p
    | none =>
      match s.matchEntry x p with
      | none => none
      | some m =>
        let a := listWord x m.entry 2
        let v := ((s.tableWord p.ctx x.tenant a).getD 0#64).toNat
        (s.ownWrite x.tenant (a + 4#64) (leBytes (v / 2 ^ 32 % 256 - 1) 1)).placeIn x m p
  placed.getD (s.ueAnswer p 4 0 [])

/-- R405: a WRITE. -/
def State.placeWrite (s : State) (x : NetContext) (p : UePacket) : State :=
  match (match s.ueMsg p with | some m => some m | none => s.keyEntry x p true) with
  | none => s.ueRefuse p
  | some m => (s.placeIn x m p).getD (s.ueRefuse p)

/-- R405: the sender learns that its access was refused. -/
def State.ueRefused (s : State) (p : UePacket) : State :=
  match s.ueJobs.find? (fun j => j.2.cmd.ctx == p.ctx && j.2.cmd.endpoint == p.peer && j.2.psns.contains p.psn && j.2.status.isNone &&
      p.epoch == (s.uePair (uePairKey p.ctx p.peer)).epoch) with
  | some (id, j) => s.ueFail id j failedXlate j.cmd.remote
  | none => s

/-- The lines of tables from outside let go. -/
def State.dropTables (s : State) (ctx : Nat) : State := if (kget s.cores (ueTargetCore ctx)).isSome then s.dropPseudo (ueTargetCore ctx) else s

/-- Whether a context takes no packets: the interface of its tenant is in ERROR (R394, R410). -/
def State.ueShut (s : State) (x : NetContext) : Bool := (s.fn (s.fnOfTenant x.tenant)).tdi == .error

/-- R407: a packet of a pair that its sender has reset begins the numbers again. -/
def State.ueMeet (s : State) (p : UePacket) : State :=
  if p.epoch ≤ (s.uePair (uePairKey p.ctx p.peer)).peerEpoch then s
  else
    State.modUePair { s with ueMsgs := s.ueMsgs.filter (fun m => !(m.ctx == p.ctx && m.peer == p.peer)) } (uePairKey p.ctx p.peer)
      (fun x => { x with cumul := 0, seen := [], peerEpoch := p.epoch })

/-- Whether a packet cannot be decided or placed now, because an `ahnd` handler holds a word of the context's tables or of the page tables (07 R200). -/
def State.ueHeld (s : State) (x : NetContext) (p : UePacket) : Bool :=
  let held (a : Word) : Bool := ((s.ownPhys x.tenant a).map (fun q => s.heldByHandler 0 q.loc 8)).getD false
  let words : List Word :=
    if (s.ueMsg p).isSome then []
    else if p.op = 0 then (List.range x.rlen).flatMap (fun i => (List.range 4).map (listWord x i))
    else (List.range 4).map (keyWord x (p.key % 65536))
  words.any held ||
    match (s.ueMsg p).or (if p.op = 0 then s.matchEntry x p else if p.op = 1 then s.keyEntry x p true else none) with
    | some m =>
      (match s.runStores (ueTargetCore p.ctx) x.tenant [(m.base + BitVec.ofNat 64 p.off, p.data.take (m.size - p.off))] with
       | (.error (0, _), _) => true
       | _ => false)
    | none => false

/-- R404 to R407: a packet arrives. Duplicates are discarded, and under ROD every packet but the next expected one. One whose entry stands outside the
package and has not come yet, or is held, is taken when it is sent again (log entry 24). -/
def execUePacketReceive (packet : UePacket) (s : State) : Out :=
  match packet.op, kget s.netCtxs packet.ctx with
  | _, none => event s
  | 3, some _ => event (s.ueRefused packet)
  | 4, some _ => event s
  | 2, some _ => event s
  | op, some x =>
    let s := s.ueMeet packet
    let pair := s.uePair (uePairKey packet.ctx packet.peer)
    if s.ueShut x || packet.epoch != pair.peerEpoch then event s
    else if op = 5 then event (s.ueTaken packet)
    else if pair.has packet.psn || (packet.rod && packet.psn != pair.cumul) then event (s.ueAcknowledge packet.ctx packet.peer)
    else
      match s.tablesMissing x packet with
      | some p => event (s.requestBytes (ueTargetCore packet.ctx) x.tenant p 8)
      | none => event (if s.ueHeld x packet then s else (if op = 0 then s.placeSend x packet else s.placeWrite x packet).dropTables packet.ctx)

/-- R405, R406: a READ is answered with all its data, whenever its request arrives. -/
def execUeReadRequest (packet : UePacket) (s : State) : Out :=
  match kget s.netCtxs packet.ctx with
  | none => event s
  | some x =>
    let s := s.ueMeet packet
    let pair := s.uePair (uePairKey packet.ctx packet.peer)
    if s.ueShut x || packet.epoch != pair.peerEpoch then event s
    else if packet.rod && packet.psn != pair.cumul && !pair.has packet.psn then event (s.ueAcknowledge packet.ctx packet.peer)
    else
      match s.tablesMissing x packet, s.keyEntry x packet false with
      | some p, _ => event (s.requestBytes (ueTargetCore packet.ctx) x.tenant p 8)
      | none, none => event (if s.ueHeld x packet then s else (s.ueRefuse packet).dropTables packet.ctx)
      | none, some m =>
        match s.engineReadV (ueTargetCore packet.ctx) x.tenant m.base packet.len with
        | .later s => event s
        | .failed _ _ => event ((s.ueRefuse packet).dropTables packet.ctx)
        | .ok b s =>
          let n := max 1 (ceilDiv packet.len 4096)
          event ((List.range n).foldl (fun s i => s.ueAnswer packet 2 (4096 * i) ((b.drop (4096 * i)).take 4096))
            ((s.ueTaken packet).dropPseudo (ueTargetCore packet.ctx)))

/-- R406: data of a READ is placed as it arrives; the request counts as acknowledged when all of it has. -/
def execUeReadResponse (packet : UePacket) (s : State) : Out :=
  match s.ueJobs.find? (fun j => j.2.cmd.ctx == packet.ctx && j.2.cmd.endpoint == packet.peer && j.2.cmd.op == 2 &&
      j.2.psns.contains packet.psn && j.2.status.isNone && packet.epoch == (s.uePair (uePairKey packet.ctx packet.peer)).epoch) with
  | none => event s
  | some (id, j) =>
    match s.runStores (ueCore id) j.tenant [(j.cmd.src + BitVec.ofNat 64 packet.off, packet.data)] with
    | (.error (0, _), s) => event s
    | (.error e, s) => event (s.ueFail id j e.1 e.2)
    | (.ok l, s) =>
      let f : StoreFor := { id := id, ltag := j.ltag, tenant := j.tenant, item := j.item }
      let s := l.foldl (fun s q => s.engineStore f q.1 q.2) s
      let j := { j with arrived := if j.arrived.contains packet.off then j.arrived else j.arrived ++ [packet.off] }
      let s := s.setUeJob id j
      event (if max 1 (ceilDiv j.cmd.len 4096) ≤ j.arrived.length then
        (s.modUePair (uePairKey packet.ctx packet.peer) (fun x => { x with pending := x.pending.filter (fun p => p.1.psn != packet.psn) })).ueDrive packet.ctx packet.peer
      else s)

/-! Acknowledgements and retransmission (R407). -/

/-- A pair whose packet was sent 32 times in vain: the jobs that it still carries fail, and the pair starts again, which its next packets tell the other side
(log entry 24). -/
def State.ueGiveUp (s : State) (ctx endpoint : Nat) : State :=
  let open_ := s.ueJobs.filter (fun j => j.2.cmd.ctx == ctx && j.2.cmd.endpoint == endpoint && j.2.sentAll && j.2.status.isNone &&
    (s.uePair (uePairKey ctx endpoint)).pending.any (fun p => j.2.psns.contains p.1.psn))
  open_.foldl (fun s j => s.ueFail j.1 j.2 failedTimeout 0#64)
    (s.modUePair (uePairKey ctx endpoint) (fun x => { x with nextPsn := 0, pending := [], epoch := x.epoch + 1 }))

/-- A packet sent again. -/
def State.ueResend (s : State) (ctx endpoint psn : Nat) : State :=
  match (s.uePair (uePairKey ctx endpoint)).pending.find? (fun p => p.1.psn == psn) with
  | none => s
  | some (p, n, _) =>
    if 32 ≤ n then s.ueGiveUp ctx endpoint
    else
      (s.modUePair (uePairKey ctx endpoint) (fun x =>
        { x with pending := x.pending.map (fun q => if q.1.psn = psn then (q.1, n + 1, s.time) else q) })).ueEmit ctx endpoint p

/-- Whether an acknowledgement shows a PSN as received. -/
def ackShows (cumulative : Nat) (bitmap : Word) (psn : Nat) : Bool :=
  let d := (psn + 2 ^ 32 - (cumulative + 1) % 2 ^ 32) % 2 ^ 32
  psnBefore psn cumulative || (decide (d < 64) && bitmap.getLsbD d)

/-- R407: received packets leave the pair; one shown missing with at least 2 higher ones received is sent again. -/
def execUeAck (ctx endpoint : Nat) (cumulative : AckPoint) (bitmap : Word) (s : State) : Out :=
  let k := uePairKey ctx endpoint
  if cumulative.epoch ≠ (s.uePair k).epoch then event s
  else
  let shown := (List.range 64).filter (fun i => bitmap.getLsbD i)
  let s := s.modUePair k (fun x =>
    { x with pending := x.pending.filter (fun p => p.1.op == 2 || !ackShows cumulative.psn bitmap p.1.psn) })
  let higher (psn : Nat) : Nat := (shown.filter (fun i => psnBefore psn ((cumulative.psn + 1 + i) % 2 ^ 32))).length
  let lost := (s.uePair k).pending.filter (fun p => !ackShows cumulative.psn bitmap p.1.psn && decide (2 ≤ higher p.1.psn))
  event ((lost.foldl (fun s p => s.ueResend ctx endpoint p.1.psn) s).ueDrive ctx endpoint)

/-- R407: the retransmit timeout of a packet. -/
def execUeRetransmitTimeout (ctx endpoint psn : Nat) (s : State) : Out :=
  match (s.uePair (uePairKey ctx endpoint)).pending.find? (fun p => p.1.psn == psn) with
  | some (_, n, t) => event (if n ≠ 0 ∧ t + s.policy.ueTimeout ≤ s.time then s.ueResend ctx endpoint psn else s)
  | none => event s

/-! Completion (R408). -/

/-- Whether an earlier ordered job of the same context has not completed. -/
def State.ueOrderedBefore (s : State) (id : Nat) (j : UeJob) : Bool :=
  j.cmd.rod && s.ueJobs.any (fun x => decide (x.1 < id) && x.2.cmd.ctx == j.cmd.ctx && x.2.cmd.rod)

/-- The job's status, then its counter. -/
def State.ueFinish (s : State) (id : Nat) (j : UeJob) (status : Nat) : State :=
  let s := { s with ueJobs := kdel s.ueJobs id }.endJob j.core j.level j.task j.ltag j.ident 3 status j.item j.succ j.after j.failAddr
  if j.cmd.count then s.countUp j.tenant j.cmd.counter [] else s

/-- R408: a job that has not been sent yet is sent, once it can be; one whose packets are all acknowledged completes, and a READ when its data
has been performed. -/
def execUeJobCompletion (job : Nat) (s : State) : Out :=
  match kget s.ueJobs job with
  | none => event s
  | some j =>
    if s.parked j.ltag then event s
    else if !j.sentAll then event (s.ueSend job j)
    else if s.ueOrderedBefore job j || s.storesOpen job then event s
    else
      match j.status with
      | some st => event (s.ueFinish job j st)
      | none =>
        let waiting := (s.uePair (uePairKey j.cmd.ctx j.cmd.endpoint)).pending.any (fun p => j.psns.contains p.1.psn)
        event (if waiting then s else s.ueFinish job j 1)

/-! Contexts (R403). -/

/-- Whether the function of a tenant lets its configuration change (R394). -/
def State.tenantOpen (s : State) (tenant : Nat) : Bool :=
  match kget s.tenants tenant with
  | some t => !t.valid || (s.fn t.function).open_
  | none => true

/-- R403: Primrose writes a network context; it refuses while the tenant's interface is locked (R394). -/
def execNetworkContextWrite (index : Nat) (context : Option NetContext) (s : State) : Out :=
  let old := match kget s.netCtxs index with | some x => s.tenantOpen x.tenant | none => true
  let new := match context with | some x => s.tenantOpen x.tenant | none => true
  event (if decide (index < 256) && old && new then
    { s with netCtxs := match context with | some x => kset s.netCtxs index x | none => kdel s.netCtxs index }
  else s.emit (.report 7 (BitVec.ofNat 64 index)))

end Sys2Proof.Machine
end

