-- ==== Sys2Proof/Machine/Launches.lean ====
section
/-! DEFINITION. Launches (spec 13 R349 to R357; 10 R289 to R293; 14 R389 to R391; 15 R416, R418). -/

namespace Sys2Proof.Machine

/-! The footprint (R352, R353). -/

/-- Cores of a unit of a domain. -/
def domCores (dom : Nat) : Nat :=
  match dom with
  | 0 => 1 | 1 => 8 | 2 => 32 | 3 => 128 | 4 => 512 | _ => 4096

/-- A level binding. -/
structure Binding where
  dom : Nat
  scope : Nat
  report : Bool
  first : Nat
  count : Nat
  deriving DecidableEq, Repr

def bindingOf (w : Word) : Binding :=
  { dom := field w 2 0, scope := field w 5 3, report := w.getLsbD 6, first := field w 31 16, count := field w 63 32 }

/-- The bindings of a record. -/
def recBindings (words : List Word) : List Binding :=
  (List.range (field (words.getD 0 0#64) 17 14)).map (fun i => bindingOf (words.getD (24 + i) 0#64))

/-- Whether bindings obey R352 within a parent domain (7 for none). -/
def bindingsOk (parent : Nat) : List Binding → Bool
  | [] => parent == 0
  | b :: rest =>
    decide (b.dom < parent) && decide (b.dom < 7) && decide (b.scope < 7) && decide (1 ≤ b.count) &&
      (match b.dom with
        | 6 => b.first == 0 && b.count == 1
        | 5 => decide (b.first + b.count ≤ 1024)
        | d => decide (b.first + b.count ≤ (if parent = 6 then 1024 * 4096 else domCores (min parent 5)) / domCores d)) && bindingsOk b.dom rest

/-- The number of leaves inside an instance of the last of some bindings. -/
def leavesOf (l : List Binding) : Nat := (l.map (·.count)).foldl (· * ·) 1

/-- The leaves of bindings on a package, below a unit whose first core is `base`, counted over the packages of the system: cores with their leaf
indexes. -/
def leafCores (pkg : Nat) (base leaf : Nat) : List Binding → List (Nat × Nat)
  | [] => [(base % 4096, leaf)]
  | b :: rest =>
    (List.range b.count).flatMap (fun i =>
      if b.dom = 6 then leafCores pkg base leaf rest
      else
        let first := base + (b.first + i) * domCores b.dom
        if first / 4096 = pkg then leafCores pkg first (leaf + i * leavesOf rest) rest else [])

/-- The cores of a launch on a package with their leaf indexes; a launch whose outermost binding lies within a package runs on its own. -/
def recLeavesOn (own pkg : Nat) (words : List Word) : List (Nat × Nat) :=
  let all := recBindings words
  leafCores pkg (if ((all.head?.map (·.dom)).getD 0) < 5 then 4096 * own else 0) 0 all

/-- Cores of a launch on this package with their leaf indexes. -/
def recLeaves (pkg : Nat) (words : List Word) : List (Nat × Nat) := recLeavesOn pkg pkg words

def tilesOf (cores : List Nat) : List Nat :=
  sortBy (fun a b => decide (a < b)) (cores.foldl (fun acc k => if acc.contains (tileOf k) then acc else acc ++ [tileOf k]) [])

/-! Reading tables. -/

/-- Several runs of a tenant's bytes. -/
inductive Tables where
  | ok (l : List (List Byte)) (s : State)
  | later (s : State)
  | failed

def State.readTables (s : State) (core tenant : Nat) : List (Word × Nat) → Tables
  | [] => .ok [] s
  | (va, n) :: rest =>
    match s.engineReadV core tenant va n with
    | .later s => .later s
    | .failed _ _ => .failed
    | .ok b s =>
      match s.readTables core tenant rest with
      | .ok l s => .ok (b :: l) s
      | r => r

def byteWords (b : List Byte) : List Word := (List.range (b.length / 8)).map (recWord b)

/-! Checks of a record (R354). -/

/-- What the Governor has read of a record: its words, start list, allocation tables, barrier table and group table. -/
structure LaunchRec where
  words : List Word
  starts : List (List Word)
  alloc : List (List Word)
  bars : List (List Word)
  groups : List (List Word)
  deriving DecidableEq, Repr

def recField (words : List Word) (i hi lo : Nat) : Nat := field (words.getD i 0#64) hi lo

/-- The tables of a record as runs to read: start list, allocation, barriers, groups; an address of 0 is an absent table. -/
def recTables (pkg : Nat) (words : List Word) : List (Word × Nat) :=
  let one (i n : Nat) : Word × Nat := (words.getD i 0#64, if words.getD i 0#64 = 0#64 then 0 else n)
  let tiles := (tilesOf ((recLeaves pkg words).map (·.1))).length
  [one 16 (48 * recField words 17 15 0), one 6 (128 * (if recField words 1 25 25 = 1 then tiles else 1)),
   one 10 (16 * recField words 12 27 16), one 11 (16 * recField words 12 43 32)]

/-- Whether a start-list entry is for this package. -/
def startHere (pkg : Nat) (e : List Word) : Bool := (e.getD 0 0#64).getLsbD 29 || field (e.getD 0 0#64) 21 12 == pkg

/-- Check 2 on the record alone. -/
def recordShapeOk (words : List Word) : Bool :=
  let f := recField words
  let even (i : Nat) : Bool := !(words.getD i 0#64).getLsbD 0
  f 0 7 0 == 1 && decide (1 ≤ f 0 17 14) && decide (f 0 17 14 ≤ 8) && bindingsOk 7 (recBindings words) && decide (f 0 40 38 < 7) &&
    decide (f 17 18 16 < 7) && decide (6 ≤ f 14 4 0) && decide (f 14 4 0 ≤ 20) && decide (6 ≤ f 14 12 8) && decide (f 14 12 8 ≤ 20) &&
    words.getD 13 0#64 != 0#64 && f 13 5 0 == 0 && words.getD 15 0#64 != 0#64 && f 15 11 0 == 0 && even 4 && even 5 && even 18 &&
    f 16 3 0 == 0

/-- Whether a core of a package lies in the footprint of a record (R352). -/
def inFootprint (own : Nat) (words : List Word) (pkg core : Nat) : Bool := (recLeavesOn own pkg words).any (fun x => x.1 == core)

/-- Check 2 on the start list. -/
def startsOk (pkg : Nat) (words : List Word) (starts : List (List Word)) : Bool :=
  starts.all (fun e =>
    let v := e.getD 0 0#64
    inFootprint pkg words (if startHere pkg e then pkg else field v 21 12) (field v 11 0) && decide (field v 34 32 < 7) &&
      !(e.getD 1 0#64).getLsbD 0)

/-- The allocation entries of a tile (R291, R351). -/
def allocOf (r : LaunchRec) (tiles : List Nat) (t : Nat) : List Nat :=
  let i := if recField r.words 1 25 25 = 1 then tiles.findIdx (· == t) else 0
  ((r.alloc.getD i []).take 15).map (·.toNat)

/-- The allocations that a tile's own array holds: base and size in bytes. -/
def ownAllocs (t : Nat) (l : List Nat) : List (Nat × Nat) :=
  (l.filter (fun e => bitsOf e 19 10 != 0 && (!bitOf e 23 || bitsOf e 32 24 == t))).map (fun e => (512 * bitsOf e 9 0, 512 * bitsOf e 19 10))

/-- Whether no two of some runs share a byte. -/
def disjointRuns : List (Nat × Nat) → Bool
  | [] => true
  | x :: rest => rest.all (fun y => !overlaps x.1 x.2 y.1 y.2) && disjointRuns rest

/-- Check 5 on one tile. -/
def scratchOk (r : LaunchRec) (cores tiles : List Nat) (t : Nat) : Bool :=
  let side := 1024 * recField r.words 1 8 0
  let c := (cores.filter (fun k => tileOf k == t)).length
  let areas := 12288 * c + 256 * recField r.words 1 24 16 * c
  let l := allocOf r tiles t
  let own := ownAllocs t l
  decide (areas ≤ side) && l.all (fun e => bitsOf e 22 20 != 7) && own.all (fun x => decide (areas ≤ x.1) && decide (x.1 + x.2 ≤ side)) &&
    disjointRuns own

/-- A barrier entry: die, unit, members. -/
structure BarrierEntry where
  die : Nat
  unit : Nat
  members : List Nat
  deriving DecidableEq, Repr

/-- A barrier entry with its member block (R351). -/
def barrierEntry (w : List Word) (block : List Byte) : BarrierEntry :=
  let bit (i : Nat) : Bool := (block.getD (i / 8) 0#8).getLsbD (i % 8)
  { die := field (w.getD 0 0#64) 10 8, unit := field (w.getD 0 0#64) 7 0,
    members := (List.range 4096).filter bit ++ ((List.range 72).filter (fun i => bit (4096 + i))).map (fun i => coreKey 2 (64 * (i / 36) + i % 36)) }

/-- The ranks of a group (R351). -/
def groupRanks (b : List Byte) (n : Nat) : List (Nat × Nat) :=
  (List.range n).map (fun i => let v := leValue ((b.drop (4 * i)).take 4); (bitsOf v 11 0, bitsOf v 21 12))

/-- Check 6: the units are free, members and ranks lie in the footprint. Collective groups are numbered within a launch and taken by no other (log entry
11). -/
def State.resourcesOk (s : State) (words : List Word) (bars : List BarrierEntry) (groups : List (List (Nat × Nat))) (count : Nat) : Bool :=
  decide (count ≤ 2048) && bars.all (fun b => (kget (s.die b.die).barriers b.unit).isNone) &&
    (bars.map (fun b => (b.die, b.unit))).eraseDups.length == bars.length &&
    bars.all (fun b => b.members.all (fun m => !isCompute m || inFootprint s.pkg words s.pkg m)) &&
    groups.all (fun g => g.all (fun r => inFootprint s.pkg words r.2 r.1))

/-- R354: the status of a record whose tables have been read. -/
def State.recordStatus (s : State) (tenant : Nat) (r : LaunchRec) (bars : List BarrierEntry) (groups : List (List (Nat × Nat))) : Nat :=
  let cores := (recLeaves s.pkg r.words).map (·.1)
  let tiles := tilesOf cores
  if !recordShapeOk r.words || !startsOk s.pkg r.words r.starts then 18
  else if recField r.words 0 13 8 ≠ tenant ∨ cores.all (fun k => s.inMesh tenant (tileOf k)) = false then 19
  else if 288 < recField r.words 1 8 0 then 16
  else if recField r.words 1 8 0 % 16 ≠ 0 ∨ tiles.all (scratchOk r cores tiles) = false then 17
  else if !s.resourcesOk r.words bars groups (recField r.words 12 27 16) then 20
  else 0

/-! Acceptance (R349, R355, R364). -/

/-- R349: the next launch tag, above the one last assigned, skipping 0 and those in use; `fuel` bounds the search. -/
def State.tagFrom (s : State) : Nat → Nat → Nat
  | 0, t => t
  | n + 1, t =>
    let t := t % 65536
    if t = 0 ∨ (s.ctx t).isSome = true then s.tagFrom n (t + 1) else t

/-- A context created (R364), its barrier units taken. -/
def State.acceptLaunch (s : State) (fn queue tenant : Nat) (r : LaunchRec) (bars : List BarrierEntry) (groups : List (List (Nat × Nat))) :
    Nat × State :=
  let tag := s.tagFrom 65536 (s.lastTag + 1)
  let cores := (recLeaves s.pkg r.words).map (·.1)
  let tiles := tilesOf cores
  let c : Context :=
    { tenant := tenant, fn := fn, queue := queue, homeDie := dieOfFn fn, words := r.words, foot := cores, state := .waiting,
      order := s.acceptSeq, started := [],
      ceil := (List.range 32).map (fun n => field (r.words.getD (2 + n / 16) 0#64) (4 * (n % 16) + 2) (4 * (n % 16))),
      alloc := tiles.map (fun t => (t, allocOf r tiles t)), ahand := [], rclass := [], groups := groups, cqCount := 0, cqLost := 0,
      failures := 0, starts := r.starts, leat := [], leatHead := 0, leatTail := 0, saved := none, instDone := [], thrPred := 0,
      tabs := [], urgent := false, startLeft := [] }
  let s := bars.foldl (fun s b => s.modDie b.die (fun d =>
    let u : Barrier := { ltag := tag, members := b.members, leads := [], phase := 0, store := [], overflow := [], after := [] }
    { d with barriers := kset d.barriers b.unit u })) s
  (tag, { s with ctxs := kset s.ctxs tag c, lastTag := tag, acceptSeq := s.acceptSeq + 1 })

/-! Launch queues (14 R389 to R391). -/

/-- R391 steps 1 and 2: a doorbell written by the host. -/
def execLaunchDoorbell (fn : HostFn) (queue tail : Nat) (s : State) : Out :=
  event (if queue < 16 then s.hostRequest fn.fn fn.via (fun s => s.modQueue fn.fn queue (fun q => q.ring (tail % 65536))) else s)

/-- The pseudo core under which a queue's Governor reads host memory and other packages (log entry 22). -/
def ringCore (fn queue : Nat) : Nat := 655360 + 16 * fn + queue

/-- The place of entry i of a ring. -/
def LaunchQueue.entryAddr (q : LaunchQueue) (i : Nat) : Nat := (q.base * 4096 + 16 * (i % 2 ^ q.lg)) % 2 ^ 64

/-- A ring entry read (R390), from the tenant's memory or at a bus address of the host. -/
def State.readEntry (s : State) (fn queue : Nat) (q : LaunchQueue) : EngineRead :=
  let a := q.entryAddr q.head
  if q.loc = 1 then s.engineReadV (ringCore fn queue) (s.fn fn).tenant (BitVec.ofNat 64 a) 16
  else
    match s.readPhys (ringCore fn queue) { policy := 4, home := 0, pa := a % 2 ^ 52 } 16 with
    | .ok b => .ok b s
    | .wait p n => .later (s.requestBytes (ringCore fn queue) (s.fn fn).tenant p n)
    | .busy => .later s
    | .fault _ _ => .failed failedAbsent 0#64
    | .ecc _ => .failed failedEcc 0#64

/-- R391 step 3: word 1 of an entry written, and the head moved on. -/
def State.answerEntry (s : State) (fn queue : Nat) (q : LaunchQueue) (status tag : Nat) : State :=
  let a := q.entryAddr q.head + 8
  let b := leBytes (status + tag * 256 + 2 ^ 63) 8
  let s := if q.loc = 1 then s.ownWrite (s.fn fn).tenant (BitVec.ofNat 64 a) b else s.emit (.hostWrite fn (s.ideOf fn) 0 0 (a % 2 ^ 52) b)
  (s.modQueue fn queue (fun q => { q with head := (q.head + 1) % 65536 })).dropPseudo (ringCore fn queue)

/-- A record decided, its tables having been read. -/
def State.decideRecord (s : State) (fn queue : Nat) (q : LaunchQueue) (r : LaunchRec) (blocks ranks : List (List Byte)) : State :=
  let tenant := (s.fn fn).tenant
  let bars := List.zipWith barrierEntry r.bars blocks
  let groups := List.zipWith (fun (g : List Word) b => groupRanks b (field (g.getD 0 0#64) 15 0)) r.groups ranks
  let st := s.recordStatus tenant r bars groups
  if st = 0 then
    let a := s.acceptLaunch fn queue tenant r bars groups
    a.2.answerEntry fn queue q 0 a.1
  else s.answerEntry fn queue q st 0

def wordRows (b : List Byte) (n : Nat) : List (List Word) := (chunksOf n b (b.length / n)).map byteWords

/-- A record whose words are known: the tables that its checks need are read, once for the launch, then it is decided (R351, R354). -/
def State.takeRecord (s : State) (fn queue : Nat) (q : LaunchQueue) (words : List Word) : State :=
  let tenant := (s.fn fn).tenant
  let core := ringCore fn queue
  if !recordShapeOk words then s.answerEntry fn queue q 18 0
  else
    match s.readTables core tenant (recTables s.pkg words) with
    | .later s => s
    | .failed => s.answerEntry fn queue q 18 0
    | .ok l s =>
      let r : LaunchRec :=
        { words := words, starts := wordRows (l.getD 0 []) 48, alloc := wordRows (l.getD 1 []) 128, bars := wordRows (l.getD 2 []) 16,
          groups := wordRows (l.getD 3 []) 16 }
      match s.readTables core tenant (r.bars.map (fun b => (b.getD 1 0#64, 528))) with
      | .later s => s
      | .failed => s.answerEntry fn queue q 18 0
      | .ok blocks s =>
        match s.readTables core tenant (r.groups.map (fun g => (g.getD 1 0#64, 4 * field (g.getD 0 0#64) 15 0))) with
        | .later s => s
        | .failed => s.answerEntry fn queue q 18 0
        | .ok ranks s => s.decideRecord fn queue q r blocks ranks

/-- R391 steps 2 to 4: the Governor takes one entry of a queue, unless an accepted record of that queue waits for its tiles (R355), and once the host's
writes before the doorbell have been performed. -/
def execRingEntryTake (fn queue : Nat) (s : State) : Out :=
  let q := (s.fn fn).queue queue
  let waiting := s.ctxs.any (fun c => c.2.fn == fn && c.2.queue == queue && c.2.state == .waiting)
  if !s.fnUp fn || s.dieHeld (dieOfFn fn) || !q.enabled || q.head == q.tail || waiting || decide (16 ≤ queue) || s.hostOpen fn then event s
  else
    match s.readEntry fn queue q with
    | .later s => event s
    | .failed _ _ => event ((s.modQueue fn queue (fun q => { q with fault := true, en := false })).dropPseudo (ringCore fn queue))
    | .ok b s =>
      let a := recWord b 0
      if a.toNat % 64 ≠ 0 then event (s.answerEntry fn queue q 18 0)
      else
        match s.engineReadV (ringCore fn queue) (s.fn fn).tenant a 256 with
        | .later s => event s
        | .failed _ _ => event (s.answerEntry fn queue q 18 0)
        | .ok b s => event (s.takeRecord fn queue q (byteWords b))

/-- R389: software clears `over`. -/
def execQueueOverClear (fn : HostFn) (queue : Nat) (s : State) : Out :=
  event (if queue < 16 then s.hostRequest fn.fn fn.via (fun s => s.regWrite fn.fn (0x1020 + 64 * queue) 1#64) else s)

/-- R389: software clears `fault`. -/
def execQueueFaultClear (fn : HostFn) (queue : Nat) (s : State) : Out :=
  event (if queue < 16 then s.hostRequest fn.fn fn.via (fun s => s.regWrite fn.fn (0x1020 + 64 * queue) 2#64) else s)

/-! Starting (R355, R356). -/

def Context.tiles (c : Context) : List Nat := tilesOf c.foot

/-- R355, R372: whether every tile of a waiting launch is free for it. -/
def State.startable (s : State) (tag : Nat) (c : Context) : Bool :=
  let mine := s.gangs.any (fun g => g.2.reservedFor.contains tag)
  c.tiles.all (fun t =>
    (s.tile t).launch == 0 && (mine || !(s.tile t).reserved) && !s.dieHeld (dieOfTile t) &&
      !(s.ctxs.any (fun o => o.2.state == .waiting && decide (o.2.order < c.order) && o.2.tiles.contains t)))

/-- No region is reserved for a launch any more (R372). -/
def State.unreserved (s : State) (tag : Nat) : State :=
  { s with gangs := s.gangs.map (fun (g : Nat × Gang) => (g.1, { g.2 with reservedFor := g.2.reservedFor.filter (fun t => t != tag) })) }

/-- The launch takes its tiles, with the tables that all of them share (R351). -/
def State.occupy (s : State) (tag : Nat) (c : Context) (ahand rclass : List Byte) (tabs : KMap (BitVec 16)) : State :=
  let rows := wordRows rclass 16
  let s := c.tiles.foldl (fun s t => s.modTile t (fun x => { x with launch := tag, reserved := false })) s
  (s.unreserved tag).modCtx tag (fun c =>
    { c with state := .running, ahand := byteWords ahand, rclass := rows.map (fun r => (field (r.getD 0 0#64) 1 0, r.getD 1 0#64)),
             thrPred := s.policy.predThreshold, tabs := tabs })

/-- R293: the ways that a scratch side takes are emptied in order; those it leaves go back empty. -/
def State.repartition (s : State) (t kib : Nat) : State :=
  let ways := kib / 16
  let gone := sortBy (fun (a b : CLine) => decide (a.way < b.way)) ((s.tile t).lines.filter (fun l => decide (l.way < ways)))
  (gone.foldl State.writeBack s).modTile t (fun x =>
    { x with scratchKiB := kib, lines := x.lines.filter (fun l => decide (ways ≤ l.way)) })

/-- Entries of rank tables: 257 BF16 values each. -/
def tableEntries (n : Nat) (b : List Byte) : KMap (BitVec 16) :=
  ((List.range 257).map (fun i => (512 * n + i, BitVec.ofNat 16 (leValue ((b.drop (2 * i)).take 2))))).filter (fun e => e.2 != 0#16)

/-- R292, R164, R356 steps 2 and 3: what a tile holds at the start of a launch. DESIGN CHOICE: the turn of its matrix engine begins at its core 0, since
06 R162 names no core that has been served last (log entry 7). -/
def Tile.fresh (t : Tile) (tabs : KMap (BitVec 16)) : Tile :=
  { t with array := [], acc := [], planes := [], tabs := tabs, layouts := [], pred := [], turnCore := 7, turnUsed := 16, copyTurn := 0 }

/-- What a core of the footprint starts with (01 R41, 09 R256, 04 R130). -/
def Core.launched (k : Core) (tag : Nat) (c : Context) : Core :=
  let m := c.recBits 0 27 24
  { k with mwt := if m = 0 then 1 else m, sat := tag, ceil := c.ceil, icache := [], masks := 0#16, chans := [], credit := [] }

/-- A task that a launch starts (R353), with its core. -/
def State.startTask (s : State) (tag core level : Nat) (handler : Word) (args : List Word) : (Nat × REvent) × State :=
  let i := s.newItem (dieOf core) tag
  ((core,
    { kind := .task, handler := handler, level := level, args := args, item := i.1, src := s.sourceOf core, cls := none, ltag := tag, gov := none }), i.2)

/-- The cores of a tile on which tasks start, with level, handler and arguments: the grid tasks and the list tasks (R353). -/
def Context.startsOf (c : Context) (pkg t : Nat) : List (Nat × Nat × Word × List Word) :=
  let w (i : Nat) : Word := c.words.getD i 0#64
  let grid := if w 18 = 0#64 then [] else (recLeaves pkg c.words).filter (fun x => tileOf x.1 == t)
  let list := c.starts.filter (fun e => startHere pkg e && tileOf (field (e.getD 0 0#64) 11 0) == t)
  grid.map (fun x => (x.1, c.recBits 17 18 16, w 18, [w 19, w 20, w 21, BitVec.ofNat 64 x.2])) ++
    list.map (fun e => (field (e.getD 0 0#64) 11 0, field (e.getD 0 0#64) 34 32, e.getD 1 0#64, e.drop 2))

/-- Start tasks made, in order. -/
def State.makeTasks (s : State) (tag : Nat) : List (Nat × Nat × Word × List Word) → List (Nat × REvent) × State
  | [] => ([], s)
  | (core, level, handler, args) :: rest =>
    let r := s.startTask tag core level handler args
    let m := r.2.makeTasks tag rest
    (r.1 :: m.1, m.2)

/-- R356 step 4: start tasks enter the inboxes of their cores, as far as the levels have room (09 R250); the others wait. -/
def State.placeTasks (s : State) (tag t : Nat) (kept : List (Nat × REvent)) : List (Nat × REvent) → State
  | [] => s.modCtx tag (fun c =>
      if kept.isEmpty then { c with started := c.started ++ [t], startLeft := kdel c.startLeft t } else { c with startLeft := kset c.startLeft t kept })
  | x :: rest =>
    if s.inboxRoom x.1 x.2.level && !kept.any (fun y => y.1 == x.1 && y.2.level == x.2.level) then (s.enterInbox x.1 x.2).placeTasks tag t kept rest
    else s.placeTasks tag t (kept ++ [x]) rest

/-- R356: the launch starts on a tile; it has started once its last task has entered. -/
def State.startTile (s : State) (tag : Nat) (c : Context) (t : Nat) : State :=
  match kget c.startLeft t with
  | some l => s.placeTasks tag t [] l
  | none =>
    let s := (s.repartition t (c.recBits 1 8 0)).modTile t (fun x => x.fresh c.tabs)
    let s := (c.coresOf t).foldl (fun s k => (s.forget k 0).modCore k (fun x => x.launched tag c)) s
    let r := s.makeTasks tag (c.startsOf s.pkg t)
    r.2.placeTasks tag t [] r.1

/-- The tables that a launch reads when it starts: those it gives and that can be read. -/
def tableRun (a : Word) (n : Nat) : List (Word × Nat) := if a = 0#64 then [] else [(a, n)]

/-- The rank tables of a launch. -/
def rankRuns (c : Context) : List (Nat × Word) :=
  if c.words.getD 7 0#64 = 0#64 then []
  else ((List.range 16).filter (fun n => bitOf (c.recBits 12 15 0) n)).map (fun n => (n, c.words.getD 7 0#64 + BitVec.ofNat 64 (528 * n)))

/-- R355, R356: a waiting launch takes its tiles when all are free, and reads the tables that it has not read for its checks, once for all tiles (R351); a
running one starts on one of them. -/
def execLaunchStart (tag tile : Nat) (s : State) : Out :=
  match s.ctx tag with
  | none => event s
  | some c =>
    let core := ringCore c.fn c.queue
    match c.state with
    | .waiting =>
      if !s.startable tag c then event s
      else
        let runs := rankRuns c
        match s.readTables core c.tenant (tableRun (c.words.getD 8 0#64) 256), s.readTables core c.tenant (tableRun (c.words.getD 9 0#64) 256),
          s.readTables core c.tenant (runs.map (fun r => (r.2, 514))) with
        | .later s, _, _ => event s
        | _, .later s, _ => event s
        | _, _, .later s => event s
        | a, r, t =>
          let get (x : Tables) : List (List Byte) := match x with | .ok l _ => l | _ => []
          event ((s.occupy tag c ((get a).headD []) ((get r).headD [])
            ((List.zipWith (fun (r : Nat × Word) b => tableEntries r.1 b) runs (get t)).flatMap id)).dropPseudo core)
    | .running => event (if !c.tiles.contains tile || c.started.contains tile then s else s.startTile tag c tile)
    | _ => event s

/-! Quiescence and the end (R357, R418). -/

/-- The core that raised an event of this package; none for one of another. -/
def State.srcIn (s : State) (x : Source) (here : Nat → Bool) : Bool := x.pkg == s.pkg && here (coreKey x.space x.core)

/-- Whether the target or the issuer of a message lies where `here` says. -/
def State.msgIn (s : State) (m : Msg) (here : Nat → Bool) : Bool := (m.dpkg == s.pkg && here (msgTarget m)) || s.srcIn m.src here

/-- Whether a place lies on a tile with a core that `here` accepts. -/
def Loc.within (l : Loc) (here : Nat → Bool) : Bool :=
  let onTile (t : Nat) : Bool := (List.range 8).any (fun i => here (8 * t + i))
  match l with
  | .global p h _ => isTilePolicy p && onTile h
  | .array t _ => if t < 512 then onTile t else here (t - 1024)

/-- Whether a copy writes where `here` accepts: its channel targets, the tiles its reference names, the places of its segments. -/
def CopyJob.writesIn (j : CopyJob) (pkg : Nat) (here : Nat → Bool) : Bool :=
  let ref := j.words.getD 1 0#64
  (j.cmd.dch && j.targetPkg == pkg && j.targets.any here) ||
    (j.cmd.dsc && field ref 42 33 == pkg && (if j.cmd.mcast then j.masked else [field ref 32 24]).any (fun t => (Loc.array t 0).within here)) ||
    j.segs.any (fun x => x.dst.any (fun p => p.1.within here))

/-- Events and operations that one launch still has on cores, in routers and in engines: those whose target or issuer `here` accepts. -/
def State.busyWith (s : State) (tag : Nat) (here : Nat → Bool) : Bool :=
  s.cores.any (fun k =>
    (here k.1 && k.2.frames.any (fun f => f.ltag == tag)) ||
      k.2.inbox.any (fun e => e.ltag == tag && (here k.1 || s.srcIn e.src here)) ||
      k.2.timers.any (fun t => t.2.ltag == tag && (here k.1 || here t.2.descr.target.core))) ||
    s.ops.any (fun o => o.2.ltag == tag && (here o.2.core || o.2.elems.any (fun e => e.loc.within here))) ||
    s.msgs.any (fun m => m.2.msg.ltag == tag && s.msgIn m.2.msg here) ||
    s.routers.any (fun r => (r.2.hold ++ r.2.window).any (fun m => m.ltag == tag && s.msgIn m here)) ||
    s.acks.any (fun a => a.ltag == tag && (here a.sender || here (a.target % 16384))) ||
    s.copies.any (fun j => j.2.ltag == tag && (here j.2.core || j.2.writesIn s.pkg here)) ||
    s.colls.any (fun c => c.2.ltag == tag && c.2.cmds.any (fun x => !x.lost && here x.core)) ||
    s.ueJobs.any (fun j => j.2.ltag == tag && here j.2.core) ||
    s.tiles.any (fun t => t.2.queues.any (fun q => here (q.1 / 8) && q.2.any (fun j => j.ltag == tag)))

/-- What a launch has at Governors, barrier units, on the way and in its leat, under the same condition. -/
def State.busyElsewhere (s : State) (tag : Nat) (c : Context) (here : Nat → Bool) : Bool :=
  s.given.any (fun g => g.rec_.ev.ltag == tag && s.srcIn g.rec_.ev.src here) ||
  s.dies.any (fun d => d.2.ready.any (fun g => g.ev.ltag == tag && s.srcIn g.ev.src here) ||
    d.2.ranges.any (fun r => r.ltag == tag && here r.spawner) ||
    d.2.barriers.any (fun b => (b.2.store ++ b.2.overflow).any (fun w => w.ev.ltag == tag && (s.srcIn w.ev.src here || here w.target.core)))) ||
    s.packs.any (fun p => p.2.frame.ltag == tag && (here p.2.fromCore || s.srcIn p.2.frame.src here)) || c.leat.any (fun m => s.msgIn m here)

/-- R357: whether a launch is quiescent. -/
def State.quiescent (s : State) (tag : Nat) (c : Context) : Bool :=
  let every (_ : Nat) : Bool := true
  let elsewhere := s.dies.any (fun d => d.2.ready.any (fun g => g.ev.ltag == tag)) || s.given.any (fun g => g.rec_.ev.ltag == tag) || !c.leat.isEmpty || s.msgs.any (fun m => m.2.msg.ltag == tag) ||
    s.routers.any (fun r => (r.2.hold ++ r.2.window).any (fun m => m.ltag == tag)) || s.routers.any (fun r => r.2.wheelpit.any (fun f =>
      ((kget s.msgs f.msg).map (fun m => m.msg.ltag == tag)).getD false))
  (c.state == .ended || c.tiles.all (fun t => c.started.contains t)) && !s.busyWith tag every && !s.busyElsewhere tag c every && !elsewhere

/-- The launch's state ended (R12): tiles, barrier units and cores are given back, and the channels that its tasks bound on any core (01 R31). -/
def State.endContext (s : State) (tag : Nat) (c : Context) : State :=
  let s := c.tiles.foldl (fun s t => s.modTile t (fun x =>
    if x.launch = tag then { x with launch := 0, planes := [], tabs := [], layouts := [] } else x)) s
  let s := c.foot.foldl (fun s k => s.modCore k (fun x =>
    if x.sat = tag then { x with masks := 0#16, chans := [], credit := [], statuses := [] } else x)) s
  let kept := s.gangs.any (fun g => g.2.reservedFor.contains tag)
  let s := if kept then c.tiles.foldl (fun s t => s.modTile t (fun x => { x with reserved := false })) s else s
  let s := s.unreserved tag
  { s with ctxs := kdel s.ctxs tag,
           cores := (kdel s.cores (cqCore tag)).map (fun k => (k.1, { k.2 with chans := k.2.chans.filter (fun x => x.2.ltag != tag) })),
           dies := s.dies.map (fun d => (d.1, { d.2 with barriers := d.2.barriers.filter (fun b => b.2.ltag != tag) })) }

/-- R357: a quiescent launch ends with its launch-end entry, which waits for room and for the entry that counts lost ones. -/
def execLaunchEnd (tag : Nat) (s : State) : Out :=
  match s.ctx tag with
  | none => event s
  | some c =>
    if !((c.state == .running || c.state == .ended) && s.quiescent tag c && c.cqLost == 0 && c.cqPend.isEmpty) then event s
    else if s.cqRoom tag c = some true then
      event ((s.cqPut tag { kind := 4, status := 0, cause := 0, w1 := BitVec.ofNat 64 c.failures, w2 := 0#64, w3 := 0#64 }).endContext tag c)
    else event (s.askConsumed tag c)

/-- R418: the entries that wait until it is known whether there is room, and the entry that counts the lost ones, when there is room again. -/
def execCqOverflowEntry (tag : Nat) (s : State) : Out :=
  match s.ctx tag with
  | none => event s
  | some c =>
    if !c.cqPend.isEmpty then event (s.cqFlush tag (2 * c.cqPend.length))
    else if c.cqLost = 0 then event s
    else if s.cqRoom tag c = some true then event (s.cqOverflow tag c)
    else event (s.askConsumed tag c)

/-- R357: an instance of a binding that reports, named by the leaf index of its first core, at the first moment that it is quiescent. -/
def execInstanceComplete (tag binding inst : Nat) (s : State) : Out :=
  match s.ctx tag with
  | none => event s
  | some c =>
    let all := recBindings c.words
    match all[binding]? with
    | none => event s
    | some b =>
      let n := leavesOf (all.drop (binding + 1))
      let cores := ((recLeaves s.pkg c.words).filter (fun x => decide (inst ≤ x.2) && decide (x.2 < inst + n))).map (·.1)
      event (if b.report && inst % n == 0 && !cores.isEmpty && c.state == .running && !c.instDone.contains (binding, inst) &&
          cores.all (fun k => c.started.contains (tileOf k)) && !s.busyWith tag (fun k => cores.contains k) &&
          !s.busyElsewhere tag c (fun k => cores.contains k) then
        (s.modCtx tag (fun c => { c with instDone := c.instDone ++ [(binding, inst)] })).cqEntry tag 3 0 0
          (BitVec.ofNat 64 (binding + inst * 2 ^ 32)) 0#64 0#64
      else s)

end Sys2Proof.Machine
end

