-- ==== Sys2Proof/Machine/Migration.lean ====
section
/-! DEFINITION. `migr`, the migration service, arrival of a package, away markers (spec 07 R212; 09 R269 to R277; 15 R413). -/

namespace Sys2Proof.Machine

/-! `migr` (07 R212; 15 R413). -/

/-- The status of a move of a frame to a core: 0, or the lowest status whose condition holds. -/
def State.moveStatus (s : State) (f : Frame) (target : Nat) : Nat :=
  if rowShare target < f.arows then 1
  else if !s.inboxRoom target f.level then 2
  else if s.dieHeld (dieOf target) || s.launchAt target != some f.ltag then 3
  else 0

/-- The core to which `migr` moves a frame of a core, with the status when there is none. -/
def State.moveTarget (s : State) (core : Nat) (f : Frame) (v : Nat) : Except Nat Nat :=
  let named := v % 4096
  if bitOf v 12 then
    let cores := (List.range 8).map (fun i => 8 * tileOf named + i)
    match cores.find? (fun k => k == core || s.moveStatus f k == 0) with
    | some k => .ok k
    | none => .error ((cores.map (s.moveStatus f)).foldl min 3)
  else if named = core then .ok core
  else
    match s.moveStatus f named with
    | 0 => .ok named
    | n => .error n

/-- What a frame that waits to move by `migr` remembers (log entry 1): xs[12:0], the register xs in bits 31 to 16, the length of the
bundle from bit 32 on. -/
def migrWord (c : Ctx) : Word := BitVec.ofNat 64 (c.xa.toNat % 8192 + fieldA c.w * 2 ^ 16 + (c.next - c.f.pc) * 2 ^ 32)

/-- R413: `migr` of a trap handler marks the frozen frame. -/
def State.migrFrozen (s : State) (c : Ctx) : State :=
  match s.frozenOf c.core c.f with
  | some (k, z) =>
    if !z.claims.isEmpty then s.writeX c (fieldA c.w) 4#64
    else
      match s.moveTarget k z c.xa.toNat with
      | .ok _ => (s.modTask k z.task (fun f => { f with migMark := some (BitVec.ofNat 64 (c.xa.toNat % 8192)) })).writeX c (fieldA c.w) 0#64
      | .error n => s.writeX c (fieldA c.w) (BitVec.ofNat 64 n)
  | none => s.writeX c (fieldA c.w) 3#64

/-- R212: the frame stalls until it has drained; the migration service then moves it. -/
def execMigr (w : Bundle) (s : State) : Out :=
  bundle .migr w s (fun c s =>
    let named := c.xa.toNat % 4096
    match (if c.f.isTrapHandler then none else c.f.claims.head?) with
    | some x => s.exact c.core .claim (BitVec.ofNat 64 x.res)
    | none =>
      if s.outsideMesh c.f.ltag { core := named, pkg := s.pkg, gov := false } then s.exact c.core .tenant c.xa
      else if c.f.isTrapHandler then s.migrFrozen c
      else s.modTop c.core (fun f => { f with mig := some (1, migrWord c) }))

/-! The migration service (R270 to R273). -/

/-- R270 step 1: the counters are 0, the vector bundles have completed, no fault is due. -/
def Frame.drained (f : Frame) : Bool :=
  f.lv.ldc == 0 && f.lv.stc == 0 && f.lv.cpc == 0 && f.lv.tlc == 0 && f.lv.vq.isEmpty && f.late.isEmpty && f.start.isNone

/-- R273: the away marker of a frame. -/
def Frame.awayMarker (f : Frame) (toCore : Nat) : Frame :=
  { f with kind := .away toCore, thr := 0, x := [], v := [], k := [], arows := 0, fscr := 0, wins := 0#64, claims := [], pending := none,
           late := [], start := none, usedPlanes := false, gov := none, migMark := none, mig := none, idle := 0, arrive := 0, hold := none,
           follows := none, spilledX := 0, slots := [], lv := LevelState.fresh f.item 0#64 }

/-- R271: what the package of a core's top frame carries. -/
def State.packFrame (s : State) (core : Nat) (f : Frame) (moved : Frame) (viaTrap : Bool) (status : Option Nat) : Package :=
  let t := s.tile (tileOf core)
  { frame := { moved with mig := none, origin := some core, lastRemote := none },
    rows := (List.range (64 * f.arows)).map (fun i => kgetD t.acc (64 * f.acb + i) 0#32),
    scratch := memGetBytes (s.tile (scratchTile core)).array f.fsb f.fscr,
    planes := if f.usedPlanes then [kgetD t.planes (2 * core) Plane.zero, kgetD t.planes (2 * core + 1) Plane.zero] else [],
    fromCore := core, viaTrap := viaTrap, status := status, seen := (s.core core).seen }

/-- R270 steps 2 to 4: the top frame packaged and sent, an away marker in its place, followers let go, latches empty. -/
def State.sendFrame (s : State) (core : Nat) (f moved : Frame) (target : Nat) (gov : Bool) (status : Option Nat) : State :=
  let p := s.packFrame core f moved gov status
  let s := s.closeStream core
  let id := s.fresh.1
  let s := s.fresh.2
  let s := s.modCore core (fun c => { c.dropLatches with follow := .free, frames := modHead (fun g => g.awayMarker target) c.frames })
  { s with packs := kset s.packs id p }.sendPackage id p target gov

/-- A frame that stays where it is goes on, with a status in xs when `migr` asks for one. -/
def State.staysPut (s : State) (core : Nat) (f : Frame) (v n : Nat) : State :=
  s.modTop core (fun g =>
    { (g.xSet (bitsOf v 31 16) (BitVec.ofNat 64 n)) with pc := (f.pc + bitsOf v 63 32) % 2 ^ 64, mig := none })

/-- The move of a drained frame. A marked frame waits while the inbox of its target is full, since it has been told that it moves (15 R413). -/
def State.serveMove (s : State) (core : Nat) (f : Frame) (kind : Nat) (word : Word) : State :=
  let v := word.toNat
  match kind with
  | 0 =>
    match s.forwardDie (dieOf core) 1 0 f.ltag with
    | some d => s.sendFrame core f f (s.launchCoreOn f.ltag d) true none
    | none => (s.modTop core (fun g => { g with mig := none })).exact core .migrate 0#64
  | 1 =>
    match s.moveTarget core f v with
    | .ok k =>
      if k = core then s.staysPut core f v 0
      else s.sendFrame core f { (f.xSet (bitsOf v 31 16) 0#64) with pc := (f.pc + bitsOf v 63 32) % 2 ^ 64 } k false (some (bitsOf v 31 16))
    | .error n => s.staysPut core f v n
  | 2 => s.sendFrame core f { f with lastPredMig := some s.cycle } v false none
  | _ =>
    match s.moveTarget core f v with
    | .ok k => if k = core then s.modTop core (fun g => { g with mig := none }) else s.sendFrame core f f k false none
    | .error 2 => s
    | .error _ => s.modTop core (fun g => { g with mig := none })

/-- R270: once the top frame has drained, the migration service moves it. -/
def execMigrationSend (core : Nat) (s : State) : Out :=
  match s.top core with
  | some f =>
    match f.mig with
    | some (kind, word) => event (if !s.stilled core && f.drained && (s.faultedOp core f.task (fun _ => true)).isNone then s.serveMove core f kind word else s)
    | none => event s
  | none => event s

/-- R255, R276: the migration service of a core traps: the migration fails, and MIGRATE goes to the trap handler of the frame, which has not left. -/
def State.serviceTrap (s : State) (core : Nat) : State :=
  match s.top core with
  | some f =>
    if f.mig.isSome ∧ f.drained = true ∧ s.stilled core = false then (s.modTop core (fun g => { g with mig := none })).exact core .migrate 0#64 else s
  | none => s

/-! Arrival (R271, R274, R275). -/

/-- The carried state installed in the frame that the arrival pushed. -/
def Frame.install (g : Frame) (f : Frame) : Frame :=
  { f with acb := g.acb, arows := g.arows, fsb := g.fsb, fscr := g.fscr, spilledX := 0, slots := [], start := g.start }

/-- A package pushed at its core; none when the push has to wait. -/
def State.arrivePackage (s : State) (core : Nat) (e : REvent) (id : Nat) (p : Package) : Option State :=
  match s.pushWith core p.frame.kind { e with handler := 0#64, item := p.frame.item, gov := p.frame.gov } p.frame.exc p.frame.wins.toNat none with
  | none => none
  | some s =>
    let g := (s.top core).getD p.frame
    let s := s.modTop core (fun g => g.install p.frame)
    let s := s.modTile (tileOf core) (fun t =>
      { t with
        acc := if g.arows = 0 then t.acc
               else (List.range p.rows.length).foldl (fun m i => kset m (64 * g.acb + i) (p.rows.getD i 0#32)) t.acc,
        planes := match p.planes with | [a, b] => kset (kset t.planes (2 * core) a) (2 * core + 1) b | _ => t.planes })
    let s := if g.fscr = 0 then s else s.modTile (scratchTile core) (fun t => { t with array := memSetBytes t.array g.fsb p.scratch })
    some ({ s with packs := kdel s.packs id }.modCore core (fun c => { c with seen := c.seen ++ p.seen }))

/-- R270 step 5, R252: the package that passes a core's admission check is pushed. -/
def execMigrationArrival (core : Nat) (s : State) : Out :=
  match (s.core core).candidate with
  | some e =>
    match e.kind with
    | .package id =>
      match kget s.packs id with
      | some p =>
        if s.stilled core || s.parked e.ltag then event s
        else
          match s.arrivePackage core e id p with
          | some s => event (s.modCore core (fun c => c.removeEvent e))
          | none => event s
      | none => event (s.modCore core (fun c => c.removeEvent e))
    | _ => event s
  | none => event s

/-! Away markers (R273). -/

/-- A task's away marker taken off a core's stack: a marker of its own that it passes the notice on to is told. The frame beneath follows what the notice
says (10 R301). -/
def State.popMarker (s : State) (core task : Nat) (after : List Nat) (seen : List Rel) : State :=
  match (s.core core).frames.find? (fun f => f.task == task && f.isAway) with
  | none => s
  | some m =>
    let s := match m.origin with | some o => s.notify core m.ltag o task after seen | none => s
    let s := (s.forget core s.nextId).modCore core (fun c => { c with behind := s.open_ c.behind ++ after, seen := c.seen ++ seen })
    if (s.top core).map (·.task) = some task then (s.modTop core (fun f => { f with origin := none })).pop core
    else s.modCore core (fun c => { c with frames := c.frames.filter (fun f => !(f.task == task && f.isAway)) })

/-- R273: the end notice of a task that has come pops its marker on the core that it last left; a marker that is saved (13 R370) waits for its context. -/
def execEndNotice (core task : Nat) (s : State) : Out :=
  let parked := s.ctxs.any (fun c => ((c.2.saved.bind (fun v => kget v.cores core)).map (fun k => k.frames.any (fun f => f.task == task))).getD false)
  match s.notices.find? (fun n => n.core == core && n.task == task) with
  | some n =>
    event (if !parked && !s.underWay 10 (.token task) then { s with notices := s.notices.erase n }.popMarker core task n.after n.seen else s)
  | none => event s

end Sys2Proof.Machine
end

