-- ==== Sys2Proof/Machine/Gang.lean ====
section
/-! DEFINITION. Gang switching, halted contexts, reservation and withdrawal (spec 13 R364 to R373; 15 R422). -/

namespace Sys2Proof.Machine

/-! What a reset or the end of a context discards (14 R394; 15 R417, R419). `hit` tells for a core and a launch tag whether what they hold goes. -/

/-- Whether a frame is a task with an item of its own to report, or a handler that shares one (R415, R417). -/
def Frame.reported (f : Frame) : Bool := match f.kind with | .task => true | .trapHandler => true | .collective _ _ => true | _ => false

/-- The tasks of a core that are lost: launch, item, program counter; a trap handler before the frame beneath it, whose item it shares. -/
def lostTasks (hit : Nat → Bool) (c : Core) : List (Nat × Word × Nat) :=
  (c.frames.filter (fun f => hit f.ltag && f.reported)).map (fun f => (f.ltag, f.item, f.pc)) ++
    (c.inbox.filter (fun e => hit e.ltag && e.kind == .task)).map (fun e => (e.ltag, e.item, 0))

/-- The handler that an event starts. -/
def handlerOf (e : EvKind) : Option FrameKind :=
  match e with
  | .fixedAtomic op => some (.fixedAtomic op)
  | .userAtomic op => some (.userAtomic op)
  | .collective a b => some (.collective a b)
  | _ => none

/-- The handlers of a core that are lost, running or waiting. -/
def lostHandlers (hit : Nat → Bool) (c : Core) : List FrameKind :=
  (c.frames.filter (fun f => hit f.ltag)).map (·.kind) ++
    (c.inbox.filter (fun e => hit e.ltag)).filterMap (fun e => handlerOf e.kind)

/-- The packages that events carry. -/
def packagesOf (l : List REvent) : List Nat := l.filterMap (fun e => match e.kind with | .package p => some p | _ => none)

/-- The ranges that lost tasks had registered with Governors (09 R264), each with its launch. -/
def lostRanges (hit : Nat → Bool) (c : Core) : List (Nat × Nat × Nat) :=
  (c.frames.filter (fun f => hit f.ltag)).filterMap (fun f => f.gov.map (fun r => (f.ltag, r))) ++
    (c.inbox.filter (fun e => hit e.ltag && e.kind == .task)).filterMap (fun e => e.gov.map (fun r => (e.ltag, r)))

/-- The start tasks that a context still has to place on tiles (13 R356) and that are lost. -/
def lostStarts (hit : Nat → Nat → Bool) (tag : Nat) (c : Context) : List (Nat × Word × Nat) :=
  c.startLeft.flatMap (fun t => (t.2.filter (fun x => hit x.1 tag)).map (fun x => (tag, x.2.item, 0)))

/-- The atomic handlers that wait in a router's hold store for a core (09 R250) and are lost. -/
def lostHeld (hit : Nat → Nat → Bool) (m : Msg) : Bool := isHandler m && hit (msgTarget m) m.ltag

/-- Matrix jobs of a tile that are lost; queue 8c + l belongs to core c. -/
def lostJobs (hit : Nat → Nat → Bool) (t : Tile) : List (Nat × Word × Nat) :=
  t.queues.flatMap (fun q => (q.2.filter (fun j => hit (q.1 / 8) j.ltag)).map (fun j => (j.ltag, j.item, j.pc)))

/-- R417: failures reported FAILED-ABSENT. -/
def State.reportAbsent (s : State) (l : List (Nat × Word × Nat)) : State :=
  l.foldl (fun s x => s.report x.1 failedAbsent 0 x.2.1 (BitVec.ofNat 64 x.2.2) 0#64) s

/-- The operation or the block that a lost handler served. -/
def State.handlerLost (s : State) (k : FrameKind) : State :=
  match k with
  | .fixedAtomic op => s.modOp op (fun o => { o with fault := some .absent, handler := none })
  | .userAtomic op => s.modOp op (fun o => { o with fault := some .absent, handler := none })
  | .collective coll block => s.failBlock coll block failedAbsent []
  | _ => s

/-- Packages lost: their tasks are reported, their ranges retire and their away markers are told. -/
def State.dropPackages (s : State) (ids : List Nat) : State :=
  let gone := s.packs.filter (fun p => ids.contains p.1)
  let s := { s with packs := s.packs.filter (fun p => !ids.contains p.1) }
  gone.foldl (fun s p => s.leave p.2.fromCore p.2.frame) (s.reportAbsent (gone.map (fun p => (p.2.frame.ltag, p.2.frame.item, p.2.frame.pc))))

/-! Stopping (R368 steps 1 and 2). -/

/-- Step 1: a running launch stops: its cores issue nothing more, its engines start nothing more, its flits leave their links. -/
def State.stopContext (s : State) (next : CtxState) (tag : Nat) : State :=
  match s.ctx tag with
  | some c => if c.state = .running then (s.modCtx tag (fun c => { c with state := next })).drainLinks else s
  | none => s

/-- An atomic whose handler has been sent: it may wait for a core that has stopped, and is saved with it (R371). -/
def MemOp.waitsHandler (o : MemOp) : Bool :=
  (match o.kind with | .atomic _ _ _ _ => true | _ => false) && o.elems.all (fun e => e.asked && !e.done)

/-- Step 2: whether the operations and copy segments of a stopped launch have completed, and its homes are at rest. -/
def State.quieted (s : State) (tag : Nat) (c : Context) : Bool :=
  s.ops.all (fun o => o.2.ltag != tag || o.2.fromPackage || o.2.fault.isSome || o.2.waitsHandler) &&
    s.copies.all (fun j => j.2.ltag != tag || j.2.segs.all (fun x => !x.flying)) &&
    c.foot.all (fun k =>
      (s.core k).frames.all (fun f => match f.kind with | .fixedAtomic _ => false | _ => true))

/-! Saving (R370). -/

/-- A tile that its launch has left. -/
def Tile.left (t : Tile) : Tile := { t.fresh [] with launch := 0, queues := [] }

/-- What a launch holds on a core of a Bedstone or Sluice die, which other launches use as well: its frames, events, timers, channels and statuses. -/
def Core.partOf (k : Core) (tag : Nat) : Core :=
  let frames := k.frames.filter (fun f => f.ltag == tag)
  { Core.reset with frames := frames, inbox := k.inbox.filter (fun e => e.ltag == tag), timers := k.timers.filter (fun t => t.2.ltag == tag),
                    chans := k.chans.filter (fun x => x.2.ltag == tag),
                    statuses := k.statuses.filter (fun j => frames.any (fun f => f.level == j.level)) }

/-- The same core without it. -/
def Core.without (k : Core) (tag : Nat) : Core :=
  let p := k.partOf tag
  { k.dropLatches with frames := k.frames.filter (fun f => f.ltag != tag), inbox := k.inbox.filter (fun e => e.ltag != tag),
                       timers := k.timers.filter (fun t => t.2.ltag != tag), chans := k.chans.filter (fun x => x.2.ltag != tag),
                       statuses := k.statuses.filter (fun j => !p.statuses.contains j) }

/-- Whether a launch holds anything on such a core. -/
def Core.shares (k : Nat × Core) (tag : Nat) : Bool := !isCompute k.1 && k.2.partOf tag != Core.reset

/-- The frame scratch of frames, as an array. -/
def frameScratch (m : Mem) (frames : List Frame) : Mem := frames.foldl (fun a f => memSetBytes a f.fsb (memGetBytes m f.fsb f.fscr)) []

/-- What R370 names of a context. -/
def State.savedNow (s : State) (tag : Nat) (c : Context) : Saved :=
  let shared := s.cores.filter (fun k => Core.shares k tag)
  let held (get : Router → List Msg) : List (Nat × Msg) :=
    s.routers.flatMap (fun r => ((get r.2).filter (fun m => c.takes tag m && !isHandler m)).map (fun m => (r.1, m)))
  { cores := c.foot.map (fun k => (k, s.core k)) ++ shared.map (fun k => (k.1, k.2.partOf tag)),
    tiles := (c.tiles.filter (fun t => (s.tile t).launch == tag)).map (fun t => (t, s.tile t)) ++
      shared.map (fun k => (scratchTile k.1, { Tile.reset with array := frameScratch (s.tile (scratchTile k.1)).array (k.2.partOf tag).frames })),
    recs := s.dies.flatMap (fun d => (d.2.ready.filter (fun g => g.ev.ltag == tag)).map (fun g => (d.1, g))),
    ranges := s.dies.flatMap (fun d => (d.2.ranges.filter (fun r => r.ltag == tag)).map (fun r => (d.1, r))),
    barriers := s.dies.flatMap (fun d => (d.2.barriers.filter (fun b => b.2.ltag == tag)).map (fun b => (d.1, b.1, b.2))),
    held := held (·.hold), window := held (·.window),
    wheel := s.routers.flatMap (fun r => r.2.wheelpit.filter (fun f => ((kget s.msgs f.msg).map (fun m => c.takes tag m.msg)).getD false)),
    cycle := s.cycle }

/-- A die without what a launch has there. -/
def Die.without (d : Die) (tag : Nat) : Die :=
  { d with ready := d.ready.filter (fun g => g.ev.ltag != tag), ranges := d.ranges.filter (fun r => r.ltag != tag),
           barriers := d.barriers.filter (fun b => b.2.ltag != tag) }

/-- Step 4: what R370 names goes to the save area; the tiles and units are free. -/
def State.saveContext (s : State) (tag : Nat) (c : Context) : State :=
  let v := s.savedNow tag c
  let rest (get : Router → List Msg) (r : Nat × Router) (l : List (Nat × Msg)) : List Msg := (get r.2).filter (fun m => !l.contains (r.1, m))
  let s : State :=
    { s with cores := (s.cores.filter (fun k => !c.foot.contains k.1)).map (fun k => (k.1,
               if isCompute k.1 then k.2
               else let x := k.2.without tag
                 if x.frames.length = k.2.frames.length then x
                 else { x with ceil := match x.frames with | f :: _ => s.ceilOf f.ltag | [] => [] })),
             dies := s.dies.map (fun d => (d.1, d.2.without tag)),
             routers := s.routers.map (fun r => (r.1, { r.2 with hold := rest (·.hold) r v.held, window := rest (·.window) r v.window,
                                                                 wheelpit := r.2.wheelpit.filter (fun f => !v.wheel.contains f) })) }
  ((c.tiles.filter (fun t => (s.tile t).launch == tag)).foldl (fun s t => s.modTile t Tile.left) s).modCtx tag (fun c => { c with saved := some v })

/-- A stopped launch saved once it is quiet. -/
def State.trySave (s : State) (tag : Nat) : State :=
  match s.ctx tag with
  | some c => if (c.state = .out ∨ c.state = .trapped) ∧ c.saved = none ∧ s.quieted tag c = true then s.saveContext tag c else s
  | none => s

/-! Restoring (R368 steps 5 and 6). -/

/-- Whether what a launch has saved of a shared core finds its places there: its frames go above those that stand there, and its inbox levels, timers and
channels are free of those that another launch has taken meanwhile. -/
def Core.takesBack (now k : Core) : Bool :=
  (match k.frames.getLast? with | some f => now.admits f.level | none => true) &&
    k.inbox.all (fun e => decide (((now.inbox ++ k.inbox).filter (fun x => x.level == e.level)).length ≤ 16)) &&
    k.timers.all (fun x => (kget now.timers x.1).isNone) && k.chans.all (fun x => (kget now.chans x.1).isNone)

/-- Whether the tiles, cores and barrier units of a saved launch are free for it. -/
def State.restorable (s : State) (v : Saved) : Bool :=
  v.tiles.all (fun t => decide (512 ≤ t.1) || ((s.tile t.1).launch == 0 && !s.dieHeld (dieOfTile t.1))) &&
    v.barriers.all (fun b => (kget (s.die b.1).barriers b.2.1).isNone) &&
    v.cores.all (fun k =>
      if isCompute k.1 then (s.core k.1).frames.isEmpty && (s.core k.1).inbox.isEmpty
      else (s.core k.1).takesBack k.2)

/-- A saved tile put back: its cache side is repartitioned (R293), and its lines, translations and predictor are not the launch's. -/
def State.restoreTile (s : State) (t : Nat) (x : Tile) : State :=
  (s.repartition t x.scratchKiB).modTile t (fun now =>
    { x with lines := now.lines, utlb := now.utlb, pred := [], reserved := false })

/-- A frame put back above the stack of a shared core, with its scratch. -/
def State.restoreFrame (s : State) (core : Nat) (m : Mem) (f : Frame) : State :=
  let at0 := (((s.core core).frames.map (·.fscr)).foldl (· + ·) 0)
  (s.modTile (scratchTile core) (fun t => { t with array := memSetBytes t.array at0 (memGetBytes m f.fsb f.fscr) })).modCore core (fun c =>
    { c with frames := { f with fsb := at0, spilledX := 0, slots := [] } :: makeRoom f.vUnits f.xUnits c.frames })

/-- What a launch has saved of a shared core put back. -/
def State.restoreShared (s : State) (tag core : Nat) (k : Core) (m : Mem) : State :=
  let s := if k.frames.isEmpty then s else (s.closeStream core).modCore core (fun c => { c.interrupt.dropLatches with ceil := s.ceilOf tag })
  (k.frames.reverse.foldl (fun s f => s.restoreFrame core m f) s).modCore core (fun c =>
    { c with inbox := c.inbox ++ k.inbox, timers := k.timers.foldl (fun t x => kset t x.1 x.2) c.timers,
             chans := k.chans.foldl (fun t x => kset t x.1 x.2) c.chans, statuses := c.statuses ++ k.statuses })

/-- R369: the flits of a launch leave the wheelpits, ahead of every other injection. -/
def State.unwheel (s : State) (tag : Nat) : State :=
  let mine (f : Flit) : Bool := ((s.ctx tag).bind (fun c => (kget s.msgs f.msg).map (fun m => c.takes tag m.msg))).getD false
  let back := s.routers.flatMap (fun r => r.2.wheelpit.filter mine)
  { s with flits := back ++ s.flits,
           routers := s.routers.map (fun r => (r.1, { r.2 with wheelpit := r.2.wheelpit.filter (fun f => !mine f) })) }

/-- Step 6 for a launch whose state stands in place: its leat is replayed, its flits go on, its cores issue again. -/
def State.resume (s : State) (tag : Nat) : State :=
  let s := s.modCtx tag (fun c => { c with state := .running, saved := none, urgent := false })
  (s.replay tag (((s.ctx tag).map (·.leat.length)).getD 0)).unwheel tag

/-- The limits of copies and collectives (11 R310, R335) do not run while their launch is out. -/
def State.shiftLimits (s : State) (tag n : Nat) : State :=
  { s with copies := s.copies.map (fun j => (j.1, if j.2.ltag = tag then { j.2 with startCycle := j.2.startCycle.map (· + n) } else j.2)),
           colls := s.colls.map (fun c => (c.1, if c.2.ltag = tag then { c.2 with started := c.2.started + n } else c.2)) }

/-- The messages and flits that a launch has saved put back at their routers. -/
def State.restoreMessages (s : State) (v : Saved) : State :=
  let s := v.held.foldl (fun s m => s.modRouter m.1 (fun r => { r with hold := r.hold ++ [m.2] })) s
  let s := v.window.foldl (fun s m => s.modRouter m.1 (fun r => { r with window := r.window ++ [m.2] })) s
  v.wheel.foldl (fun s f => s.modRouter f.router (fun r => { r with wheelpit := r.wheelpit ++ [f] })) s

/-- Steps 5 and 6. -/
def State.restoreContext (s : State) (tag : Nat) (v : Saved) : State :=
  let s := v.cores.foldl (fun s k =>
    if isCompute k.1 then (s.forget k.1 0).setCore k.1 { k.2.dropLatches with icache := [], rbuf := [] }
    else s.restoreShared tag k.1 k.2 (kgetD v.tiles (scratchTile k.1) Tile.reset).array) s
  let s := (v.tiles.filter (fun t => decide (t.1 < 512))).foldl (fun s t => s.restoreTile t.1 t.2) s
  let s := v.recs.foldl (fun s r => s.modDie r.1 (fun d => { d with ready := d.ready ++ [r.2] })) s
  let s := v.ranges.foldl (fun s r => s.modDie r.1 (fun d => { d with ranges := d.ranges ++ [r.2] })) s
  let s := v.barriers.foldl (fun s b => s.modDie b.1 (fun d => { d with barriers := kset d.barriers b.2.1 b.2.2 })) s
  ((s.restoreMessages v).shiftLimits tag (s.cycle - v.cycle)).resume tag

/-! Halted contexts (R364). -/

/-- R364: Primrose halts a running context at the request of system software: it stops at once, and is saved when it is quiet. -/
def execContextHalt (tag : Nat) (s : State) : Out := event ((s.stopContext .trapped tag).trySave tag)

/-- R364: a halted context goes on, once its tiles are free for it. -/
def execHaltedContextResume (tag : Nat) (s : State) : Out :=
  match s.ctx tag with
  | none => event s
  | some c =>
    if c.state ≠ .trapped then event s
    else
      match c.saved with
      | none => event (s.resume tag)
      | some v => event (if s.restorable v then s.restoreContext tag v else s)

/-! READY and GO (R366, R367; 15 R422). A gang is known by the number that Primrose gives its partition (log entry 32). -/

def State.gang (s : State) (gang : Nat) : Gang := kgetD s.gangs gang Gang.reset
def State.modGang (s : State) (gang : Nat) (f : Gang → Gang) : State := { s with gangs := kset s.gangs gang (f (s.gang gang)) }

/-- The coordinator is the lowest-numbered package of the gang. -/
def Gang.coordinator (g : Gang) : Nat := g.pkgs.foldl min 1024

/-- READY or GO on its way to a package, on the management class. -/
def State.sendGang (s : State) (peer : Nat) (m : GangMsg) : State := (s.sendPayload peer 3 none none (some m)).getD s

/-- The coordinator sends GO when it holds every READY, by T − 5 µs; it holds its own GO at once. -/
def State.sendGo (s : State) (gang time : Nat) : State :=
  let g := s.gang gang
  if g.coordinator = s.pkg ∧ g.planned = some time ∧ g.pkgs.all (fun p => g.ready.contains (p, time)) = true ∧ s.time + 5000 ≤ time ∧
      g.go.contains time = false then
    (g.pkgs.filter (fun p => p != s.pkg)).foldl (fun s p => s.sendGang p { ready := false, gang := gang, time := time })
      (s.modGang gang (fun g => { g with go := g.go ++ [time] }))
  else s

/-- A READY that the coordinator holds; one may come before the coordinator has planned the switch itself. -/
def State.holdReady (s : State) (gang pkg time : Nat) : State :=
  (s.modGang gang (fun g => if g.ready.contains (pkg, time) then g else { g with ready := g.ready ++ [(pkg, time)] })).sendGo gang time

/-- Contexts whose leats are full come in ahead of every other at the next switch of their partition (11 R327), as far as they do not meet. -/
def State.precedence (s : State) (planned partition : List Nat) : List Nat :=
  let tiles (tag : Nat) : List Nat := ((s.ctx tag).map Context.tiles).getD []
  let meets (a b : Nat) : Bool := (tiles a).any (fun t => (tiles b).contains t)
  let urgent := (s.ctxs.filter (fun c => c.2.urgent && c.2.state == .out && partition.any (meets c.1))).map (·.1)
  (urgent ++ planned).foldl (fun acc t => if acc.any (fun a => a == t || meets a t) then acc else acc ++ [t]) []

/-- R367: Primrose plans a switch at T: what comes in and goes out, the packages, and whether this one is ready by T − 10 µs. Only contexts with gang = 1
are switched (R350). -/
def execGangSwitchPreparation (at_ : SwitchAt) (incoming outgoing pkgs : List Nat) (ready : Bool) (s : State) : Out :=
  let gang := at_.gang
  let time := at_.time
  if (s.gang gang).stopped || !s.boot.done then event s
  else
    let member (tag : Nat) : Bool := ((s.ctx tag).map (fun c => c.recBits 0 18 18 == 1)).getD false
    let out := outgoing.filter member
    let come := s.precedence (incoming.filter member) (incoming.filter member ++ out)
    let s := s.modGang gang (fun g =>
      { g with ready := g.ready.filter (fun r => decide (time ≤ r.2)), go := g.go.filter (fun t => t == time),
               incoming := come, outgoing := out, pkgs := pkgs, planned := some time, placeFailures := if g.incoming = come then g.placeFailures else 0 })
    if !ready || decide (time < s.time + 10000) then event s
    else if (s.gang gang).coordinator = s.pkg then event (s.holdReady gang s.pkg time)
    else event (s.sendGang (s.gang gang).coordinator { ready := true, gang := gang, time := time })

/-- R367: a READY reaches the coordinator. -/
def execGangReady (pkg : Nat) (at_ : SwitchAt) (s : State) : Out := event (s.holdReady at_.gang pkg at_.time)

/-- R367: a GO counts when it comes by T − 1 µs. -/
def State.holdGo (s : State) (gang time : Nat) : State :=
  if (s.gang gang).planned = some time ∧ s.time + 1000 ≤ time ∧ (s.gang gang).go.contains time = false then
    s.modGang gang (fun g => { g with go := g.go ++ [time] })
  else s

def execGangGo (at_ : SwitchAt) (s : State) : Out := event (s.holdGo at_.gang at_.time)

/-! The switch (R368, R371). -/

/-- The next attempt, one quantum later; a READY that has come for a later time stays. -/
def Gang.again (g : Gang) (time quantum : Nat) : Gang :=
  { g with planned := some (time + quantum), ready := g.ready.filter (fun r => decide (time < r.2)), go := [] }

/-- Whether the tiles that a gang's contexts need are free or held by contexts that go out (R372). -/
def State.placeableGang (s : State) (g : Gang) : Bool :=
  g.incoming.all (fun tag =>
    match s.ctx tag with
    | none => true
    | some c => c.tiles.all (fun t => (s.tile t).launch == 0 || (s.tile t).launch == tag || g.outgoing.contains (s.tile t).launch))

/-- Tiles of contexts reserved, or free of a reservation. -/
def State.setReserved (s : State) (tags : List Nat) (on : Bool) : State :=
  (tags.flatMap (fun tag => ((s.ctx tag).map Context.tiles).getD [])).foldl (fun s t => s.modTile t (fun x => { x with reserved := on })) s

/-- R372: a gang that could not be placed; after enough quanta in a row its region is reserved. -/
def State.placeFailed (s : State) (gang time : Nat) : State :=
  let n := (s.gang gang).placeFailures + 1
  let s := s.modGang gang (fun g => { g.again time s.policy.gangQuantum with placeFailures := n, failures := 0 })
  if n < s.policy.reserveAfter then s
  else (s.modGang gang (fun g => { g with reservedFor := g.incoming })).setReserved (s.gang gang).incoming true

/-- R367, R422: without GO the old gang goes on (report 11); 8 failures in a row are reported to system software (report 14). -/
def State.goMissed (s : State) (gang time : Nat) : State :=
  let n := (s.gang gang).failures + 1
  let s := (s.modGang gang (fun g => { g.again time s.policy.gangQuantum with failures := n, placeFailures := 0 })).emit (.report 11 (BitVec.ofNat 64 time))
  if n = 8 then s.emit (.report 14 (BitVec.ofNat 64 time)) else s

/-- Whether every outgoing context has been saved or has ended, and whatever comes in can be restored. -/
def State.switchReady (s : State) (g : Gang) : Bool :=
  g.outgoing.all (fun tag => match s.ctx tag with | some c => c.state != .out || c.saved.isSome | none => true) &&
    g.incoming.all (fun tag => match s.ctx tag with
      | some c => (match c.state, c.saved with | .out, some v => s.restorable v | _, _ => true)
      | none => true)

/-- What a launch has saved of dies that stand still taken away. -/
def Saved.without (v : Saved) (dead : Nat → Bool) : Saved :=
  { v with cores := v.cores.filter (fun k => !(isCompute k.1 && dead (dieOf k.1))), tiles := v.tiles.filter (fun t => !(decide (t.1 < 512) && dead (dieOfTile t.1))),
           recs := v.recs.filter (fun r => !dead r.1), ranges := v.ranges.filter (fun r => !dead r.1), barriers := v.barriers.filter (fun b => !dead b.1) }

/-- What it has saved of those dies. -/
def Saved.on (v : Saved) (dead : Nat → Bool) : Saved :=
  { v with cores := v.cores.filter (fun k => isCompute k.1 && dead (dieOf k.1)), tiles := v.tiles.filter (fun t => decide (t.1 < 512) && dead (dieOfTile t.1)),
           recs := v.recs.filter (fun r => dead r.1) }

/-- What a context has saved is lost: its tasks, jobs and records are reported FAILED-ABSENT, the operations and blocks that its handlers served fail, its
ranges retire. -/
def State.loseSaved (s : State) (v : Saved) : State :=
  let all (_ : Nat) : Bool := true
  let lost := v.cores.flatMap (fun k => lostTasks all k.2) ++ v.tiles.flatMap (fun t => lostJobs (fun _ _ => true) t.2) ++
    (v.recs.filter (fun r => r.2.ev.kind == .task)).map (fun r => (r.2.ev.ltag, r.2.ev.item, 0))
  let s := (s.reportAbsent lost).dropPackages (v.cores.flatMap (fun k => packagesOf k.2.inbox) ++ packagesOf (v.recs.map (·.2.ev)))
  let s := (v.cores.flatMap (fun k => lostHandlers all k.2)).foldl State.handlerLost s
  (v.cores.flatMap (fun k => (lostRanges all k.2).map (fun r => (k.1, r)))).foldl (fun s r => s.retire r.1 r.2.1 r.2.2) s

/-- R437: a context that comes in while dies of it are under reset loses what it holds there; that is reported FAILED-ABSENT. -/
def State.shedDead (s : State) (tag : Nat) : State :=
  match s.ctx tag with
  | some c =>
    match c.state, c.saved with
    | .out, some v =>
      let dead (d : Nat) : Bool := s.dieHeld d
      if c.tiles.any (fun t => dead (dieOfTile t)) then
        let s := s.loseSaved (v.on dead)
        { s with ops := s.ops.filter (fun o => !(o.2.ltag == tag && isCompute o.2.core && dead (dieOf o.2.core))) }.modCtx tag (fun c =>
          { c with saved := some (v.without dead), foot := c.foot.filter (fun k => !dead (dieOf k)), started := c.started.filter (fun t => !dead (dieOfTile t)) })
      else s
    | _, _ => s
  | none => s

/-- Step 5 for one context that comes in. -/
def State.bringIn (s : State) (tag : Nat) : State :=
  match s.ctx tag with
  | some c =>
    match c.state, c.saved with
    | .out, some v => if s.restorable v then s.restoreContext tag v else s
    | _, _ => s
  | none => s

/-- Steps 4 to 6, once everything is quiet. The reservation ends for what has been placed (R372). -/
def State.finishSwitch (s : State) (gang : Nat) : State :=
  let s := (s.gang gang).outgoing.foldl State.trySave s
  let g := s.gang gang
  let s := g.incoming.foldl State.shedDead s
  if s.switchReady g then
    let s := g.incoming.foldl State.bringIn s
    let waits (tag : Nat) : Bool := ((s.ctx tag).map (fun c => c.state == .waiting)).getD false
    let placed := g.reservedFor.filter (fun tag => g.incoming.contains tag && !waits tag)
    (s.setReserved placed false).modGang gang (fun g =>
      { Gang.reset with reservedFor := g.reservedFor.filter (fun tag => !placed.contains tag),
                        ready := g.ready.filter (fun r => decide (g.planned.getD 0 < r.2)) })
  else s

/-- R368: the switch at T, for which a gang of several packages needs GO. The stop takes effect at once; the event is offered again until the outgoing contexts
are quiet. -/
def execGangSwitch (at_ : SwitchAt) (s : State) : Out :=
  let gang := at_.gang
  let time := at_.time
  let g := s.gang gang
  if g.planned ≠ some time ∨ s.time < time then event s
  else if g.stopped then event (s.finishSwitch gang)
  else if !g.go.contains time && !g.pkgs.all (fun p => p == s.pkg) then event (s.goMissed gang time)
  else if !s.placeableGang g then event (s.placeFailed gang time)
  else event (State.finishSwitch ((g.outgoing.foldl (State.stopContext · .out ·) s).modGang gang (fun g => { g with stopped := true })) gang)

/-! Reservation (R372). -/

/-- A task of another launch on a reserved tile moves, at its next bundle boundary, to a core of its launch outside the region that would
take it, where it could move by `migr`. -/
def State.evict (s : State) (core : Nat) : State :=
  match s.top core with
  | none => s
  | some f =>
    let stays := !isCompute core || !(s.tile (tileOf core)).reserved || s.gangs.any (fun g => g.2.reservedFor.contains f.ltag) || f.mig.isSome ||
      f.kind != .task || f.level == 7 || !f.claims.isEmpty
    if stays then s
    else
      match (((s.ctx f.ltag).map (·.foot)).getD []).find? (fun k =>
        !(s.tile (tileOf k)).reserved && s.moveStatus f k == 0 && (s.core k).admits f.level) with
      | some k => s.modTop core (fun f => { f with mig := some (3, BitVec.ofNat 64 k) })
      | none => s

/-! Withdrawal (R373). -/

/-- Whether nothing of a launch is left on a tile but its memory. -/
def State.tileBare (s : State) (c : Context) (t : Nat) : Bool :=
  (c.coresOf t).all (fun k =>
    let x := s.core k
    x.frames.isEmpty && x.inbox.isEmpty && x.timers.isEmpty && x.chans.isEmpty && s.ops.all (fun o => o.2.core != k) &&
      s.copies.all (fun j => j.2.core != k) && s.ueJobs.all (fun j => j.2.core != k) &&
      s.colls.all (fun cl => cl.2.cmds.all (fun y => y.lost || y.core != k))) &&
    (s.tile t).queues.all (fun q => q.2.isEmpty)

/-- R373: a reserved tile of a launch with yield = 1 is withdrawn once it is bare. Its numbered allocations are lost with it. -/
def execTileWithdrawal (tile : Nat) (s : State) : Out :=
  let tag := (s.tile tile).launch
  match s.ctx tag with
  | none => event s
  | some c =>
    if !(s.tile tile).reserved || c.recBits 0 19 19 == 0 || c.state != .running || s.gangs.any (fun g => g.2.reservedFor.contains tag) ||
        !s.tileBare c tile then event s
    else
      event ((s.modTile tile (fun t => { t.left with reserved := true })).modCtx tag (fun c =>
        { c with foot := c.foot.filter (fun k => tileOf k != tile), started := c.started.filter (fun t => t != tile),
                 alloc := kdel c.alloc tile }))

end Sys2Proof.Machine
end

