-- ==== Sys2Proof/Machine/Resets.lean ====
section
/-! DEFINITION. The end of contexts by an ERROR of their interface, function-level resets and die resets (spec 14 R393, R394; 15 R417,
R419 to R421; 01 R46). -/

namespace Sys2Proof.Machine

/-! What a reset discards (`hit` as in Gang.lean). -/

/-- A core without what is lost; the coprocessor ring keeps its entries (00 R12). -/
def Core.swept (c : Core) (hit : Nat → Bool) : Core :=
  let frames := c.frames.filter (fun f => !hit f.ltag)
  let c := { c.dropLatches with
    frames := frames, inbox := c.inbox.filter (fun e => !hit e.ltag), timers := c.timers.filter (fun t => !hit t.2.ltag), follow := .free }
  if frames.isEmpty then { c with statuses := [] } else c

/-- R419, R417: the collective commands of lost ranks are discarded and reported FAILED-ABSENT, each followed by the missing contributors, of which they are;
the jobs of the ranks that remain fail (11 R335). -/
def State.loseRanks (s : State) (hit : Nat → Nat → Bool) : State :=
  s.colls.foldl (fun s c =>
    let gone := c.2.cmds.filter (fun x => !x.lost && hit x.core c.2.ltag)
    if gone.isEmpty then s
    else
      let missing := c.2.missing ++ (gone.map (·.rank)).filter (fun r => !c.2.missing.contains r)
      let s := s.modColl c.1 (fun x =>
        { x with cmds := x.cmds.map (fun y => if gone.contains y then { y with lost := true } else y), missing := missing,
                 status := some (x.status.getD failedAbsent) })
      gone.foldl (fun s x => (s.report c.2.ltag failedAbsent 0 x.item (BitVec.ofNat 64 x.ident) 0#64).missingEntries c.2.ltag failedAbsent x.ident x.item missing
        (List.range ((s.ranksOf c.2).length / 64 + 1))) s) s

/-- What cores that are lost have read ahead (10 R298). -/
def State.forgetCores (s : State) (gone : Nat → Bool) : State :=
  { s with foreseen := s.foreseen.filter (fun x => !gone x.core), aheads := s.aheads.filter (fun x => !gone x.core) }

/-- Everything that cores hold or have issued and that is lost; a collective stands as long as some of its ranks remain. -/
def State.sweepCores (s : State) (hit : Nat → Nat → Bool) : State :=
  let tasks := s.cores.flatMap (fun k => lostTasks (hit k.1) k.2)
  let handlers := s.cores.flatMap (fun k => lostHandlers (hit k.1) k.2) ++
    s.routers.flatMap (fun r => (r.2.hold.filter (lostHeld hit)).filterMap (fun m => handlerOf m.ev))
  let ranges := s.cores.flatMap (fun k => (lostRanges (hit k.1) k.2).map (fun r => (k.1, r)))
  let starts := s.ctxs.flatMap (fun c => lostStarts hit c.1 c.2)
  let packs := s.cores.flatMap (fun k => packagesOf (k.2.inbox.filter (fun e => hit k.1 e.ltag)))
  let jobs := s.tiles.flatMap (fun t => lostJobs hit t.2)
  let copies := (s.copies.filter (fun j => hit j.2.core j.2.ltag)).map (fun j => (j.2.ltag, j.2.item, j.2.ident))
  let ues := (s.ueJobs.filter (fun j => hit j.2.core j.2.ltag)).map (fun j => (j.2.ltag, j.2.item, j.2.ident))
  let engines := (s.copies.filter (fun j => hit j.2.core j.2.ltag)).map (·.1) ++ (s.ueJobs.filter (fun j => hit j.2.core j.2.ltag)).map (·.1)
  let s := ((s.reportAbsent (tasks ++ starts ++ jobs ++ copies ++ ues)).dropPackages packs)
  let s := handlers.foldl State.handlerLost s
  let s := (ranges.foldl (fun s r => s.retire r.1 r.2.1 r.2.2) s).loseRanks hit
  let s := s.forgetCores (fun k => (s.core k).frames.any (fun f => hit k f.ltag))
  { s with
    cores := s.cores.map (fun k => (k.1, if k.2.frames.any (fun f => hit k.1 f.ltag) || k.2.inbox.any (fun e => hit k.1 e.ltag) ||
      k.2.timers.any (fun t => hit k.1 t.2.ltag) then k.2.swept (hit k.1) else k.2)),
    tiles := s.tiles.map (fun t => (t.1, { t.2 with
      queues := t.2.queues.map (fun q => (q.1, q.2.filter (fun j => !hit (q.1 / 8) j.ltag))) })),
    ops := s.ops.filter (fun o => !hit o.2.core o.2.ltag && !engines.any (fun j => o.2.core == copyCore j)),
    copies := s.copies.filter (fun j => !hit j.2.core j.2.ltag),
    ueJobs := s.ueJobs.filter (fun j => !hit j.2.core j.2.ltag),
    routers := s.routers.map (fun r => (r.1, { r.2 with hold := r.2.hold.filter (fun m => !lostHeld hit m) })),
    acks := s.acks.filter (fun a => !hit a.sender a.ltag),
    ctxs := s.ctxs.map (fun c => (c.1, if c.2.startLeft.isEmpty then c.2 else
      { c.2 with startLeft := c.2.startLeft.map (fun t => (t.1, t.2.filter (fun x => !hit x.1 c.1))) })) }

/-- Collectives of a launch lost, their jobs reported: the other packages are told that their blocks fail (11 R335). -/
def State.dropColls (s : State) (tag : Nat) : State :=
  let gone := s.colls.filter (fun c => c.2.ltag == tag)
  let s := gone.foldl (fun s c =>
    let n := max 1 (c.2.op.blocks (s.ranksOf c.2).length)
    s.tellFailures { c.2 with failed := (List.range n).filter (fun b => !c.2.finished.contains b), status := some failedAbsent }) s
  { s with colls := s.colls.filter (fun c => c.2.ltag != tag) }

/-- Ready records of a launch that are between Governors lost (09 R263). -/
def State.dropGiven (s : State) (tag : Nat) : State :=
  let gone := s.given.filter (fun x => x.rec_.ev.ltag == tag)
  let tasks := gone.filter (fun x => x.rec_.ev.kind == .task)
  let s := tasks.foldl (fun s x => match x.rec_.ev.gov with | some r => s.retire (govCore x.src) tag r | none => s)
    { s with given := s.given.filter (fun x => x.rec_.ev.ltag != tag) }
  (s.reportAbsent (tasks.map (fun x => (tag, x.rec_.ev.item, 0)))).dropPackages (packagesOf (gone.map (·.rec_.ev)))

/-- Governor records lost on a die. -/
def State.sweepDie (s : State) (d : Nat) (hit : Nat → Bool) : State :=
  let gone := (s.die d).ready.filter (fun g => hit g.ev.ltag)
  let s := s.modDie d (fun x =>
    { x with ready := x.ready.filter (fun g => !hit g.ev.ltag), ranges := x.ranges.filter (fun r => !hit r.ltag),
             barriers := x.barriers.map (fun b => (b.1, { b.2 with
               store := b.2.store.filter (fun w => !hit w.ev.ltag), overflow := b.2.overflow.filter (fun w => !hit w.ev.ltag) })) })
  let tasks := gone.filter (fun g => g.ev.kind == .task)
  let s := tasks.foldl (fun s g => match g.ev.gov with | some r => s.retire (govCore d) g.ev.ltag r | none => s) s
  (s.reportAbsent (tasks.map (fun g => (g.ev.ltag, g.ev.item, 0)))).dropPackages (packagesOf (gone.map (·.ev)))

/-- R394: a context ended by an ERROR. Its frames are discarded and their items reported FAILED-ABSENT; its launch-end entry follows. Messages that wait for it
go on to their routers, which refuse them. -/
def State.killContext (s : State) (tag : Nat) : State :=
  let s := match s.savedOf tag with | some v => (s.loseSaved v).restoreMessages v | none => s
  let s := s.unwheel tag
  let s := ((s.sweepCores (fun _ t => t == tag)).dropColls tag).dropGiven tag
  let s := (List.range 8).foldl (fun s d => s.sweepDie d (fun t => t == tag)) s
  let s := s.dropPackages ((s.packs.filter (fun p => p.2.frame.ltag == tag)).map (·.1))
  s.modCtx tag (fun c => { c with state := .ended, leat := [], leatHead := c.leatTail, saved := none, startLeft := [], urgent := false })

/-- R394: the contexts of a tenant end. -/
def State.killTenant (s : State) (tenant : Nat) : State :=
  ((s.ctxs.filter (fun c => c.2.tenant == tenant && c.2.state != .ended)).map (·.1)).foldl State.killContext s

/-! Interfaces (R393, R394). -/

/-- An IDE stream's keys discarded. -/
def State.dropKeys (s : State) (stream : Nat) : State :=
  { s with streams := kset s.streams stream { key := none, insecure := ((kget s.streams stream).map (·.insecure)).getD false } }

/-- Whether a TDI is locked or runs. -/
def PcieFn.locked (f : PcieFn) : Bool := f.tdi == .locked || f.tdi == .run

/-- R394: a TDI that is locked or runs enters ERROR. -/
def State.enterError (s : State) (fn : Nat) : State :=
  let f := s.fn fn
  if !f.locked then s
  else
    let s := s.modFn fn (fun f => { f with tdi := .error, queues := f.queues.map (fun q => (q.1, { q.2 with en := false })) })
    let s := match f.ide with | some x => s.dropKeys x | none => s
    if f.bound then s.killTenant f.tenant else s

/-- R394: LOCK_INTERFACE. -/
def execLockInterface (fn : Nat) (s : State) : Out :=
  event (if s.boot.done && isComputeFn fn && (s.fn fn).tdi == .unlocked then s.modFn fn (fun f => { f with tdi := .locked }) else s)

/-- R394: START_INTERFACE binds the interface to an IDE stream. -/
def execStartInterface (fn stream : Nat) (s : State) : Out :=
  event (if s.boot.done && isComputeFn fn && decide (stream < 16) && (s.fn fn).tdi == .locked then
    s.modFn fn (fun f => { f with tdi := .run, ide := some stream }) else s)

/-- R394: STOP_INTERFACE leaves every state, ERROR included, for CONFIG_UNLOCKED. -/
def execStopInterface (fn : Nat) (s : State) : Out :=
  event (if s.boot.done && isComputeFn fn then s.modFn fn (fun f => { f with tdi := .unlocked, ide := none }) else s)

/-- R393: a TLP of a stream fails its integrity check: it is dropped, the stream becomes insecure, its interfaces enter ERROR. -/
def execIdeIntegrityFailure (stream : Nat) (s : State) : Out :=
  if 16 ≤ stream then event s
  else
    let fns := (s.fns.filter (fun f => f.2.ide == some stream)).map (·.1)
    let s := fns.foldl State.enterError s
    event { s with streams := kset s.streams stream { key := (kget s.streams stream).bind (·.key), insecure := true } }

/-- R393: IDE_KM sets a stream's key inside a secure session of the function's responder. -/
def execIdeKm (fn stream : Nat) (key : Word) (s : State) : Out :=
  event (if (kget s.boot.session fn).isSome && decide (stream < 16) then
    { s with streams := kset s.streams stream { key := some key, insecure := false } } else s)

/-- 16 R427, 14 R394: a configuration request; a write that a locked interface forbids leads to ERROR. Report 1 stands for
Configuration Request Retry Status. -/
def execConfigurationRequest (fn : Nat) (write : Bool) (s : State) : Out :=
  if !isComputeFn fn then event s
  else if !s.boot.done then event (s.emit (.report 1 (BitVec.ofNat 64 fn)))
  else event (if write then s.enterError fn else s)

/-! Die reset (R419 to R421). -/

/-- The functions of a die (14 R384). -/
def fnsOfDie (d : Nat) : List Nat := d :: (List.range 8).map (fun v => 16 + 8 * d + v)

/-- R421: the reset notice pops every away marker whose task had moved to the die. A task whose package is still on its way keeps its marker. -/
def State.resetNotice (s : State) (d : Nat) : State :=
  let moving (core task : Nat) : Bool := s.packs.any (fun p => p.2.fromCore == core && p.2.frame.task == task)
  let gone := s.cores.flatMap (fun k => (k.2.frames.filter (fun f => match f.kind with
    | .away k2 => isCompute k2 && dieOf k2 == d && !moving k.1 f.task
    | _ => false)).map (fun f => (k.1, f.task)))
  gone.foldl (fun s x => s.popMarker x.1 x.2 [] []) s

/-- Steps 1 to 4 of R419; notices addressed to the die are dropped (R420). -/
def State.resetDie (s : State) (d : Nat) : State :=
  let s := (fnsOfDie d).foldl State.enterError s
  let s := s.modDie d (fun x => { x with inReset := true })
  let s := s.sweepCores (fun k _ => isCompute k && dieOf k == d)
  let s := s.sweepDie d (fun _ => true)
  let s := s.resetNotice d
  let lines := s.tiles.flatMap (fun t => if dieOfTile t.1 = d then t.2.lines else [])
  let s := (lines.foldl State.writeBack s).forgetCores (fun k => isCompute k && dieOf k == d)
  { s with
    cores := s.cores.filter (fun k => !(isCompute k.1 && dieOf k.1 == d)),
    tiles := s.tiles.filter (fun t => dieOfTile t.1 != d),
    dies := kset s.dies d { Die.reset with inReset := true, gate := (s.die d).gate, temp := (s.die d).temp, tripped := (s.die d).tripped },
    fns := s.fns.map (fun f => (f.1, if (fnsOfDie d).contains f.1 then { f.2 with queues := [] } else f.2)),
    retired := s.retired.filter (fun r => r.1 != d),
    notices := s.notices.filter (fun n => !(isCompute n.core && dieOf n.core == d)),
    ctxs := s.ctxs.map (fun c => (c.1, if c.2.saved.isSome || c.2.state == .waiting then c.2 else
      { c.2 with foot := c.2.foot.filter (fun k => !(isCompute k && dieOf k == d)), started := c.2.started.filter (fun t => dieOfTile t != d) })) }

/-- R419: a Primrose call at the request of system software. -/
def execDieReset (die : Nat) (s : State) : Out :=
  event (if decide (die < 8) && s.boot.done && !(s.die die).inReset then s.resetDie die else s)

/-- R419 step 5: the die is ready and its functions return to CONFIG_UNLOCKED. -/
def execDieReady (die : Nat) (s : State) : Out :=
  event (if decide (die < 8) && (s.die die).inReset then
    (fnsOfDie die).foldl (fun s f => s.modFn f (fun x => { x with tdi := .unlocked, ide := none }))
      (s.modDie die (fun x => { x with inReset := false, tripped := false }))
  else s)

/-- R419, R394: a function-level reset. That of a physical function resets its die; that of a virtual function ends the contexts
reached through it. The queue registers take their reset values (14 R389). -/
def execFunctionLevelReset (fn : Nat) (s : State) : Out :=
  if !s.boot.done || !isComputeFn fn then event s
  else
    let s := s.enterError fn
    let s := if fn < 8 then (if (s.die fn).inReset then s else s.resetDie fn)
             else if (s.fn fn).bound then s.killTenant (s.fn fn).tenant else s
    event (s.modFn fn (fun f => { f with queues := [] }))

end Sys2Proof.Machine
end

