-- ==== Sys2Proof/Machine/Boot.lean ====
section
/-! DEFINITION. Boot, identity, power, temperature, the management registers, soft errors and repair, policies (spec 15 R423 to R425; 16 R427
to R437). -/

namespace Sys2Proof.Machine

/-! Counters (R436). -/

def counterTop : Nat := 2 ^ 64 - 1

/-- A telemetry counter raised; it saturates. -/
def State.count (s : State) (off n : Nat) : State :=
  { s with boot := { s.boot with counters := kset s.boot.counters off (min (kgetD s.boot.counters off 0 + n) counterTop) } }

/-! Images (R428). -/

/-- The 4 KiB header of an image. -/
def headerOf (i : BootImage) : List Byte :=
  let h := leBytes i.magic 4 ++ leBytes i.keySlot 4 ++ leBytes i.secver.toNat 4 ++ leBytes ((if i.raise then 1 else 0) + 2 * i.flags) 4 ++
    leBytes i.body.length 8 ++ i.pubKey ++ i.rest
  h ++ List.replicate (4096 - h.length) 0#8

/-- The error code of an image, 0 when Snowdrop accepts it. -/
def imageError (fused : Nat) (image : Option BootImage) : Nat :=
  match image with
  | none => 1
  | some i =>
    if i.magic ≠ 0x50524D52 then 1
    else if 3 < i.keySlot ∨ i.pubKey.length ≠ 56 ∨ sha256 i.pubKey ≠ Config.fusedKeyHash i.keySlot ∨ Config.keySlotRevoked i.keySlot = true then 2
    else if i.sig.length ≠ 1612 ∨ lmsVerify i.pubKey (headerOf i ++ i.body) i.sig = false then 3
    else if i.secver.toNat < fused then 4
    else 0

/-- The bytes of an image. -/
def imageBytes (i : BootImage) : List Byte := headerOf i ++ i.body ++ i.sig

/-- The size of the recovery window (R429). -/
def windowBytes : Nat := 2 ^ 25

/-- The image that stands in some bytes from address 0 on; none when its body does not fit in the window. -/
def imageIn (m : Mem) : Option BootImage :=
  let at1 (a n : Nat) : Nat := leValue (memGetBytes m a n)
  let n := at1 16 8
  if windowBytes < 4096 + n + 1612 then none
  else
    some { magic := at1 0 4, keySlot := at1 4 4, secver := BitVec.ofNat 32 (at1 8 4), raise := bitOf (at1 12 4) 0, flags := at1 12 4 / 2,
           pubKey := memGetBytes m 24 56, rest := memGetBytes m 80 4016, body := memGetBytes m 4096 n, sig := memGetBytes m (4096 + n) 1612 }

/-! The boot (R427, R429). -/

/-- R424: a spare takes the place of each scheduled row that `here` accepts; a row is 4 KiB of one stack (log entry 27). -/
def State.repairRows (s : State) (here : Nat → Bool) : State :=
  let rows := s.boot.rowRepair.filter here
  let use (v row : Nat) : Nat := if bitsOf v (5 * (row % 12) + 4) (5 * (row % 12)) = 31 then v else v + 2 ^ (5 * (row % 12))
  { s with boot := { s.boot with spares := rows.foldl use s.boot.spares, rowRepair := s.boot.rowRepair.filter (fun r => !here r),
                                 rowErrors := s.boot.rowErrors.filter (fun r => !rows.contains r.1) } }

/-- Step 4: every SRAM is cleared to the state of 01 R46: those of the cores and tiles, the slices, the Governors, the routers. -/
def State.clearSram (s : State) : State :=
  { s with cores := [], tiles := [], slices := [], routers := [],
           dies := s.dies.map (fun d => (d.1, { Die.reset with inReset := d.2.inReset, gate := d.2.gate, temp := d.2.temp, tripped := d.2.tripped })) }

/-- Step 4: training, repairs and the clearing of every SRAM; a failure stops the boot with its code. Step 5 enables the functions. -/
def State.bootTrain (s : State) : State :=
  let b := s.boot
  if !b.dramOk then { s with boot := { b with err := 5 } }
  else if !b.linkOk then { s with boot := { b with err := 6 } }
  else
    let s := (s.repairRows (fun _ => true)).clearSram
    { s with boot := { s.boot with stage := 5, done := true, err := 0 } }

/-- What digest 4 of R431 measures: the fuses, the fused minimum, the spares in use and the repairs to be made (log entry 29). -/
def Boot.fuses (b : Boot) (fused : Nat) : List Byte :=
  Config.fuseBytes ++ leBytes fused 4 ++ leBytes b.spares 8 ++ b.rowRepair.flatMap (fun r => leBytes r 8)

/-- Steps 2 and 3 with an accepted image: the minimum is raised, the measurements are recorded, the dies are released, Primrose runs. -/
def State.bootImage (s : State) (i : BootImage) : State :=
  let fused := if i.raise then max s.boot.fused i.secver.toNat else s.boot.fused
  let digests := [Config.romHash, sha256 (headerOf i ++ i.body), sha256 (leBytes i.secver.toNat 4 ++ leBytes fused 4),
    sha256 (s.boot.fuses fused)]
  State.bootTrain { s with boot := { s.boot with fused := fused, secver := i.secver.toNat, image := i.body, measured := digests, stage := 3, err := 0 } }

/-- R427: power is good. Slot B is read when slot A fails; when both fail, the code of the first stands in BOOTST. -/
def execPowerGood (slotA slotB : Option BootImage) (dramOk linkOk : Bool) (s : State) : Out :=
  if s.boot.stage ≠ 0 then event s
  else
    let s := { s with boot := { s.boot with stage := 1, dramOk := dramOk, linkOk := linkOk } }
    match slotA, slotB, imageError s.boot.fused slotA, imageError s.boot.fused slotB with
    | some i, _, 0, _ => event (s.bootImage i)
    | _, some i, _, 0 => event (s.bootImage i)
    | _, _, e, _ => event { s with boot := { s.boot with err := e } }

/-- R429: whether the recovery window is open: both slots have failed. -/
def State.recovering (s : State) : Bool := s.boot.stage == 1 && s.boot.err != 0

/-- R429: bytes that the host writes into the recovery window. -/
def State.writeWindow (s : State) (offset : Nat) (data : List Byte) : State :=
  if s.recovering && decide (offset + data.length ≤ windowBytes) then { s with boot := { s.boot with window := memSetBytes s.boot.window offset data } } else s

/-- R429: 1 written to RECGO starts the verification of the image that stands in the recovery window; `image` is one that the host has written there just
before. -/
def execRecgo (value : Word) (image : Option BootImage) (s : State) : Out :=
  let s := match image with | some i => s.writeWindow 0 (imageBytes i) | none => s
  event (if value.getLsbD 0 && s.recovering then
    match imageIn s.boot.window with
    | some i => if imageError s.boot.fused (some i) = 0 then s.bootImage i else s
    | none => s
  else s)

/-- R430: power is lost: only fuses, the identity counter, the spares and the scheduled repairs remain. A loss after the counter was
programmed skips a leaf. -/
def execPowerLoss (leafProgrammed : Bool) (s : State) : Out :=
  let b := s.boot
  let leaf := if leafProgrammed then min (b.leaf + 1) (2 ^ 20) else b.leaf
  event { State.reset with
    sched := s.sched, nextId := s.nextId, freeIx := s.freeIx, egress := s.egress, pkg := s.pkg,
    boot := { State.reset.boot with leaf := leaf, spent := leaf == 2 ^ 20, fused := b.fused, spares := b.spares, rowRepair := b.rowRepair } }

/-! Identity and attestation (R430, R431, R437). -/

/-- Whether the responder of a function answers: function 8 and the physical compute functions whose die is not resetting. -/
def State.spdmUp (s : State) (fn : Nat) : Bool :=
  if fn = 8 then decide (3 ≤ s.boot.stage) else s.boot.done && decide (fn < 8) && !(s.die fn).inReset

/-- The 1,772-byte signature of a leaf over a message: the leaf's number, the type and bytes of its one-time signature, the type of the tree and the path (R430; the
types are those of RFC 8554, log entry 29). -/
def leafSignature (leaf : Nat) (message : List Byte) : BitVec 14176 :=
  BitVec.ofNat 14176 (beValue (beBytes leaf 4 ++ beBytes 4 4 ++ beBytes (Config.lmsOts leaf message).toNat 1120 ++ beBytes 8 4 ++
    beBytes (Config.lmsPath leaf).toNat 640))

/-- The public key of the identity tree (R430): the types of the tree and of its one-time signatures, its identifier and its root. -/
def identityKey : List Byte := beBytes 8 4 ++ beBytes 4 4 ++ beBytes Config.identity.toNat 48

/-- What the responders support (R431). -/
def spdmParams : SpdmParams :=
  { version := (1, 3), caps := [.cert, .chal, .meas, .keyEx, .encrypt, .mac], hash := .sha256, sign := .lmsH20, exchange := .secp384r1, aead := .aes256gcm }

/-- R430: a signature made with the next leaf, after the counter has been programmed. Reports 16 and 15 stand for UnspecifiedError and
Busy. The second component tells whether it was made. -/
def State.sign (s : State) (fn : Nat) (bytes : List Byte) : State × Bool :=
  let b := s.boot
  let recent := b.signs.filter (fun t => decide (s.time < t + 3600000000000))
  if b.spent || decide (2 ^ 20 ≤ b.leaf) then (s.emit (.report 16 (BitVec.ofNat 64 fn)), false)
  else if s.policy.signRate ≤ recent.length then (s.emit (.report 15 (BitVec.ofNat 64 fn)), false)
  else
    ({ s with boot := { b with leaf := b.leaf + 1, spent := b.leaf + 1 == 2 ^ 20, signs := recent ++ [s.time] } }.emit
      (.signature (leafSignature b.leaf bytes)), true)

/-- The configuration of a function's TDI, measured (R431). -/
def State.tdiBytes (s : State) (fn : Nat) : List Byte :=
  let f := s.fn fn
  [BitVec.ofNat 8 (match f.tdi with | .unlocked => 0 | .locked => 1 | .run => 2 | .error => 3), BitVec.ofNat 8 f.tenant,
    if f.bound then 1#8 else 0#8] ++ leBytes f.wbase 8 ++ f.queues.flatMap (fun q => leBytes (q.2.loc + 4096 * q.2.base) 8 ++ leBytes q.2.lg 1)

/-- The five digests. -/
def State.digests (s : State) (fn : Nat) : List Byte :=
  (s.boot.measured ++ [sha256 (s.tdiBytes fn)]).flatMap digestBytes

/-- R431, R430: the certificate chain, in whose slot-0 certificate the identity's public key stands; the rest is the issuer's (free values, log entry 3). What the
responder supports has been answered before it. -/
def execGetCertificate (fn : Nat) (s : State) : Out :=
  event (if s.spdmUp fn then (s.emit (.spdm spdmParams)).emit (.hostReply (Config.certHead ++ identityKey ++ Config.certTail)) else s)

/-- R431: CHALLENGE consumes a leaf. -/
def execChallenge (fn : Nat) (s : State) : Out :=
  event (if s.spdmUp fn then (s.sign fn (s.digests fn)).1 else s)

/-- R431: the measurements; a signed request consumes a leaf. -/
def execGetMeasurements (fn : Nat) (signed : Bool) (s : State) : Out :=
  if !s.spdmUp fn then event s
  else if signed then
    let r := s.sign fn (s.digests fn)
    event (if r.2 then r.1.emit (.hostReply (s.digests fn)) else r.1)
  else event (s.emit (.hostReply (s.digests fn)))

/-- R431: KEY_EXCHANGE consumes a leaf and sets up a secure session: the answer carries the responder's point of the ECDHE and a MAC, and both sides hold the
secret. -/
def execKeyExchange (fn : Nat) (s : State) : Out :=
  if !s.spdmUp fn then event s
  else
    let r := s.sign fn (s.digests fn)
    event (if r.2 then
      let i := s.freeIx
      let x : SpdmSession := { params := spdmParams, leaf := s.boot.leaf, secret := Config.exchangeSecret i }
      State.emit { r.1 with freeIx := i + 1, boot := { r.1.boot with session := kset r.1.boot.session fn x } }
        (.hostReply (beBytes (Config.exchangePoint i).toNat 96 ++ beBytes (Config.exchangeMac i).toNat 32))
    else r.1)

/-! Power and temperature (R432, R433). -/

/-- R433: a trip: the die reset of R419, counted in TRIPS. -/
def State.trip (s : State) (d : Nat) : State :=
  if (s.die d).inReset then s
  else ((s.resetDie d).modDie d (fun x => { x with tripped := true })).count 0x0418 1

/-- The gating level of a die, once per millisecond. -/
def Die.gated (x : Die) (tlim : Nat) : Die :=
  { x with gate := if tlim ≤ x.temp then min (x.gate + 1) 8 else if x.temp + 3 < tlim then x.gate - 1 else x.gate }

/-- R433: every millisecond, with the module's average power in W: the frequency step against PCAP, the gating levels against TLIM, and the
energy counter in mJ. -/
def execPowerControlPeriod (watts : Nat) (s : State) : Out :=
  let b := s.boot
  if !b.done then event s
  else
    let step :=
      if !b.hot.isEmpty then 18
      else if b.pcap < watts then min (b.fstep + 1) 18
      else if watts + 50 < b.pcap then b.fstep - 1
      else b.fstep
    let s := { s with boot := { b with power := watts % 4096, fstep := step } }.count 0x0400 watts
    let s := (List.range 8).foldl (fun s d => s.modDie d (fun x => x.gated b.tlim)) s
    event ((List.range 8).foldl (fun s d => if 110 ≤ (s.die d).temp then s.trip d else s) s)

/-- R433: whether a Bedstone die (0 to 11) or a Sluice die (12, 13) has reached 105 °C and not cooled below 100 °C since. -/
def stillHot (hot bedstone sluice : List Nat) (i : Nat) : Bool :=
  match (if i < 12 then bedstone[i]? else sluice[i - 12]?) with
  | some t => decide (105 ≤ t) || (hot.contains i && decide (100 ≤ t))
  | none => hot.contains i

/-- R433: every 100 µs, the temperatures in °C of the compute, Bedstone and Sluice dies. -/
def execTemperatureSample (compute bedstone sluice : List Nat) (s : State) : Out :=
  if !s.boot.done then event s
  else
    let s := (List.range 8).foldl (fun s d => match compute[d]? with | some t => s.modDie d (fun x => { x with temp := t % 256 }) | none => s) s
    let s := (List.range 8).foldl (fun s d => if 110 ≤ (s.die d).temp then s.trip d else s) s
    let hot := (List.range 14).filter (stillHot s.boot.hot bedstone sluice)
    event { s with boot := { s.boot with hot := hot, fstep := if hot.isEmpty then s.boot.fstep else 18 } }

/-! Management registers (R435, R436). -/

/-- Function 8 is visible from step 1 of the boot. -/
def State.mgmtUp (s : State) : Bool := decide (1 ≤ s.boot.stage)

/-- R435: PCAP is clamped; it takes effect at the next control period after the boot. -/
def execPcapWrite (value : Word) (s : State) : Out :=
  event (if s.mgmtUp then { s with boot := { s.boot with pcap := min (max (field value 11 0) 1200) 2400 } } else s)

/-- R435: TLIM is clamped. -/
def execTlimWrite (value : Word) (s : State) : Out :=
  event (if s.mgmtUp then { s with boot := { s.boot with tlim := min (max (field value 7 0) 70) 100 } } else s)

/-- The offsets of the counters. -/
def isCounter (off : Nat) : Bool := off == 0x0400 || off == 0x0408 || off == 0x0410 || off == 0x0418 || off == 0x0420 || off == 0x0428

/-- A value with one field for each die. -/
def State.perDie (s : State) (width : Nat) (f : Die → Nat) : Nat :=
  ((List.range 8).map (fun d => f (s.die d) % 2 ^ width * 2 ^ (width * d))).foldl (· + ·) 0

/-- The two fused-out tiles of each of four compute dies, 16 bits each, numbered 0 to 65 (R435). -/
def fusedField (first : Nat) : Nat :=
  ((List.range 4).map (fun d => (Config.fusedTile (first + d) 0 % 66 + Config.fusedTile (first + d) 1 % 66 * 2 ^ 8) * 2 ^ (16 * d))).foldl (· + ·) 0

/-- A management register read. -/
def State.mgmtRead (s : State) (off : Nat) : Word :=
  let b := s.boot
  match off with
  | 0x0000 => BitVec.ofNat 64 (0x0009 + Config.stepping.toNat * 2 ^ 16 + b.secver * 2 ^ 32)
  | 0x0008 => BitVec.ofNat 64 (fusedField 0)
  | 0x0010 => BitVec.ofNat 64 (fusedField 4)
  | 0x0018 => BitVec.ofNat 64 (b.spares % 2 ^ 60)
  | 0x0020 => BitVec.ofNat 64 (b.stage + b.err * 16 + (if b.done then 4096 else 0))
  | 0x0030 => BitVec.ofNat 64 (b.leaf % 2 ^ 21 + (if b.spent then 2 ^ 21 else 0))
  | 0x0100 => BitVec.ofNat 64 b.pcap
  | 0x0108 => BitVec.ofNat 64 (b.power + b.fstep * 2 ^ 12 + s.perDie 4 Die.gate * 2 ^ 32)
  | 0x0110 => BitVec.ofNat 64 (s.perDie 8 Die.temp)
  | 0x0118 => BitVec.ofNat 64 b.tlim
  | 0x0210 => if s.inval.jobs.isEmpty then 0#64 else 1#64
  | 0x0218 => if s.inval.refused then 1#64 else 0#64
  | _ => if isCounter off then BitVec.ofNat 64 (kgetD b.counters off 0) else 0#64

/-- R436: a read of a counter returns it and clears it; the other management registers, and those of a compute function (14 R385), are read without
effect. -/
def execCounterRead (register : RegisterAt) (s : State) : Out :=
  let offset := register.offset
  if register.fn ≠ 8 then
    event (s.hostRequest register.fn register.via (fun s => s.emit (.hostReply (leBytes (s.regRead register.fn offset).toNat 8))))
  else if !s.mgmtUp then event s
  else
    let s' := s.emit (.hostReply (leBytes (s.mgmtRead offset).toNat 8))
    event (if isCounter offset then { s' with boot := { s'.boot with counters := kdel s'.boot.counters offset } } else s')

/-- R10, R432: cycles pass. A cycle at step s takes 10 / (30 − s) ns; `subNs` counts the rest in parts of 2329089562800, which every step
divides. Cycles below full speed are counted (R436). -/
def State.tick (s : State) (cycles : Nat) : State :=
  let unit := 2329089562800
  let ns := s.subNs + cycles * (10 * unit / (30 - min s.boot.fstep 18))
  let slow := s.boot.fstep != 0 || s.dies.any (fun d => d.2.gate != 0)
  let s := { s with time := (s.time + ns / unit) % 2 ^ 64, subNs := ns % unit, cycle := s.cycle + cycles }
  if slow then s.count 0x0420 cycles else s

/-! Soft errors and repair (R423, R424). -/

/-- The tenants whose pages hold a physical address. -/
def State.tenantsOf (s : State) (pa : Nat) : List Nat :=
  (s.tenants.filter (fun t => (s.leafFor t.1 pa (fun _ => true)).isSome)).map (·.1)

/-- R423: an uncorrectable error in the home's line: the line is dropped, and its backing store keeps what it holds. -/
def State.dropLine (s : State) (policy home line : Nat) : State :=
  s.setHomeLines policy home ((s.homeLines policy home).filter (fun c => !c.serves policy line || c.res))

/-- R423: a dirty line is lost: every running launch of the page's tenant receives a kind-6 entry. -/
def State.dirtyLost (s : State) (line : Nat) : State :=
  let ts := s.tenantsOf (64 * line)
  let tags := (s.ctxs.filter (fun c => c.2.state == .running && ts.contains c.2.tenant)).map (·.1)
  tags.foldl (fun s tag => s.cqEntry tag 6 0 0 0#64 (BitVec.ofNat 64 (64 * line)) 0#64) s

/-- R424: a corrected error of a row; 16 within 24 hours schedule its repair. -/
def State.rowError (s : State) (row : Nat) : State :=
  let recent := ((kgetD s.boot.rowErrors row []).filter (fun t => decide (s.time < t + 86400000000000))) ++ [s.time]
  let b := { s.boot with rowErrors := kset s.boot.rowErrors row recent }
  { s with boot := if 16 ≤ recent.length ∧ b.rowRepair.contains row = false then { b with rowRepair := b.rowRepair ++ [row] } else b }

/-- R423: the patrol scrub reads a line, in its slice when that holds it and in DRAM otherwise. A correctable error is corrected and counted; an
uncorrectable one drops a line of a slice, and makes a line of DRAM fail the accesses that fill it. -/
def execPatrolScrub (line : Nat) (finding : Option EccFinding) (s : State) : Out :=
  let held := findLine (kgetD s.slices (sliceOf (64 * line)) []) line
  if s.boot.stage < 4 then event s
  else
    match finding with
    | none => event s
    | some .correctable =>
      let s := s.count 0x0408 1
      event (match held with | some _ => s | none => s.rowError (64 * line / 4096))
    | some .uncorrectable =>
      let s := s.count 0x0410 1
      match held with
      | some c =>
        let s := s.dropLine 0 (sliceOf (64 * line)) line
        event (if c.dirty then s.dirtyLost line else s)
      | none => event (if s.badLines.contains line then s else { s with badLines := s.badLines ++ [line] })

/-- R424, R419, 01 R46: a Bedstone die is reset: its slice writes back its dirty lines and is empty, its keeper cores lose what they run, and the
scheduled repairs of its rows are made. -/
def execBedstoneDieReset (die : Nat) (s : State) : Out :=
  if 12 ≤ die ∨ s.boot.stage < 4 then event s
  else
    let here (k : Nat) : Bool := keySpace k == 1 && keyId k / 16 == die
    let s := s.sweepCores (fun k _ => here k)
    let s := (kgetD s.slices die []).foldl State.writeBack s
    event ({ s with slices := kdel s.slices die, cores := s.cores.filter (fun k => !here k.1) }.repairRows (fun r => r % 12 == die))

/-! Policies (R425). -/

def clamp (lo hi v : Nat) : Nat := min (max v lo) hi

/-- R425: Primrose sets a policy; a value outside the range is replaced by the nearest end. Times are in ns, the scrub period in s. -/
def execPolicySetting (policy : Policy) (value : Nat) (s : State) : Out :=
  let p := s.policy
  if s.boot.stage < 3 then event s
  else
    event { s with policy := match policy with
      | .stealRecords => { p with stealRecords := min value 16 }
      | .stealInterval => { p with stealInterval := clamp 100 1000000 value }
      | .predictorThreshold => { p with predThreshold := if value = 0 then 0 else clamp 2 15 value }
      | .gangQuantum => { p with gangQuantum := clamp 1000000 1000000000 value }
      | .reservationAfter => { p with reserveAfter := clamp 1 64 value }
      | .connectionSpill => { p with connSpill := true }
      | .replicas tenant =>
        { p with replicas := if value = 0 then p.replicas.filter (fun t => t != tenant)
                             else if p.replicas.contains tenant then p.replicas else p.replicas ++ [tenant] }
      | .collectiveLimit => { p with collLimit := clamp (2 ^ 20) (2 ^ 32) value }
      | .scrubPeriod => { p with scrubPeriod := clamp 3600 604800 value }
      | .signRate => { p with signRate := clamp 1 3600 value }
      | .ueTimeout => { p with ueTimeout := clamp 8000 1000000 value }
      | .ueCongestion => { p with ueCongestion := BitVec.ofNat 64 value }
      | .portCompression port =>
        { p with noComp := if value = 0 then (if p.noComp.contains port then p.noComp else p.noComp ++ [port])
                           else p.noComp.filter (fun x => x != port) } }

end Sys2Proof.Machine
end

