-- ==== Sys2Proof/Machine/Control.lean ====
section
/-! DEFINITION. Control transfers and follow mode (spec 04 R113 to R119). -/

namespace Sys2Proof.Machine

/-- The next program counter when a branch is decided (R113). -/
def State.branch (s : State) (c : Ctx) (taken : Bool) (off : Int) : State :=
  if taken then s.goTo c.core (c.target off) else s.advance c

/-- R115: form K. -/
def branchOne (op : Op) (w : Bundle) (s : State) (g : Word → Bool) : Out :=
  bundle op w s (fun c s => s.branch c (g c.xa) (immI w))

/-- R116: form C. -/
def branchTwo (op : Op) (w : Bundle) (s : State) (g : Word → Word → Bool) : Out :=
  bundle op w s (fun c s => s.branch c (g c.xa c.xb) (immC w))

def execB (w : Bundle) (s : State) : Out := bundle .b w s (fun c s => s.branch c true (immJ w))

/-- R114: x7 is the link register. -/
def execCall (w : Bundle) (s : State) : Out :=
  bundle .call w s (fun c s => (s.modTop c.core (fun f => f.xSet 7 (BitVec.ofNat 64 c.next))).branch c true (immJ w))
def execRet (w : Bundle) (s : State) : Out := bundle .ret w s (fun c s => s.goTo c.core (c.f.xGet 7).toNat)
def execJr (w : Bundle) (s : State) : Out := bundle .jr w s (fun c s => s.goTo c.core c.xa.toNat)

def execBz (w : Bundle) (s : State) : Out := branchOne .bz w s (fun a => a == 0#64)
def execBnz (w : Bundle) (s : State) : Out := branchOne .bnz w s (fun a => a != 0#64)
def execBeq (w : Bundle) (s : State) : Out := branchTwo .beq w s (fun a b => a == b)
def execBne (w : Bundle) (s : State) : Out := branchTwo .bne w s (fun a b => a != b)
def execBlt (w : Bundle) (s : State) : Out := branchTwo .blt w s (fun a b => decide (a.toInt < b.toInt))
def execBge (w : Bundle) (s : State) : Out := branchTwo .bge w s (fun a b => decide (b.toInt ≤ a.toInt))
def execBltn (w : Bundle) (s : State) : Out := branchTwo .bltn w s (fun a b => decide (a.toNat < b.toNat))

/-- R117: the count goes down, and the branch is taken while it is not 0. -/
def execLoop (w : Bundle) (s : State) : Out :=
  bundle .loop w s (fun c s =>
    (s.modTop c.core (fun f => f.xSet (fieldA w) (c.xa - 1#64))).branch c (c.xa - 1#64 != 0#64) (immI w))

/-! Follow mode (R118, R119, R121). -/

/-- R119: the waiting followers of stream n attach, with the bundle after the leader's `lead` as their next; one that an arrival pre-empts in the same
cycle, or whose 256 cycles have passed, does not. -/
def State.attachFollowers (s : State) (tile n pc : Nat) : State :=
  (List.range 8).foldl (fun s i =>
    let k := 8 * tile + i
    match (s.core k).follow with
    | .waiting m since =>
      if m = n && (s.core k).candidate.isNone && decide (s.cycle < since + 256) then
        s.modCore k (fun c =>
          { c.dropLatches with follow := .attached n [], frames := modHead (fun f => { f with pc := pc, follows := none }) c.frames })
      else s
    | _ => s) s

/-- R118: core 0 of a tile opens a stream; no effect on the others. -/
def execLead (w : Bundle) (s : State) : Out :=
  bundle .lead w s (fun c s =>
    let n := (immJ w).toNat
    if c.core % 8 = 0 then
      (((s.closeStream c.core).attachFollowers (tileOf c.core) n c.next).modCore c.core
        (fun k => { k with follow := .leading n })).advance c
    else s.advance c)

/-- R118, R119: cores 1 to 7 wait for the stream; the bundle completes by the leader's `lead`, a time-out or a pre-emption. -/
def execFollow (w : Bundle) (s : State) : Out :=
  bundle .follow w s (fun c s =>
    if c.core % 8 = 0 then s.advance c
    else
      match (s.core c.core).follow with
      | .waiting _ _ => s
      | _ =>
        s.modCore c.core (fun k =>
          { k with follow := .waiting (immJ w).toNat s.cycle, frames := modHead (fun f => { f with follows := some c.next }) k.frames }))

/-- R119: after 256 cycles without the leader's `lead` the follower goes on alone. -/
def execFollowTimeout (core : Nat) (s : State) : Out :=
  match (s.core core).follow with
  | .waiting _ since =>
    event (if since + 256 ≤ s.cycle ∧ s.stilled core = false then
      s.modCore core (fun c =>
        { c with follow := .free, frames := modHead (fun f => { f with pc := f.follows.getD f.pc, follows := none }) c.frames })
    else s)
  | _ => event s

/-- R121: a follower that holds 8 unexecuted bundles goes on by its own fetch. -/
def Core.overrun (c : Core) : Core :=
  match c.follow with
  | .attached _ fwd => if 8 ≤ fwd.length then c.detach else c
  | _ => c

def execFollowerOverrunDetach (core : Nat) (s : State) : Out := event (s.modCore core Core.overrun)

/-- R118: core 0 closes its stream. -/
def execDetach (w : Bundle) (s : State) : Out := bundle .detach w s (fun c s => (s.closeStream c.core).advance c)

end Sys2Proof.Machine
end

