-- ==== Sys2Proof/Machine/Ending.lean ====
section
/-! DEFINITION. `end` (spec 07 R211; 09 R253; 07 R200; 11 R333), and the undefined encodings of 03 R88. -/

namespace Sys2Proof.Machine

/-- R200: at the `end` of an `ahnd` handler the word takes x5, and x6 goes back to the requester. -/
def State.ahndEnded (s : State) (f : Frame) (op : Nat) : State :=
  match kget s.ops op with
  | none => s
  | some o =>
    match o.elems.head? with
    | some e =>
      match e.loc with
      | .global policy home pa =>
        let u := s.useLine policy home (pa / 64) o.nt
        let t := u.writeHome policy home pa (leBytes (f.xGet 5).toNat 8)
        (((u.settleAccess t op o e).sendReply op o e).noteRelease op o e).modOp op (fun o => { o.finish e.ix (f.xGet 6).toNat with handler := none })
      | .array _ _ => s
    | none => s

/-- What the end of a frame means to what started it. -/
def State.endedFor (s : State) (core : Nat) (f : Frame) : State :=
  match f.kind with
  | .userAtomic op => s.ahndEnded f op
  | .collective coll block => s.handlerEnded core f coll block
  | _ => s

/-- The end of a task's frame: its pending descriptor is released, and the frame is popped. -/
def State.endFrame (s : State) (core : Nat) (f : Frame) : State :=
  let s := match f.pending with | some d => s.release core f.ltag f.item d (s.unperformed core) | none => s
  (s.endedFor core f).pop core

/-- R211: its vector bundles complete first (05 R137), and home-side faults are raised before it (R197). -/
def execEndTask (w : Bundle) (s : State) : Out :=
  bundle .endTask w s (fun c s =>
    match c.f.claims with
    | x :: _ => s.exact c.core .claim (BitVec.ofNat 64 x.res)
    | [] =>
      if !c.f.lv.vq.isEmpty then s
      else
        match s.faultedOp c.core c.f.task (fun _ => true) with
        | some id => s.raiseHome c.core id
        | none => if c.f.isTrapHandler then s.trapReturn c.core true else s.endFrame c.core c.f)

/-- R88: words that are no legal bundle raise ILLEGAL at the running frame; `epc` is the first word. -/
def execReservedEncoding (_bad : BadBundle) (s : State) : Out :=
  match s.running with
  | none => event s
  | some f => event (if f.mig.isSome then s else s.exact s.cur .illegal 0#64)

end Sys2Proof.Machine
end

