-- ==== Sys2Proof/Machine/Vector.lean ====
section
/-! DEFINITION. Vector bundles on registers, predicates and channels (spec 05 R139 to R153, R158), one meaning per instruction. Each
computes its results at dispatch; they are written when the bundle completes (R137). -/

namespace Sys2Proof.Machine

/-- A vector bundle whose predicate acts on its elements (R134). -/
def vecElem (op : Op) (w : Bundle) (s : State) (g : Ctx → VRes) : Out :=
  bundle op w s (fun c s => s.dispatchV c (g c))

/-- A vector bundle whose predicate acts on it as a whole (R134). -/
def vecWhole (op : Op) (w : Bundle) (s : State) (g : Ctx → VRes) : Out :=
  bundle op w s (fun c s => s.dispatchV c (if c.active then g c else VRes.nothing))

/-- The type and delivery of a bundle. -/
def Ctx.ty (c : Ctx) : Nat := typeOf c.op c.w
def Ctx.bits (c : Ctx) : Nat := typeBits c.ty
def Ctx.ctl (c : Ctx) : RoundCtl := ctlOf c.f.lv.rmode
def Ctx.mask (c : Ctx) : Word := c.f.predicate c.w
def Ctx.vdst (c : Ctx) : VReg := c.f.vGet (fieldA c.w)
def Ctx.vs2 (c : Ctx) : VReg := c.f.vGet (twoSources c.w).1
def Ctx.vt2 (c : Ctx) : VReg := c.f.vGet (twoSources c.w).2
def Ctx.vb (c : Ctx) : VReg := c.f.vGet (fieldB c.w)
def Ctx.vc (c : Ctx) : VReg := c.f.vGet (fieldC c.w)

/-- The result register a with the active elements computed. -/
def Ctx.elems (c : Ctx) (g : Nat → Nat × Flags) : VRes :=
  let r := mapActive c.bits c.mask c.vdst g
  VRes.of [.v (fieldA c.w) r.v] r.fl

/-- Element i of the two sources. -/
def Ctx.s2 (c : Ctx) (i : Nat) : Nat := vElem c.bits c.vs2 i
def Ctx.t2 (c : Ctx) (i : Nat) : Nat := vElem c.bits c.vt2 i

/-- Two sources, floating point (R139). -/
def vecF2 (op : Op) (w : Bundle) (s : State) (g : Elem2) : Out :=
  vecElem op w s (fun c => c.elems (fun i => g (fmtOfType c.ty) c.ctl (c.s2 i) (c.t2 i)))

/-- One source, floating point (R139). -/
def vecF1 (op : Op) (w : Bundle) (s : State) (g : Elem1) : Out :=
  vecElem op w s (fun c => c.elems (fun i => g (fmtOfType c.ty) c.ctl (vElem c.bits c.vb i)))

/-- The destination and two sources, floating point (R140). -/
def vecF3 (op : Op) (w : Bundle) (s : State) (g : Elem3) : Out :=
  vecElem op w s (fun c => c.elems (fun i =>
    g (fmtOfType c.ty) c.ctl (vElem c.bits c.vdst i) (vElem c.bits (c.f.vGet (threeSources w).1) i)
      (vElem c.bits (c.f.vGet (threeSources w).2) i)))

/-- Two sources, element values. -/
def vecN2 (op : Op) (w : Bundle) (s : State) (g : Ctx → Nat → Nat → Nat × Flags) : Out :=
  vecElem op w s (fun c => c.elems (fun i => g c (c.s2 i) (c.t2 i)))

/-- A value with no flag. -/
def quiet (n : Nat) : Nat × Flags := (n, flNone)

def execVadd (w : Bundle) (s : State) : Out := vecF2 .vadd w s fAdd
def execVaddP1 (w : Bundle) (s : State) : Out := vecF2 .vaddP1 w s fAdd
def execVsub (w : Bundle) (s : State) : Out := vecF2 .vsub w s fSub
def execVmul (w : Bundle) (s : State) : Out := vecF2 .vmul w s fMul
def execVmulP1 (w : Bundle) (s : State) : Out := vecF2 .vmulP1 w s fMul
def execVdiv (w : Bundle) (s : State) : Out := vecF2 .vdiv w s fDiv
def execVmin (w : Bundle) (s : State) : Out := vecN2 .vmin w s (fun c a b => minMaxElem c.ty c.ctl false a b)
def execVmax (w : Bundle) (s : State) : Out := vecN2 .vmax w s (fun c a b => minMaxElem c.ty c.ctl true a b)
def execVabs (w : Bundle) (s : State) : Out :=
  vecElem .vabs w s (fun c => c.elems (fun i => quiet (absElem c.ty (vElem c.bits c.vb i))))
def execVneg (w : Bundle) (s : State) : Out :=
  vecElem .vneg w s (fun c => c.elems (fun i => quiet (negElem c.ty (vElem c.bits c.vb i))))
def execVsqrt (w : Bundle) (s : State) : Out := vecF1 .vsqrt w s fSqrt
def execVrcp (w : Bundle) (s : State) : Out := vecF1 .vrcp w s fRcp
def execVrsq (w : Bundle) (s : State) : Out := vecF1 .vrsq w s fRsq
def execVexp2 (w : Bundle) (s : State) : Out := vecF1 .vexp2 w s fExp2
def execVlog2 (w : Bundle) (s : State) : Out := vecF1 .vlog2 w s fLog2
def execVtanh (w : Bundle) (s : State) : Out := vecF1 .vtanh w s fTanh

def execVfma (w : Bundle) (s : State) : Out := vecF3 .vfma w s fFma
def execVfmaP1 (w : Bundle) (s : State) : Out := vecF3 .vfmaP1 w s fFma
def execVfms (w : Bundle) (s : State) : Out := vecF3 .vfms w s fFms
def execVfnma (w : Bundle) (s : State) : Out := vecF3 .vfnma w s fFnma

/-- R141: the option m[5]. -/
def Ctx.opt (c : Ctx) : Bool := modOpt c.w % 2 == 1

def execViadd (w : Bundle) (s : State) : Out :=
  vecN2 .viadd w s (fun c a b => finInt c.ty c.opt (readInt c.ty a + readInt c.ty b))
def execVisub (w : Bundle) (s : State) : Out :=
  vecN2 .visub w s (fun c a b => finInt c.ty c.opt (readInt c.ty a - readInt c.ty b))
def execVimul (w : Bundle) (s : State) : Out :=
  vecN2 .vimul w s (fun c a b =>
    let p := readInt c.ty a * readInt c.ty b
    quiet (wrapInt (if c.opt then Int.fdiv p (2 ^ c.bits : Nat) else p) c.bits))
def execVimad (w : Bundle) (s : State) : Out :=
  vecElem .vimad w s (fun c => c.elems (fun i =>
    finInt c.ty c.opt (readInt c.ty (vElem c.bits (c.f.vGet (threeSources w).1) i) *
      readInt c.ty (vElem c.bits (c.f.vGet (threeSources w).2) i) + readInt c.ty (vElem c.bits c.vdst i))))

def execVand (w : Bundle) (s : State) : Out := vecN2 .vand w s (fun _ a b => quiet (a &&& b))
def execVor (w : Bundle) (s : State) : Out := vecN2 .vor w s (fun _ a b => quiet (a ||| b))
def execVxor (w : Bundle) (s : State) : Out := vecN2 .vxor w s (fun _ a b => quiet (a ^^^ b))
def execVshl (w : Bundle) (s : State) : Out := vecN2 .vshl w s (fun c a b => quiet (a * 2 ^ (b % c.bits) % 2 ^ c.bits))
def execVshr (w : Bundle) (s : State) : Out := vecN2 .vshr w s (fun c a b => quiet (a / 2 ^ (b % c.bits)))
def execVsar (w : Bundle) (s : State) : Out :=
  vecN2 .vsar w s (fun c a b => quiet (wrapInt (Int.fdiv (sextNat a c.bits) (2 ^ (b % c.bits) : Nat)) c.bits))

/-- R143. -/
def execVcmp (w : Bundle) (s : State) : Out :=
  vecElem .vcmp w s (fun c =>
    let r := vcmpBits c.ty (modOpt w) c.ctl c.mask c.vb c.vc
    VRes.of [.k (fieldA w) r.1] r.2)

/-- R144: the mask register is m[7:5]. -/
def execVsel (w : Bundle) (s : State) : Out :=
  vecElem .vsel w s (fun c => c.elems (fun i =>
    quiet (vElem c.bits (if (c.f.kGet (modOpt w % 8)).getLsbD i then c.vb else c.vc) i)))

/-! Moves (R145, R146). -/

def execVbcast (w : Bundle) (s : State) : Out :=
  vecElem .vbcast w s (fun c => c.elems (fun _ => quiet (c.xb.toNat % 2 ^ c.bits)))

def execVext (w : Bundle) (s : State) : Out :=
  vecWhole .vext w s (fun c =>
    let x := vElem c.bits c.vb (c.xc.toNat % vLen c.bits)
    VRes.of [.x (fieldA w) (if isSignedType c.ty then wordOfInt (sextNat x c.bits) else BitVec.ofNat 64 x)] flNone)

def execVins (w : Bundle) (s : State) : Out :=
  vecWhole .vins w s (fun c =>
    VRes.of [.v (fieldA w) (vSplice c.bits c.vdst (c.xc.toNat % vLen c.bits) [c.xb.toNat % 2 ^ c.bits])] flNone)

def execVperm (w : Bundle) (s : State) : Out :=
  vecElem .vperm w s (fun c => c.elems (fun i => quiet (vElem c.bits c.vs2 (c.t2 i % vLen c.bits))))

def execVslide (w : Bundle) (s : State) : Out :=
  vecElem .vslide w s (fun c => c.elems (fun i => quiet (vslideElem c.bits c.vb c.xc.toInt i)))

def execVzip (w : Bundle) (s : State) : Out :=
  vecElem .vzip w s (fun c => c.elems (fun i => quiet (vzipElem c.bits c.opt c.vs2 c.vt2 i)))

def execVunzip (w : Bundle) (s : State) : Out :=
  vecElem .vunzip w s (fun c => c.elems (fun i => quiet (vunzipElem c.bits c.opt c.vs2 c.vt2 i)))

/-! Conversions (R147 to R150). -/

/-- R58: whether the bundle uses stochastic rounding: `rmode.sr`, with a destination format that has it. -/
def Ctx.stoch (c : Ctx) (f : FFmt) : Bool := srOf c.f.lv.rmode && f.stochastic

/-- A conversion that may use stochastic rounding: it waits while an earlier one of its level has not written `srst` back. -/
def vecConv (op : Op) (w : Bundle) (s : State) (fmt : Option FFmt) (whole : Bool) (g : Ctx → Bool → VRes) : Out :=
  bundle op w s (fun c s =>
    let sr : Bool := match fmt with | some f => c.stoch f | none => false
    if sr && s.srstBusy c.core c.f then s
    else if whole && !c.active then s.dispatchV c VRes.nothing
    else
      let r := g c sr
      s.dispatchV c { r with srst := if sr then r.srst else none })

def execVcvt (w : Bundle) (s : State) : Out :=
  vecConv .vcvt w s (if isFloatType (vcvtDst w) then some (fmtOfType (vcvtDst w)) else none) false (fun c sr =>
    let r := vcvtReg (vcvtSrc w) (vcvtDst w) (fieldC w) c.ctl sr c.f.lv.srst c.mask c.vdst c.vb
    { VRes.of [.v (fieldA w) r.v] r.fl with srst := some r.srst })

/-- A byte of a word replaced. -/
def putByte (v : Word) (i b : Nat) : Word :=
  BitVec.ofNat 64 (packNat 8 ((List.range 8).map (fun j => if j = i then b else field v (8 * j + 7) (8 * j))))

def execVqnt (w : Bundle) (s : State) : Out :=
  vecConv .vqnt w s (some (blockFmt (modType w))) true (fun c sr =>
    let p := modOpt w / 4 % 4
    let r := vqntReg (modType w) (modOpt w % 4) p c.ctl sr c.f.lv.srst c.vdst c.vb (c.f.vGet (fieldB w + 1))
    { VRes.of [.v (fieldA w) r.v, .x (fieldC w) (putByte c.xc p r.scale)] r.fl with srst := some r.srst })

def execVdqnt (w : Bundle) (s : State) : Out :=
  vecConv .vdqnt w s (some (fmtOfType (modType w))) true (fun c sr =>
    let p := modOpt w / 4 % 4
    let r := vdqntVals (modType w) (modOpt w % 4) p (field c.xc (8 * p + 7) (8 * p)) c.ctl sr c.f.lv.srst c.vb
    let n := typeBits (modType w)
    let writes : List RegWrite :=
      if modType w = 10 then [.v (fieldA w) (vPack n (r.1.take 16)), .v (fieldA w + 1) (vPack n (r.1.drop 16))]
      else [.v (fieldA w) (vPack n r.1)]
    { VRes.of writes r.2.1 with srst := some r.2.2 })

def execVbpn (w : Bundle) (s : State) : Out := vecWhole .vbpn w s (fun c => VRes.of [.v (fieldA w) (vbpnReg c.vb)] flNone)

/-- R150: m[8:5] holds q, with 0 read as 8, and m[9] `cent`. -/
def execVbpj (w : Bundle) (s : State) : Out :=
  vecWhole .vbpj w s (fun c =>
    let q := modOpt w % 16
    VRes.of [.v (fieldA w) (vbpjReg (if q = 0 then 8 else q) (bitOf (modOpt w) 4) c.vb)] flNone)

/-! Reductions and scans (R151, R152). -/

def vecRed (op : Op) (w : Bundle) (s : State) (k : Nat) : Out :=
  vecElem op w s (fun c =>
    let r := vredReg c.ty k c.ctl c.mask c.vb
    VRes.of [.v (fieldA w) r.v] r.fl)

def execVredsum (w : Bundle) (s : State) : Out := vecRed .vredsum w s 0
def execVredmax (w : Bundle) (s : State) : Out := vecRed .vredmax w s 1
def execVredmin (w : Bundle) (s : State) : Out := vecRed .vredmin w s 2

def execVscan (w : Bundle) (s : State) : Out :=
  vecElem .vscan w s (fun c =>
    let r := vscanReg c.ty (modOpt w) c.ctl c.mask c.vdst c.vb
    VRes.of [.v (fieldA w) r.v] r.fl)

/-! Channel-source forms (R153). -/

/-- The data words at the head of a channel, at most 8. -/
def headWords (q : List (Word × Bool)) : List Word := ((q.takeWhile (fun e => !e.2)).take 8).map (·.1)

/-- Step 1 of R153: 8 data words, or an end word after fewer. -/
def chanReady (q : List (Word × Bool)) : Bool :=
  (headWords q).length == 8 || (q.drop (headWords q).length).any (·.2)

/-- What a channel form computes and consumes when it completes (R153 steps 2 to 5): the register, flags, the status word and the
channel's queue after it. -/
def chanStep (op : Op) (ty : Nat) (ctl : RoundCtl) (mask : Word) (d : VReg) (q : List (Word × Bool)) :
    VecOut × Word × List (Word × Bool) :=
  let words := headWords q
  let n := words.length
  let rest := q.drop n
  let ends : Bool := match rest with | (_, e) :: _ => e | [] => false
  let bits := typeBits ty
  let per := 64 / bits
  let r := mapActive bits mask d (fun i =>
    if i < per * n then
      let elem := (words.getD (i / per) 0#64).toNat / 2 ^ (bits * (i % per)) % 2 ^ bits
      match op with
      | .vchadd => redElem ty 0 ctl (vElem bits d i) elem
      | .vchmax => redElem ty 1 ctl (vElem bits d i) elem
      | _ => quiet elem
    else quiet (vElem bits d i))
  (r, BitVec.ofNat 64 (n + (if ends then 2 ^ 63 else 0)), if ends then rest.drop 1 else rest)

/-- R153: the bundle stalls until the channel holds enough; it consumes and computes when it completes. DESIGN CHOICE: `eaddr` of ABSENT for an unbound
channel is the channel number; 15 R411 names an address, an offset or a selector only (log entry 7). -/
def vecChan (op : Op) (w : Bundle) (s : State) : Out :=
  bundle op w s (fun c s =>
    let ch := fieldB w
    match s.chanFault c.core c.f.level ch with
    | some cause => s.exact c.core cause (if cause = .absent then BitVec.ofNat 64 ch else 0#64)
    | none =>
      let q := ((kget (s.core c.core).chans ch).map (·.q)).getD []
      let queued := c.f.lv.vq.any (fun e => match e.chan with | some (_, b) => fieldB b == ch | none => false)
      if s.chanBusy c.core c.f ch || queued || !chanReady q then s
      else s.dispatchV c { VRes.nothing with chan := true })

def execVchadd (w : Bundle) (s : State) : Out := vecChan .vchadd w s
def execVchmax (w : Bundle) (s : State) : Out := vecChan .vchmax w s
def execVchst (w : Bundle) (s : State) : Out := vecChan .vchst w s

/-! Predicates (R158). -/

def vecK2 (op : Op) (w : Bundle) (s : State) (g : Word → Word → Word) : Out :=
  vecWhole op w s (fun c => VRes.of [.k (fieldA w) (g (c.f.kGet (twoSources w).1) (c.f.kGet (twoSources w).2))] flNone)

def execKand (w : Bundle) (s : State) : Out := vecK2 .kand w s (fun a b => a &&& b)
def execKor (w : Bundle) (s : State) : Out := vecK2 .kor w s (fun a b => a ||| b)
def execKxor (w : Bundle) (s : State) : Out := vecK2 .kxor w s (fun a b => a ^^^ b)
def execKnot (w : Bundle) (s : State) : Out :=
  vecWhole .knot w s (fun c => VRes.of [.k (fieldA w) (~~~(c.f.kGet (fieldB w)))] flNone)
def execKpopc (w : Bundle) (s : State) : Out :=
  vecWhole .kpopc w s (fun c =>
    VRes.of [.x (fieldA w) (BitVec.ofNat 64 ((List.range 64).filter (fun i => (c.f.kGet (fieldB w)).getLsbD i)).length)] flNone)
def execKmov (w : Bundle) (s : State) : Out :=
  vecWhole .kmov w s (fun c =>
    match modOpt w with
    | 0 => VRes.of [.k (fieldA w) (c.f.kGet (fieldB w))] flNone
    | 1 => VRes.of [.k (fieldA w) c.xb] flNone
    | _ => VRes.of [.x (fieldA w) (c.f.kGet (fieldB w))] flNone)
def execKffs (w : Bundle) (s : State) : Out :=
  vecWhole .kffs w s (fun c =>
    VRes.of [.x (fieldA w) (BitVec.ofNat 64 ((firstBelow (fun i => (c.f.kGet (fieldB w)).getLsbD i) 64).getD 64))] flNone)

end Sys2Proof.Machine
end

