-- ==== Sys2Proof/Machine/VecComplete.lean ====
section
/-! DEFINITION. Completion of vector bundles (spec 05 R137, R138, R153, R157; 01 R42), and what a late fault discards (R137, 06
R171). -/

namespace Sys2Proof.Machine

/-- The CPRING entry of a bundle changed (01 R42). -/
def Core.markRing (c : Core) (seq : Nat) (g : CpEntry → CpEntry) : Core :=
  { c with cpring := c.cpring.map (fun e => if e.seq = seq then g e else e) }

/-- An operation of a discarded bundle gone, with its counter lowered. -/
def State.cancelOp (s : State) (id : Nat) : State :=
  match kget s.ops id with
  | some o => (s.lowerFor o).dropOp id
  | none => s

/-- R137: what a job has written and taken from its channel, as far as nothing else has written there since, stands again as before it. -/
def State.undoJob (s : State) (core : Nat) (j : Job) : State :=
  let s := s.modTile (tileOf core) (fun t =>
    { t with array := j.undoBytes.foldl (fun m u => if memGet m u.1 = u.2.2 then memSet m u.1 u.2.1 else m) t.array,
             acc := j.undoRows.foldl (fun m u => if kgetD m u.1 0#32 = u.2.2 then kset m u.1 u.2.1 else m) t.acc })
  s.modCore core (fun c =>
    match kget c.chans (fieldB j.word) with
    | some ch => if j.undoWords.isEmpty then c else { c with chans := kset c.chans (fieldB j.word) { ch with q := j.undoWords ++ ch.q } }
    | none => c)

/-- R137, 06 R171: every vector bundle and job of a level dispatched after a faulting one and not completed is discarded with no effect. DESIGN CHOICE: those of the
faulting bundle's own task; and the successor descriptor that a discarded job consumed is dropped with it, since 07 R207 makes it pending again only at the
job's own trap (log entry 7). -/
def State.flushLater (s : State) (core level task stamp : Nat) : State :=
  let key := 8 * core + level
  let vq := ((s.frameOf core task).map (·.lv.vq)).getD []
  let dead := vq.filter (fun e => decide (stamp < e.stamp))
  let jobs := if isCompute core then kgetD (s.tile (tileOf core)).queues key [] else []
  let gone (j : Job) : Bool := j.task == task && decide (stamp < j.stamp)
  let deadJobs := jobs.filter gone
  let s := dead.foldl (fun s e => match e.op with | some id => s.cancelOp id | none => s) s
  let s :=
    if deadJobs.isEmpty then s
    else (deadJobs.foldl (fun s j => s.undoJob core j) s).modTile (tileOf core) (fun t =>
      { t with queues := kset t.queues key (jobs.filter (fun j => !gone j)) })
  let s := s.modTask core task (fun f => f.modLv (fun l =>
    { l with vq := l.vq.filter (fun e => !decide (stamp < e.stamp)),
             tlc := l.tlc - deadJobs.length }))
  s.modCore core (fun c =>
    (dead.map (·.seq) ++ deadJobs.map (·.seq)).foldl (fun c q => c.markRing q (fun e => { e with disc := true })) c)

/-- The address of a late fault's bundle and the fault noted on its frame; later bundles are discarded (R137). -/
def State.noteLate (s : State) (core level task seq : Nat) (l : LateFault) : State :=
  let s := s.flushLater core level task l.stamp
  let s := s.modTask core task (fun f => { f with late := f.late ++ [l] })
  s.modCore core (fun c => c.markRing seq (fun e => { e with flt := true }))

/-- The head of a level's vector queue taken off. -/
def Frame.dropVq (f : Frame) : Frame := f.modLv (fun l => { l with vq := l.vq.drop 1 })

/-- The late fault of a vector bundle. -/
def VEntry.late (e : VEntry) (cause : Cause) (eaddr : Word) : LateFault :=
  { cause := cause, pc := e.pc, eaddr := eaddr, eseq := 0x10000 + e.seq, stamp := e.stamp, restore := none }

/-- Results, flags and stochastic state of a vector bundle written to its frame. -/
def Frame.retire (f : Frame) (writes : List RegWrite) (fl : Flags) (srst : Option Nat) : Frame :=
  let f := (writes.foldl Frame.apply f).orFlags fl
  match srst with | some v => f.modLv (fun l => { l with srst := v }) | none => f

/-- The vector registers that a bundle writes invalidate latches of the top frame (01 R30). -/
def Core.dropWritten (c : Core) (task : Nat) (writes : List RegWrite) : Core :=
  if (c.frames.head?.map (·.task)) = some task then
    writes.foldl (fun c r => match r with | .v n _ => c.dropLatch n | _ => c) c
  else c

/-- A vector bundle completes without a fault found in execution: its results and flags are written, and FPX is noted when a flag of it
is enabled by `fpen` as it stood at dispatch (01 R34: a `setc` affects later bundles only). -/
def State.completeV (s : State) (core level task : Nat) (e : VEntry) (writes : List RegWrite) (fl : Flags) : State :=
  let s := s.modTask core task (fun f => (f.retire writes fl e.srst).dropVq)
  let s := s.modCore core (fun c => c.dropWritten task writes)
  if enables e.fpen fl then s.noteLate core level task e.seq (e.late .fpx 0#64)
  else s.modCore core (fun c => c.markRing e.seq (fun x => { x with done := true }))

/-- What the elements of a vector load leave in a register (05 R134, R154). -/
def loadedReg (ty : Nat) (d : VReg) (elems : List Elem) : VReg :=
  let bits := typeBits ty
  vPack bits ((List.range (vLen bits)).map (fun i =>
    match elems.find? (fun e => e.ix == i) with | some e => e.got | none => vElem bits d i))

/-- The channel form at the head of a queue executed (R153): its channel's queue after it. -/
def State.completeChan (s : State) (core level : Nat) (f : Frame) (e : VEntry) (op : Op) (w : Bundle) : State :=
  match kget (s.core core).chans (fieldB w) with
  | none => s.completeV core level f.task e [] flNone
  | some ch =>
    let r := chanStep op (typeOf op w) (ctlOf e.rmode) (f.predicate w) (f.vGet (fieldA w)) ch.q
    let s := s.modCore core (fun c => { c with chans := kset c.chans (fieldB w) { ch with q := r.2.2 } })
    s.completeV core level f.task e [.v (fieldA w) r.1.v, .x (fieldC w) r.2.1] r.1.fl

/-- A memory bundle at the head of a queue: it completes when all its elements have been performed (a load when the reply and what its acquire awaits have
come too, 10 R284, R299), or faults at its lowest-numbered faulting
element (R157). -/
def State.completeMem (s : State) (core level : Nat) (f : Frame) (e : VEntry) (id : Nat) : State :=
  match kget s.ops id with
  | none => s.completeV core level f.task e [] flNone
  | some o =>
    let va := BitVec.ofNat 64 (((o.elems.find? (fun x => x.bad.isSome)).map (·.va)).getD 0)
    match o.fault with
    | some .ecc =>
      if (s.top core).map (·.task) = some f.task then (s.cancelOp id).discard core failedEcc 0 (BitVec.ofNat 64 e.pc) va else s
    | some k =>
      let s := (s.cancelOp id).modTask core f.task Frame.dropVq
      s.noteLate core level f.task e.seq (e.late (if k = .perm then .perm else .absent) va)
    | none =>
      if !o.performed then s
      else
        match o.dest with
        | .vector n ty =>
          if s.afterDone o.behind && !s.replyOut id then
            ((s.completeV core level f.task e [.v n (loadedReg ty (f.vGet n) o.elems)] flNone).lowerFor o).dropOp id
          else s
        | _ => s.completeV core level f.task e [] flNone

/-- R137: the oldest vector bundle of a level completes. -/
def execVectorBundleCompletion (core level : Nat) (s : State) : Out :=
  match s.frameAt core level with
  | none => event s
  | some f =>
    match f.lv.vq with
    | [] => event s
    | e :: _ =>
      match e.fault, e.op, e.chan with
      | some (cause, a), _, _ =>
        event ((s.modTask core f.task Frame.dropVq).noteLate core level f.task e.seq (e.late cause a))
      | none, some id, _ => event (s.completeMem core level f e id)
      | none, none, some (op, w) => event (s.completeChan core level f e op w)
      | none, none, none => event (s.completeV core level f.task e e.writes e.fl)

end Sys2Proof.Machine
end

