-- ==== Sys2Proof/Machine/Matrix.lean ====
section
/-! DEFINITION. Page-3 jobs (spec 06 R160 to R192): their dispatch, the engine's turns, start checks, units and completion, and
`mtest`. -/

namespace Sys2Proof.Machine

/-! Dispatch (R161, R169). -/

def queueKey (core level : Nat) : Nat := 8 * core + level

def State.jobsOf (s : State) (core level : Nat) : List Job := kgetD (s.tile (tileOf core)).queues (queueKey core level) []

def State.setJobs (s : State) (core level : Nat) (l : List Job) : State :=
  s.modTile (tileOf core) (fun t => { t with queues := kset t.queues (queueKey core level) l })

/-- Whether a conversion job uses stochastic rounding (02 R58), given its formats at dispatch. -/
def jobStochastic (op : Op) (f : Frame) (xc : Word) : Bool :=
  let small (code : Nat) : Bool := code == 0 || code == 4 || code == 5 || code == 6
  srOf f.lv.rmode &&
    (match op with
     | .mrd => field f.lv.fmtc 3 0 == 2 && small (field f.lv.fmtc 11 9)
     | .rrecon => small (field xc 19 16)
     | _ => false)

def OpHeader.none : OpHeader := { off := 0, base := 0, rows := 0, fmt := 0, planes := 0, span := 0, pstride := 0 }

/-- A job dispatched: it takes a number, a ring entry and the pending descriptor, and counts in `tlc`. -/
def State.dispatchJob (s : State) (c : Ctx) : State :=
  let sr := c.active && jobStochastic c.op c.f c.xc
  if 64 ≤ c.f.lv.tlc || (sr && s.srstBusy c.core c.f) then s
  else
    let after := s.unperformed c.core
    let (succ, s) := s.takePending c.core
    let s := s.modCore c.core (fun k => k.dispatchEntry c.f.level c.f.pc)
    let stamp := s.fresh.1
    let s := s.fresh.2
    let l := c.f.lv
    let j : Job :=
      { op := c.op, word := c.w, seq := (s.core c.core).cseq, stamp := stamp, pc := c.f.pc, task := c.f.task, item := c.f.item,
        ltag := c.f.ltag, xa := c.xa, xb := c.xb, xc := c.xc, active := c.active,
        sampled := { fmta := l.fmta, fmtb := l.fmtb, fmtc := l.fmtc, scla := l.scla, sclb := l.sclb, rmode := l.rmode, fpen := l.fpen },
        hdr := OpHeader.none, acb := c.f.acb, arows := c.f.arows, fsb := c.f.fsb, fscr := c.f.fscr, succ := succ, started := false, unit := 0,
        pos := 0, outPos := 0, units := 0, buf := [], ended := false, finished := false, srst := if sr then some l.srst else none,
        fl := flNone, fault := none, after := after, undoBytes := [], undoRows := [], undoWords := [], accepted := 0 }
    let s := s.setJobs c.core c.f.level (s.jobsOf c.core c.f.level ++ [j])
    (s.modTop c.core (fun f =>
      { f.modLv (fun l => { l with tlc := l.tlc + 1 }) with
          usedPlanes := f.usedPlanes || (c.active && (c.op == .mstat || c.op == .mswap)) })).advance c

def jobBundle (op : Op) (w : Bundle) (s : State) : Out := bundle op w s (fun c s => s.dispatchJob c)

def execMstat (w : Bundle) (s : State) : Out := jobBundle .mstat w s
def execMswap (w : Bundle) (s : State) : Out := jobBundle .mswap w s
def execMstream (w : Bundle) (s : State) : Out := jobBundle .mstream w s
def execMstreamt (w : Bundle) (s : State) : Out := jobBundle .mstreamt w s
def execMf64 (w : Bundle) (s : State) : Out := jobBundle .mf64 w s
def execMbpn4 (w : Bundle) (s : State) : Out := jobBundle .mbpn4 w s
def execMbpn8 (w : Bundle) (s : State) : Out := jobBundle .mbpn8 w s
def execMzero (w : Bundle) (s : State) : Out := jobBundle .mzero w s
def execMrd (w : Bundle) (s : State) : Out := jobBundle .mrd w s
def execMwr (w : Bundle) (s : State) : Out := jobBundle .mwr w s
def execMacs (w : Bundle) (s : State) : Out := jobBundle .macs w s
def execMsac (w : Bundle) (s : State) : Out := jobBundle .msac w s
def execRtab (w : Bundle) (s : State) : Out := jobBundle .rtab w s
def execRank (w : Bundle) (s : State) : Out := jobBundle .rank w s
def execRankch (w : Bundle) (s : State) : Out := jobBundle .rankch w s
def execRstream (w : Bundle) (s : State) : Out := jobBundle .rstream w s
def execRrecon (w : Bundle) (s : State) : Out := jobBundle .rrecon w s

/-- R190: the channel is checked at dispatch (01 R31); a bundle waits for another of its level that uses the channel. -/
def execRstreamch (w : Bundle) (s : State) : Out :=
  bundle .rstreamch w s (fun c s =>
    let ch := fieldB w
    match s.chanFault c.core c.f.level ch with
    | some cause => s.exact c.core cause (if cause = .absent then BitVec.ofNat 64 ch else 0#64)
    | none => if s.chanBusy c.core c.f ch || c.f.chanQueued ch then s else s.dispatchJob c)

/-- R184. -/
def ringStatus (c : Core) (level seq : Nat) : Nat :=
  match c.cpring.find? (fun e => e.seq == seq) with
  | none => 3
  | some e => if e.lvl ≠ level then 3 else if e.flt || e.disc then 2 else if e.done then 1 else 0

def execMtest (w : Bundle) (s : State) : Out :=
  bundle .mtest w s (fun c s =>
    s.writeX c (fieldA w) (BitVec.ofNat 64 (ringStatus (s.core c.core) c.f.level (c.xb.toNat % 65536))))

/-! Scratch regions and headers (R165, R170). -/

/-- A region as a job reaches it: first byte in the tile's array, size, swizzle span. -/
structure Region where
  base : Nat
  size : Nat
  span : Nat
  deriving DecidableEq, Repr

/-- The region that a selector names for a job; a far allocation held in another tile counts as not made (10 R291). -/
def State.jobRegion (s : State) (core : Nat) (j : Job) (sel : Nat) : Option Region :=
  if sel = 15 then some { base := j.fsb, size := j.fscr, span := 6 }
  else
    match s.ctx j.ltag with
    | none => none
    | some c =>
      let e := c.allocEntry (tileOf core) sel
      if bitsOf e 19 10 = 0 ∨ (bitOf e 23 = true ∧ bitsOf e 32 24 ≠ tileOf core) then none
      else some { base := 512 * bitsOf e 9 0, size := 512 * bitsOf e 19 10, span := bitsOf e 22 20 }

/-- The fields of a header (R165). -/
def parseHeader (b : List Byte) : OpHeader :=
  let w0 := leValue (b.take 4)
  let w1 := leValue ((b.drop 4).take 4)
  let w2 := leValue ((b.drop 8).take 4)
  { off := bitsOf w0 18 0, base := bitsOf w0 23 20, rows := bitsOf w1 12 0, fmt := bitsOf w1 19 16,
    planes := if bitsOf w1 23 20 = 0 then 8 else bitsOf w1 23 20, span := bitsOf w1 26 24, pstride := bitsOf w2 18 0 }

/-- A check that fails with a cause and the place it concerns. -/
def check (ok : Bool) (c : Cause) (a : Nat) : Except (Cause × Word) Unit := if ok then .ok () else .error (c, BitVec.ofNat 64 a)

def needRegion (r : Option Region) (a : Nat) : Except (Cause × Word) Region :=
  match r with
  | some r => .ok r
  | none => .error (.absent, BitVec.ofNat 64 a)

/-- n bytes at an offset lie in a region; the first that does not is reported. -/
def inRegion (r : Region) (off n : Nat) : Except (Cause × Word) Unit := check (decide (off + n ≤ r.size)) .window (max off r.size)

/-- The operand offset of a job (R168). -/
def Job.off (j : Job) : Nat := (j.xb + wordOfInt (displacement j.word)).toNat
def Job.fmta (j : Job) : Nat := field j.sampled.fmta 3 0
def Job.fmtb (j : Job) : Nat := field j.sampled.fmtb 3 0
def Job.fmtc (j : Job) : Nat := field j.sampled.fmtc 3 0
def Job.ofmt (j : Job) : Nat := field j.sampled.fmtc 11 9
/-- The plane count of a format register (01 R35). -/
def planesOf (r : Word) : Nat := if field r 7 4 = 0 then 8 else field r 7 4

/-- The count of R180. -/
def Job.count (j : Job) : Nat := if j.xc.toNat % 8192 = 0 then 1 else j.xc.toNat % 8192

/-- Physical rows of a logical row (R180). -/
def Job.rowWidth (j : Job) : Nat := if j.fmtc = 3 then 2 else 1

/-- A scratch address in the layout of 01 R36. -/
def addrSel (v : Word) : Nat := field v 23 20
def addrOff (v : Word) : Nat := field v 18 0

/-- Where xd, xc or `rank` keep an output or tee address: the operand that field a names. -/
def Job.outAddr (j : Job) : Word := if j.op = .rstreamch then BitVec.ofNat 64 (field j.xc 55 32) else j.xa

def State.activePlane (s : State) (core : Nat) : Plane := kgetD (s.tile (tileOf core)).planes (2 * core) Plane.zero
def State.shadowPlane (s : State) (core : Nat) : Plane := kgetD (s.tile (tileOf core)).planes (2 * core + 1) Plane.zero

/-- The pairs of formats of R176. -/
def streamLegal (op : Op) (act : Nat) (p : Plane) (acc : Nat) : Bool :=
  let wide (x : Nat) : Bool := decide (x ≤ 2)
  let small (x : Nat) : Bool := x == 4 || x == 5 || x == 7 || x == 8
  let byte (x : Nat) : Bool := x == 10 || x == 11
  match op with
  | .mf64 => act == 3 && p.fmt == 3 && acc == 3
  | .mbpn4 => byte act && p.fmt == 9 && decide (p.q ≤ 4) && acc == 12
  | .mbpn8 => byte act && p.fmt == 9 && acc == 12
  | _ => (wide act && wide p.fmt && acc == 2) || (small act && small p.fmt && acc == 2) || (byte act && byte p.fmt && acc == 12)

/-- The limits of rows. -/
def maxRows (op : Op) (fmt : Nat) : Nat :=
  match op with
  | .mstat => if fmt = 3 then 32 else 128
  | .mstreamt => 64
  | .mf64 => 256
  | .rank => 4096
  | .rankch => 4096
  | _ => 512

/-- K, log2 N of R186. -/
def Job.k (j : Job) : Nat := field j.xc 7 0
def Job.lgn (j : Job) : Nat := field j.xc 11 8

/-- Check 3 of R170. DESIGN CHOICE: plane counts of 9 to 15, for which 01 R35 gives no q and no cause, fail it, also where `fmtb` and the header agree on one
(log entry 7). -/
def State.headerOk (s : State) (core : Nat) (j : Job) (h : OpHeader) : Bool :=
  decide (1 ≤ h.rows) && decide (h.rows ≤ maxRows j.op h.fmt) && h.span != 7 && (h.fmt != 9 || decide (8 * h.rows ≤ h.pstride)) &&
    (match j.op with
     | .mstat =>
       h.fmt == j.fmtb && decide (h.fmt ≤ 11) && (h.fmt != 9 || (h.planes == planesOf j.sampled.fmtb && decide (h.planes ≤ 8)))
     | .rank => decide (h.fmt ≤ 2) && decide (4 ≤ j.lgn) && decide (j.lgn ≤ 8) && decide (j.k ≤ min (2 ^ j.lgn) 255)
     | .rankch => decide (h.fmt ≤ 2) && decide (4 ≤ j.lgn) && decide (j.lgn ≤ 8) && decide (j.k ≤ min (2 ^ j.lgn) 255)
     | _ => h.fmt == j.fmta && streamLegal j.op j.fmta (s.activePlane core) j.fmtc)

/-- P of R166. -/
def lineBytes (h : OpHeader) : Nat := roundUp (tensorBytes h.fmt h.rows) 16

/-- The bytes of a tensor (R166, R186). -/
def tensorSize (j : Job) (h : OpHeader) : Nat :=
  match j.op with
  | .mstat => if h.fmt = 9 then (h.planes - 1) * h.pstride + 8 * h.rows else h.rows * tensorBytes h.fmt 64
  | .mstreamt => 128 * lineBytes h
  | .mf64 => 256 * h.rows
  | .rank => h.rows * tensorBytes h.fmt (2 ^ j.lgn)
  | .rankch => h.rows * tensorBytes h.fmt (2 ^ j.lgn)
  | _ => h.rows * tensorBytes h.fmt 128

/-- The accumulator rows that a streaming job touches. -/
def streamRows (j : Job) (h : OpHeader) : Nat :=
  match j.op with
  | .mstat => 0
  | .rank => 0
  | .rankch => 0
  | .mf64 => 2 * h.rows
  | _ => h.rows

/-- n rows from a row on lie below the frame's arows; the first that does not is reported (R170). -/
def rowsOk (j : Job) (n : Nat) : Except (Cause × Word) Unit :=
  check (n == 0 || decide (j.xa.toNat + n ≤ j.arows)) .window (max j.xa.toNat j.arows)

/-- The block scales of a job: the address word and how many bytes it reads (R167). -/
def scalesOf (j : Job) (h : OpHeader) : Option (Word × Nat) :=
  match j.op with
  | .mstat => if isMx h.fmt then some (j.sampled.sclb, 256) else none
  | .mstream => if isMx h.fmt then some (j.sampled.scla, 4 * h.rows) else none
  | .mstreamt => if isMx h.fmt then some (j.sampled.scla, 4 * h.rows) else none
  | _ => none

/-- The start of a job with an operand header (R170, first table): the job with its places, or the fault. DESIGN CHOICE: MISALIGN of `rank`'s output address
(R187), which the table does not place, comes after SWIZZLE and before the accumulator rows (log entry 7). -/
def State.startHeader (s : State) (core : Nat) (j : Job) : Except (Cause × Word) Job := do
  let r ← needRegion (s.jobRegion core j (selector j.word)) j.off
  check (j.off % 16 == 0) .misalign j.off
  inRegion r j.off 16
  let h := parseHeader (memGetBytes (s.tile (tileOf core)).array (r.base + j.off) 16)
  check (s.headerOk core j h) .header j.off
  let t ← needRegion (s.jobRegion core j h.base) h.off
  check (h.off % 16 == 0) .misalign h.off
  check (h.span == t.span) .swizzle j.off
  check (j.op != .rank || addrOff j.xa % 4 == 0) .misalign (addrOff j.xa)
  rowsOk j (streamRows j h)
  inRegion t h.off (tensorSize j h)
  let out ←
    match scalesOf j h with
    | some (v, n) => do
      let q ← needRegion (s.jobRegion core j (addrSel v)) (addrOff v)
      inRegion q (addrOff v) n
      pure (q.base + addrOff v)
    | none =>
      if j.op = .rank then do
        let q ← needRegion (s.jobRegion core j (addrSel j.xa)) (addrOff j.xa)
        inRegion q (addrOff j.xa) (h.rows * rankBytes j.k)
        pure (q.base + addrOff j.xa)
      else pure 0
  pure { j with started := true, hdr := h, pos := t.base + h.off, outPos := out, units := if j.op = .mstat then 1 else h.rows }

/-- The parameter limits of the second table of R170. -/
def plainOk (j : Job) : Bool :=
  match j.op with
  | .rtab => true
  | .rstream => j.fmtc == 2
  | .rstreamch => j.fmtc == 2
  | .rrecon => field j.xc 19 16 ∈ [0, 1, 2, 4, 5, 6]
  | .mrd =>
    decide (j.count ≤ 512) && (j.fmtc == 12 || (j.fmtc == 3 && (j.ofmt == 3 || j.ofmt == 2)) || (j.fmtc == 2 && decide (j.ofmt ≤ 6)))
  | _ => decide (j.count ≤ 512) && (j.fmtc == 2 || j.fmtc == 3 || j.fmtc == 12)

/-- The output code of `mrd` (R182). -/
def Job.outCode (j : Job) : Nat := if j.fmtc = 12 then 12 else j.ofmt

/-- The data bytes of a job that are known at its start. -/
def plainBytes (j : Job) : Nat :=
  match j.op with
  | .mrd => j.count * tensorBytes j.outCode 64
  | .mwr => 256 * j.rowWidth * j.count
  | .macs => 256 * j.rowWidth * j.count
  | .msac => 256 * j.rowWidth * j.count
  | .rtab => 514
  | _ => 0

/-- Whether a job reads or writes scratch at its operand address; `mzero` and `rstreamch` do not. -/
def hasData (op : Op) : Bool := op != .mzero && op != .rstreamch && op != .mswap

/-- Whether a job writes to the address of R36 that R187, R189 and R191 give. -/
def Job.hasOut (j : Job) : Bool := j.op == .rrecon || (j.op == .rstreamch && bitOf j.xc.toNat 24)

/-- The start of a job without a header (R170, second table). DESIGN CHOICE: `eaddr` of HEADER, which concerns no header, is the data offset, and 0 for `mzero` and
`rstreamch`; of two places that fail one check the record's or data's is reported before the output's or tee's (log entry 7). -/
def State.startPlain (s : State) (core : Nat) (j : Job) : Except (Cause × Word) Job := do
  let data := if hasData j.op then j.off else 0
  let r ← if hasData j.op then needRegion (s.jobRegion core j (selector j.word)) data else pure { base := 0, size := 0, span := 6 }
  let _ ← if j.hasOut then needRegion (s.jobRegion core j (addrSel j.outAddr)) (addrOff j.outAddr)
          else pure { base := 0, size := 0, span := 6 }
  check (j.op == .mswap || plainOk j) .header data
  let step := if j.op = .rstream ∨ j.op = .rrecon then 4 else 16
  check (data % step == 0) .misalign data
  check (!j.hasOut || addrOff j.outAddr % (if j.op = .rrecon then 16 else 4) == 0) .misalign (addrOff j.outAddr)
  let rows := match j.op with
    | .mzero => j.rowWidth * j.count
    | .mrd => j.rowWidth * j.count
    | .mwr => j.rowWidth * j.count
    | .macs => j.rowWidth * j.count
    | .msac => j.rowWidth * j.count
    | _ => 0
  rowsOk j rows
  inRegion r data (plainBytes j)
  let units := match j.op with
    | .rtab => 1
    | .mswap => 1
    | .rstreamch => 0
    | _ => j.count
  pure { j with started := true, pos := data, outPos := addrOff j.outAddr, units := units }

def hasHeader (op : Op) : Bool :=
  match op with
  | .mstat | .mstream | .mstreamt | .mf64 | .mbpn4 | .mbpn8 | .rank | .rankch => true
  | _ => false

/-- A job with a fault found in it (R170, R171). -/
def Job.fail (j : Job) (c : Cause) (a : Nat) : Job := { j with fault := some (c, BitVec.ofNat 64 a), finished := true }

/-- R170: a job started. One whose predicate is false has no effect (R169). -/
def State.startJob (s : State) (core : Nat) (j : Job) : Job :=
  if !j.active then { j with started := true, finished := true }
  else
    match (if hasHeader j.op then s.startHeader core j else s.startPlain core j) with
    | .ok j => j
    | .error e => { j with fault := some e, finished := true }

/-- R170: the head of a queue starts. -/
def execMatrixJobStart (core level : Nat) (s : State) : Out :=
  match s.jobsOf core level with
  | [] => event s
  | j :: rest =>
    if s.stilled core || j.started || j.finished then event s else event (s.setJobs core level (s.startJob core j :: rest))

/-! Accumulator rows (R179 to R181). -/

/-- The 64 values of a logical row that starts at a physical row. -/
def accRow (t : Tile) (code row : Nat) : List Nat :=
  let at1 (i : Nat) : Nat := (kgetD t.acc i 0#32).toNat
  if code = 3 then (List.range 64).map (fun n => at1 (64 * row + 2 * n) + at1 (64 * row + 2 * n + 1) * 2 ^ 32)
  else (List.range 64).map (fun n => at1 (64 * row + n))

def setAcc (t : Tile) (start : Nat) (l : List Nat) : Tile :=
  { t with acc := (List.range l.length).foldl (fun m i => kset m (start + i) (BitVec.ofNat 32 (l.getD i 0))) t.acc }

def setAccRow (t : Tile) (code row : Nat) (l : List Nat) : Tile :=
  setAcc t (64 * row) (if code = 3 then l.flatMap (fun v => [v % 2 ^ 32, v / 2 ^ 32]) else l)

/-! Units of work (R163). -/

/-- An activation row of a streaming job: codes with their block scales (R166, R167). -/
def actRow (t : Tile) (j : Job) (i : Nat) : List (Nat × Nat) :=
  let h := j.hdr
  let n := if j.op = .mf64 then 32 else 128
  let scale (k : Nat) : Nat := (memGet t.array (j.outPos + 4 * i + k / 32)).toNat
  let row := memGetBytes t.array (j.pos + i * tensorBytes h.fmt n) (if j.op = .mstreamt then 0 else tensorBytes h.fmt n)
  let elem (k : Nat) : Nat :=
    if j.op = .mstreamt then packedElem (memGetBytes t.array (j.pos + k * lineBytes h) (lineBytes h)) h.fmt i else packedElem row h.fmt k
  (List.range n).map (fun k => (elem k, if isMx h.fmt then scale k else 127))

/-- A tile operation (R177 to R179). -/
def streamRow (p : Plane) (j : Job) (acts : List (Nat × Nat)) (old : List Nat) : List (Nat × Flags) :=
  let nums := acts.map (fun a => actNum j.hdr.fmt a.1 a.2)
  match j.fmtc with
  | 12 => tileOpI p (acts.map (fun a => actInt j.hdr.fmt a.1)) old
  | 3 => tileOpF .f64 32 4 p nums old
  | _ => tileOpF .f32 128 (if j.hdr.fmt ≤ 2 then 16 else 32) p nums old

/-- The flags of a unit added to a job, and its unit counted. -/
def Job.next (j : Job) (fl : Flags) : Job := { j with unit := j.unit + 1, fl := j.fl ||| fl, finished := decide (j.units ≤ j.unit + 1) }

/-- A row streamed through the active plane. When an `mswap` of another level has put a plane of another family of formats there, the
row's values are open (log entry 3). -/
def State.unitStream (s : State) (core : Nat) (j : Job) : State × Job :=
  let t := s.tile (tileOf core)
  let p := s.activePlane core
  let row := j.acb + j.xa.toNat + j.rowWidth * j.unit
  if streamLegal j.op j.fmta p j.fmtc then
    let r := streamRow p j (actRow t j j.unit) (accRow t j.fmtc row)
    (s.setTile (tileOf core) (setAccRow t j.fmtc row (r.map (·.1))), j.next (r.foldl (fun f x => f ||| x.2) flNone))
  else
    let l := (List.range (64 * j.rowWidth)).map (fun i => Config.choice s.freeIx i % 2 ^ 32)
    ({ s with freeIx := s.freeIx + 1 }.setTile (tileOf core) (setAcc t (64 * row) l), j.next flNone)

/-- The plane that `mstat` loads (R174). DESIGN CHOICE: a plane stride that is no multiple of 16, for which R165 and R170 give no check, is used as it
stands (log entry 7). -/
def loadPlane (t : Tile) (j : Job) : Plane :=
  let h := j.hdr
  let bpn (i : Nat) : Nat :=
    (List.range h.planes).foldl (fun v p => 2 * v + (bitsOf (memGet t.array (j.pos + p * h.pstride + i / 8)).toNat (i % 8) (i % 8))) 0
  let row (k : Nat) : List Byte := memGetBytes t.array (j.pos + k * tensorBytes h.fmt 64) (tensorBytes h.fmt 64)
  let plain : KMap Nat := (List.range h.rows).flatMap (fun k =>
    let b := row k
    (List.range 64).map (fun n => (64 * k + n, packedElem b h.fmt n)))
  { fmt := h.fmt, q := planesOf j.sampled.fmtb, cent := j.sampled.fmtb.getLsbD 8,
    w := if h.fmt = 9 then (List.range (64 * h.rows)).map (fun i => (i, bpn i)) else plain,
    scales := if isMx h.fmt then (List.range 256).map (fun i => (i, (memGet t.array (j.outPos + i)).toNat)) else [] }

/-- The data rows of `mwr`, `macs`, `msac` and `mrd`: the offset of a job's unit in the array. -/
def State.dataAt (s : State) (core : Nat) (j : Job) (unitBytes : Nat) : Nat :=
  (((s.jobRegion core j (selector j.word)).map (·.base)).getD 0) + j.pos + j.unit * unitBytes

/-- A logical row in scratch, in accumulator format. -/
def scratchRow (t : Tile) (code a : Nat) : List Nat :=
  let n := codeBits code / 8
  (List.range 64).map (fun i => memGetN t.array (a + n * i) n)

def putScratch (t : Tile) (a : Nat) (b : List Byte) : Tile := { t with array := memSetBytes t.array a b }

/-- A logical row moved or added (R181 to R183). -/
def State.unitRow (s : State) (core : Nat) (j : Job) : State × Job :=
  let t := s.tile (tileOf core)
  let row := j.acb + j.xa.toNat + j.rowWidth * j.unit
  let put (t : Tile) : State := s.setTile (tileOf core) t
  let flags (l : List (Nat × Flags)) : Flags := l.foldl (fun f x => f ||| x.2) flNone
  match j.op with
  | .mzero => (put (setAcc t (64 * row) (List.replicate (64 * j.rowWidth) 0)), j.next flNone)
  | .mwr =>
    let a := s.dataAt core j (256 * j.rowWidth)
    (put (setAccRow t j.fmtc row (scratchRow t j.fmtc a)), j.next flNone)
  | .macs =>
    let a := s.dataAt core j (256 * j.rowWidth)
    let r := ((accRow t j.fmtc row).zip (scratchRow t j.fmtc a)).map (fun p => accAdd j.fmtc p.1 p.2)
    (put (setAccRow t j.fmtc row (r.map (·.1))), j.next (flags r))
  | .msac =>
    let a := s.dataAt core j (256 * j.rowWidth)
    let r := ((scratchRow t j.fmtc a).zip (accRow t j.fmtc row)).map (fun p => accAdd j.fmtc p.1 p.2)
    (put (putScratch t a (packElems j.fmtc (r.map (·.1)))), j.next (flags r))
  | _ =>
    let a := s.dataAt core j (tensorBytes j.outCode 64)
    if j.fmtc = 12 ∨ (j.fmtc = 3 ∧ j.ofmt = 3) then (put (putScratch t a (packElems j.fmtc (accRow t j.fmtc row))), j.next flNone)
    else
      let f := fmtOfCode j.ofmt
      let ctl := { ctlOf j.sampled.rmode with ftz := false }
      let r := roundList f ctl j.srst.isSome (j.srst.getD 0) ((accRow t j.fmtc row).map (decodeF (fmtOfCode j.fmtc)))
      (put (putScratch t a (packElems j.ofmt r.1)), { j.next (matFlags r.2.1) with srst := j.srst.map (fun _ => r.2.2) })

/-- `rtab` (R185). -/
def State.unitTable (s : State) (core : Nat) (j : Job) : State × Job :=
  let t := s.tile (tileOf core)
  let a := s.dataAt core j 0
  let n := 512 * j.word.a.toNat
  let old := t.tabs.filter (fun e => decide (e.1 < n) || decide (n + 512 ≤ e.1))
  let new : KMap (BitVec 16) := (List.range 257).map (fun i => (n + i, BitVec.ofNat 16 (memGetN t.array (a + 2 * i) 2)))
  let tabs := (old.filter (fun e => decide (e.1 < n))) ++ new ++ (old.filter (fun e => decide (n ≤ e.1)))
  (s.setTile (tileOf core) { t with tabs := tabs }, j.next flNone)

def State.unitSwap (s : State) (core : Nat) (j : Job) : State × Job :=
  let a := s.activePlane core
  let b := s.shadowPlane core
  (s.modTile (tileOf core) (fun t => { t with planes := kset (kset t.planes (2 * core) b) (2 * core + 1) a }), j.next flNone)

def State.unitStat (s : State) (core : Nat) (j : Job) : State × Job :=
  (s.modTile (tileOf core) (fun t => { t with planes := kset t.planes (2 * core + 1) (loadPlane t j) }), j.next flNone)

/-! Rank jobs (R186 to R191). -/

/-- The record of a group (R186). -/
def groupRecord (t : Tile) (j : Job) : RankRec :=
  let n := 2 ^ j.lgn
  let e := codeBits j.hdr.fmt / 8
  let xs := (List.range n).map (fun i =>
    decodeF (fmtOfCode j.hdr.fmt) (memGetN t.array (j.pos + (j.unit * n + i) * e) e))
  bolter xs j.k j.lgn (field j.xc 15 12) (bitOf j.xc.toNat 16)

def State.unitRank (s : State) (core : Nat) (j : Job) : State × Job :=
  let t := s.tile (tileOf core)
  (s.setTile (tileOf core) (putScratch t (j.outPos + j.unit * rankBytes j.k) (groupRecord t j).bytes), j.next flNone)

/-- The targets of a `rankch` job (R188): they lie on the package that its destination names. -/
def Job.targets (j : Job) : List Nat := channelTargets j.xa
def Job.targetPkg (j : Job) : Nat := field j.xa 21 12

/-- Whether every target of a job can take n more words (11 R328). -/
def State.rankRoom (s : State) (core : Nat) (j : Job) (n : Nat) : Bool :=
  j.targets.all (fun k => decide (s.unacked core j.targetPkg k + n ≤ 32))

/-- Words of a `rankch` job sent to all its targets. -/
def State.rankSend (s : State) (core level : Nat) (j : Job) (words : List Word) (endw : Bool) : State :=
  j.targets.foldl (fun s k =>
    s.sendWords core j.targetPkg k (field j.xa 25 22) level j.ltag j.item words endw false 0 (.fromJob (queueKey core level) j.stamp) []) s

/-- The words of the group in hand sent, four to a message, as far as the targets have room. -/
def State.sendGroup (s : State) (core level : Nat) (j : Job) : Nat → State × Job
  | 0 => (s, j)
  | n + 1 =>
    let words := (chunksOf 8 (j.buf.take 32) 4).map (fun b => BitVec.ofNat 64 (leValue b))
    if j.buf.isEmpty || !s.rankRoom core j words.length then (s, j)
    else (s.rankSend core level j words false).sendGroup core level { j with buf := j.buf.drop 32 } n

/-- A unit of `rankch`: the words of one group, and after the last group the end word; a group for which there is no room goes on later where it
stopped. A target of this package outside the tenant's sub-mesh refuses the words. The job completes as the end word is accepted (11 R328). -/
def State.unitRankch (s : State) (core level : Nat) (j : Job) : State × Job :=
  if j.targets.any (fun k => s.outsideMesh j.ltag { core := k, pkg := j.targetPkg, gov := false }) then (s, j.fail .absent 0)
  else
    let j :=
      if j.buf.isEmpty && decide (j.unit < j.units) then
        let b := (groupRecord (s.tile (tileOf core)) j).bytes
        { j with unit := j.unit + 1, buf := b ++ List.replicate (roundUp (4 + j.k) 8 - b.length) 0#8 }
      else j
    let r := s.sendGroup core level j 9
    if r.2.buf.isEmpty && decide (r.2.units ≤ r.2.unit) && !r.2.ended && r.1.rankRoom core r.2 1 then
      (r.1.rankSend core level r.2 [] true, { r.2 with ended := true })
    else r

/-- The plane that an index of a record uses (R189). -/
def State.rankWeight (s : State) (core : Nat) (n idx : Nat) : Num :=
  if idx < 128 then (s.activePlane core).num idx n else (s.shadowPlane core).num (idx - 128) n

/-- The plane formats that rank records may use (R176). -/
def rankPlaneOk (p : Plane) : Bool := p.fmt ∈ [0, 1, 2, 4, 5]

/-- Cut-off of R189. -/
def Job.cut (j : Job) : Nat := if field j.xc 23 16 = 0 then 255 else field j.xc 23 16

/-- A table entry (R66); 256 is the tail. -/
def tableEntry (t : Tile) (tab i : Nat) : Num := decodeF .bf16 (kgetD t.tabs (512 * tab + i) 0#16).toNat

/-- A record applied to its accumulator row (R66, R189), or the fault it raises; `where_` is the place reported for HEADER. DESIGN CHOICE: R189 does not rank its
causes: WINDOW of the bytes comes first, then HEADER, then WINDOW of the row (log entry 7). -/
def State.applyRecord (s : State) (core : Nat) (j : Job) (r : RankRec) (where_ : Nat) : Except (Cause × Word) (State × Job) := do
  let kk := min r.k j.cut
  let used := r.idx.take kk
  check r.ok .header where_
  check (!(used.any (fun i => decide (i < 128))) || rankPlaneOk (s.activePlane core)) .header where_
  check (!(used.any (fun i => decide (128 ≤ i))) || rankPlaneOk (s.shadowPlane core)) .header where_
  check (decide (j.xa.toNat + j.unit < j.arows)) .window (j.xa.toNat + j.unit)
  let t := s.tile (tileOf core)
  let row := j.acb + j.xa.toNat + j.unit
  let old := accRow t 2 row
  let out := (List.range 64).map (fun n => rankColumn r kk (tableEntry t r.tab) (s.rankWeight core n) (old.getD n 0))
  pure (s.setTile (tileOf core) (setAccRow t 2 row (out.map (·.1))),
        { j with unit := j.unit + 1, fl := j.fl ||| matFlags (out.foldl (fun f x => f ||| x.2) flNone) })

/-- The record at a job's place in scratch, or WINDOW. DESIGN CHOICE: a record that both fails 02 R64 and reaches beyond its region raises WINDOW; R189 ranks
neither first (log entry 7). -/
def State.recordAt (s : State) (core : Nat) (j : Job) : Except (Cause × Word) (List Byte) := do
  let r ← needRegion (s.jobRegion core j (selector j.word)) j.pos
  inRegion r j.pos 4
  let a := (s.tile (tileOf core)).array
  let n := rankBytes (memGet a (r.base + j.pos + 2)).toNat
  inRegion r j.pos n
  pure (memGetBytes a (r.base + j.pos) n)

/-- Whether a job has done its g records. -/
def Job.lastRecord (j : Job) : Job := { j with finished := decide (j.units ≤ j.unit) }

def State.unitRstream (s : State) (core : Nat) (j : Job) : State × Job :=
  match (do
    let b ← s.recordAt core j
    let (s, k) ← s.applyRecord core j (parseRank b) j.pos
    pure (s, { k with pos := j.pos + b.length }.lastRecord)) with
  | .ok r => r
  | .error e => (s, { j with fault := some e, finished := true })

/-- A record written to the tee region (R190), or WINDOW. -/
def State.tee (s : State) (core : Nat) (j : Job) (b : List Byte) : Except (Cause × Word) State := do
  if bitOf j.xc.toNat 24 then
    let q ← needRegion (s.jobRegion core j (addrSel j.outAddr)) j.outPos
    inRegion q j.outPos b.length
    pure (s.modTile (tileOf core) (fun t => putScratch t (q.base + j.outPos) b))
  else pure s

/-- A complete record from a channel: checked, teed, applied. DESIGN CHOICE: `eaddr` of its HEADER is 0, since no scratch offset is concerned (log entry 7). -/
def State.channelRecord (s : State) (core : Nat) (j : Job) : State × Job :=
  let n := rankBytes ((j.buf.getD 2 0#8).toNat)
  let r := parseRank j.buf
  let b := j.buf.take (4 + r.k) ++ List.replicate (n - (4 + r.k)) 0#8
  match (do
    let (s', k) ← s.applyRecord core j r 0
    let t ← s'.tee core j b
    pure (t, { k with buf := [], outPos := if bitOf j.xc.toNat 24 then j.outPos + n else j.outPos })) with
  | .ok x => x
  | .error e => (s, { j with fault := some e, finished := true })

/-- Words taken from the channel until a record is complete or the channel is empty (R190). DESIGN CHOICE: the words of a record that faults, and an end
word inside a record, stay consumed (log entry 7). -/
def takeWords (j : Job) : Nat → List (Word × Bool) → Job × List (Word × Bool)
  | 0, q => (j, q)
  | _, [] => (j, [])
  | n + 1, (v, e) :: q =>
    if !j.buf.isEmpty && decide (4 + (j.buf.getD 2 0#8).toNat ≤ j.buf.length) then (j, (v, e) :: q)
    else if e then
      if j.buf.isEmpty then ({ j with finished := true }, q) else (j.fail .header 0, q)
    else takeWords { j with buf := j.buf ++ leBytes v.toNat 8 } n q

/-- Whether a vector bundle of the task, earlier than a job, has not completed: should it fault, the job is discarded (05 R137). -/
def State.vectorAhead (s : State) (core : Nat) (j : Job) : Bool :=
  ((s.frameOf core j.task).map (fun f => f.lv.vq.any (fun e => decide (e.stamp < j.stamp)))).getD false

def State.unitRstreamch (s : State) (core : Nat) (j : Job) : State × Job :=
  let ch := fieldB j.word
  match kget (s.core core).chans ch with
  | none => (s, j.fail .absent ch)
  | some x =>
    let (j, q) := takeWords j (x.q.length + 1) x.q
    let s := s.modCore core (fun c => { c with chans := kset c.chans ch { x with q := q } })
    let j := if s.vectorAhead core j then { j with undoWords := j.undoWords ++ x.q.take (x.q.length - q.length) } else j
    if !j.finished && !j.buf.isEmpty && decide (4 + (j.buf.getD 2 0#8).toNat ≤ j.buf.length) then s.channelRecord core j else (s, j)

/-- `rrecon` (R191). -/
def State.unitRrecon (s : State) (core : Nat) (j : Job) : State × Job :=
  let code := field j.xc 19 16
  match (do
    let b ← s.recordAt core j
    let r := parseRank b
    check r.ok .header j.pos
    let q ← needRegion (s.jobRegion core j (addrSel j.xa)) j.outPos
    let n := tensorBytes code (2 ^ r.lgn)
    inRegion q j.outPos n
    let t := s.tile (tileOf core)
    let ctl := { ctlOf j.sampled.rmode with ftz := false }
    let out := rankDense r (tableEntry t r.tab) (tableEntry t r.tab 256) (fmtOfCode code) ctl j.srst.isSome (j.srst.getD 0)
    pure (s.setTile (tileOf core) (putScratch t (q.base + j.outPos) (packElems code out.1)),
          { j with unit := j.unit + 1, pos := j.pos + b.length, outPos := j.outPos + n, fl := j.fl ||| out.2.1,
                   srst := j.srst.map (fun _ => out.2.2) }.lastRecord)) with
  | .ok r => r
  | .error e => (s, { j with fault := some e, finished := true })

/-- The work of one unit of a job (R163). -/
def State.unitWork (s : State) (core level : Nat) (j : Job) : State × Job :=
  match j.op with
  | .mstat => s.unitStat core j
  | .mswap => s.unitSwap core j
  | .mstream => s.unitStream core j
  | .mstreamt => s.unitStream core j
  | .mf64 => s.unitStream core j
  | .mbpn4 => s.unitStream core j
  | .mbpn8 => s.unitStream core j
  | .rtab => s.unitTable core j
  | .rank => s.unitRank core j
  | .rankch => s.unitRankch core level j
  | .rstream => s.unitRstream core j
  | .rstreamch => s.unitRstreamch core j
  | .rrecon => s.unitRrecon core j
  | _ => s.unitRow core j

/-- One unit of a job (R163). A job that runs ahead of a vector bundle keeps what it has changed in mind (05 R137). -/
def State.jobUnit (s : State) (core level : Nat) (j : Job) : State × Job :=
  let r := s.unitWork core level j
  if s.vectorAhead core j then
    let a := s.tile (tileOf core)
    let b := r.1.tile (tileOf core)
    (r.1, { r.2 with undoBytes := kdiff memDefault (a.array.length + b.array.length + 1) a.array b.array ++ r.2.undoBytes,
                     undoRows := kdiff 0#32 (a.acc.length + b.acc.length + 1) a.acc b.acc ++ r.2.undoRows })
  else r

/-- R162: whether a job that has started can be served now; one that waits for channel words or for credit cannot, nor one whose words could not
be taken back (05 R137). -/
def State.runnable (s : State) (core : Nat) (j : Job) : Bool :=
  match j.op with
  | .rstreamch => ((kget (s.core core).chans (fieldB j.word)).map (fun x => !x.q.isEmpty)).getD true
  | .rankch =>
    !s.vectorAhead core j &&
      (if !j.buf.isEmpty then s.rankRoom core j (min 4 (ceilDiv j.buf.length 8))
       else (decide (j.unit < j.units) || !j.ended) && s.rankRoom core j 1)
  | _ => true


/-! Completion (R171, R173; 07 R207). -/

/-- R137, R171: whether a vector store of the level, later than a job, is partly performed. DESIGN CHOICE: the fault of the job is then detected after it, so that
no discarded bundle has stored (log entry 7). -/
def State.vecPartial (s : State) (core : Nat) (j : Job) : Bool :=
  match s.frameOf core j.task with
  | none => false
  | some f =>
    match f.lv.vq with
    | e :: _ =>
      decide (j.stamp < e.stamp) && (match e.op.bind (kget s.ops) with | some o => o.kind.isStore && o.elems.any (·.done) | none => false)
    | [] => false

/-- The late fault of a job. -/
def Job.late (j : Job) (c : Cause) (a : Word) : LateFault :=
  { cause := c, pc := j.pc, eaddr := a, eseq := 0x10000 + j.seq, stamp := j.stamp, restore := some j.succ }

/-- A job that faults (R171, R173): later bundles of its level are discarded; the fault waits for its frame, or is reported when the
task has gone. -/
def State.jobFault (s : State) (core level : Nat) (j : Job) (c : Cause) (a : Word) : State :=
  if (s.frameOf core j.task).isSome then s.noteLate core level j.task j.seq (j.late c a)
  else
    ((s.flushLater core level j.task j.stamp).modCore core (fun k => k.markRing j.seq (fun e => { e with flt := true }))).report j.ltag
      (statusOfCause c) (causeField c) j.item (BitVec.ofNat 64 j.pc) a

/-- A job that completes: its flags and stochastic state reach its level, `tlc` goes down, and its successor is released, unless a flag
of it is enabled in `fpen` as it stood at dispatch: that is FPX, also when the task has gone (R173). -/
def State.jobDone (s : State) (core level : Nat) (j : Job) : State :=
  let s := s.modTask core j.task (fun f =>
    (f.orFlags j.fl).modLv (fun l => match j.srst with | some v => { l with srst := v } | none => l))
  if enables j.sampled.fpen j.fl then s.jobFault core level j .fpx 0#64
  else
    let s := s.modCore core (fun c => c.markRing j.seq (fun e => { e with done := true }))
    match j.succ with
    | some d => s.release core j.ltag j.item d j.after
    | none => s

/-- R171: a finished job at the head of a queue completes or faults; one whose fault has to wait for a vector store stays. -/
def State.completeJob (s : State) (core level : Nat) (j : Job) (rest : List Job) : State :=
  let s' := (s.setJobs core level rest).modTask core j.task (fun f => f.modLv (fun l => { l with tlc := l.tlc - 1 }))
  match j.fault with
  | some (c, a) => if s.vecPartial core j then s else s'.jobFault core level j c a
  | none => if j.fl != flNone && s.vecPartial core j then s else s'.jobDone core level j

/-! The engine's turns (R162, R163). -/

/-- Whether a job is runnable (R162): it can start, or do a unit. -/
def State.hasWork (s : State) (core : Nat) (j : Job) : Bool := !j.finished && (!j.started || s.runnable core j)

/-- Whether a finished job can complete. -/
def State.mayComplete (s : State) (core : Nat) (j : Job) : Bool := !((j.fault.isSome || j.fl != flNone) && s.vecPartial core j)

/-- Whether the engine has something to do for the head of a queue: its start, a unit, or its completion. -/
def State.serviceable (s : State) (core : Nat) (j : Job) : Bool := if j.finished then s.mayComplete core j else s.hasWork core j

/-- R163: the highest level of a core whose queue the engine can serve. -/
def State.runnableLevel (s : State) (core : Nat) : Option Nat :=
  [7, 6, 5, 4, 3, 2, 1, 0].find? (fun l => ((s.jobsOf core l).head?.map (s.serviceable core)).getD false)

/-- Whether a core has a runnable job (R162): at the head of a queue, or behind a finished one that completes. -/
def State.coreRunnable (s : State) (core : Nat) : Bool :=
  (List.range 8).any (fun l =>
    match s.jobsOf core l with
    | [] => false
    | j :: rest => if j.finished then s.mayComplete core j && (rest.head?.map (s.hasWork core)).getD false else s.hasWork core j)

/-- R162: a core's turn ends early when it has no runnable job. -/
def State.endTurn (s : State) (tile : Nat) : State :=
  let t := s.tile tile
  if t.turnUsed < 16 ∧ s.coreRunnable (8 * tile + t.turnCore) = false then s.setTile tile { t with turnUsed := 16 } else s

/-- The turns that end as a cycle passes. -/
def State.endTurns (s : State) : State := (s.tiles.map (·.1)).foldl State.endTurn s

/-- R162: the core that the engine serves next, with its level and the units of its turn so far. -/
def State.engineTurn (s : State) (tile : Nat) : Option (Nat × Nat × Nat) :=
  let t := s.tile tile
  let here := 8 * tile + t.turnCore
  let stay := if t.turnUsed < (s.core here).mwt then s.runnableLevel here else none
  match stay with
  | some l => some (t.turnCore, l, t.turnUsed)
  | none =>
    ((List.range 8).map (fun i => (t.turnCore + 1 + i) % 8)).findSome? (fun i =>
      (s.runnableLevel (8 * tile + i)).map (fun l => (i, l, 0)))

/-- What the engine does for the runnable job at the head of a queue: it starts, or does one unit of work; and how many units that was. A unit that is a
whole job completes with it; an end word that brings no record is none (R163). -/
def State.serveJob (s : State) (core level : Nat) (j : Job) (rest : List Job) : State × Nat :=
  if !j.started then (s.setJobs core level (s.startJob core j :: rest), 0)
  else
    let r := s.jobUnit core level j
    let s := r.1.setJobs core level (r.2 :: rest)
    (if j.op == .mstat || j.op == .mswap || j.op == .rtab then s.completeJob core level r.2 rest else s,
     if r.2.unit = j.unit && (!r.2.finished || (j.op == .rstreamch && r.2.fault.isNone)) then 0 else 1)

/-- R162, R163: the engine of a tile serves its turn; a completion is no part of one. -/
def execMatrixUnit (tile : Nat) (s : State) : Out :=
  match (if s.stilled (8 * tile) then none else s.engineTurn tile) with
  | none => event (if s.stilled (8 * tile) then s else s.endTurn tile)
  | some (i, level, used) =>
    let core := 8 * tile + i
    match s.jobsOf core level with
    | j :: rest =>
      if j.finished then event ((s.completeJob core level j rest).endTurn tile)
      else
        let r := s.serveJob core level j rest
        event ((r.1.modTile tile (fun t => { t with turnCore := i, turnUsed := used + r.2 })).endTurn tile)
    | [] => event s

/-- R171: the head of a queue completes or faults. -/
def execMatrixJobCompletion (core level : Nat) (s : State) : Out :=
  match s.jobsOf core level with
  | [] => event s
  | j :: rest => event (if j.finished then (s.completeJob core level j rest).endTurn (tileOf core) else s)

end Sys2Proof.Machine
end

