-- ==== Sys2Proof/Machine/ScalarAlu.lean ====
section
/-! DEFINITION. Integer arithmetic, logic, compares, constants and extensions (spec 04 R105 to R112), one meaning per instruction. -/

namespace Sys2Proof.Machine

/-- R105, R110: d := g of the two sources. -/
def scalarTwo (op : Op) (w : Bundle) (s : State) (g : Word → Word → Word) : Out :=
  bundle op w s (fun c s => s.writeX c (fieldA w) (g (c.f.xGet (twoSources w).1) (c.f.xGet (twoSources w).2)))

/-- R107: d := g of the source b. -/
def scalarOne (op : Op) (w : Bundle) (s : State) (g : Word → Word) : Out :=
  bundle op w s (fun c s => s.writeX c (fieldA w) (g c.xb))

/-- R111, R112: d := g of the source of form I and the immediate. -/
def scalarImm (op : Op) (w : Bundle) (s : State) (g : Word → Int → Word) : Out :=
  bundle op w s (fun c s => s.writeX c (fieldA w) (g (c.f.xGet (immSourceReg w)) (immI w)))

/-- 1 when a relation holds, else 0 (R110). -/
def truth (b : Bool) : Word := if b then 1#64 else 0#64

/-- Counts of shifts and rotates (R105): bits [5:0]. -/
def count6 (w : Word) : Nat := w.toNat % 64

/-- R105. -/
def mulHigh (a b : Word) : Word := BitVec.ofInt 64 (Int.fdiv (a.toInt * b.toInt) (2 ^ 64 : Nat))
def mulHighU (a b : Word) : Word := BitVec.ofNat 64 (a.toNat * b.toNat / 2 ^ 64)

/-- R106, signed: quotient and remainder. -/
def divSigned (a b : Word) : Word × Word :=
  if b = 0#64 then (BitVec.ofInt 64 (-1), a)
  else (BitVec.ofInt 64 (Int.tdiv a.toInt b.toInt), BitVec.ofInt 64 (a.toInt - Int.tdiv a.toInt b.toInt * b.toInt))

/-- R106, unsigned. -/
def divUnsigned (a b : Word) : Word × Word :=
  if b = 0#64 then (BitVec.allOnes 64, a) else (BitVec.ofNat 64 (a.toNat / b.toNat), BitVec.ofNat 64 (a.toNat % b.toNat))

/-- R107: zero bits above the highest one bit; 64 for 0. -/
def clzWord (a : Word) : Word := BitVec.ofNat 64 (if a = 0#64 then 64 else 63 - Nat.log2 a.toNat)

/-- R107: zero bits below the lowest one bit; 64 for 0. -/
def ctzWord (a : Word) : Word := BitVec.ofNat 64 ((firstBelow (fun i => a.getLsbD i) 64).getD 64)

/-- R107: the number of one bits. -/
def popcWord (a : Word) : Word := BitVec.ofNat 64 ((List.range 64).filter (fun i => a.getLsbD i)).length

/-- R105: `bgen`. -/
def bgenWord (a b : Word) : Word :=
  let len := min (b.toNat % 128) 64
  BitVec.ofNat 64 ((2 ^ len - 1) * 2 ^ count6 a)

def execAdd (w : Bundle) (s : State) : Out := scalarTwo .add w s (fun a b => a + b)
def execSub (w : Bundle) (s : State) : Out := scalarTwo .sub w s (fun a b => a - b)
def execAnd (w : Bundle) (s : State) : Out := scalarTwo .and w s (fun a b => a &&& b)
def execOr (w : Bundle) (s : State) : Out := scalarTwo .or w s (fun a b => a ||| b)
def execXor (w : Bundle) (s : State) : Out := scalarTwo .xor w s (fun a b => a ^^^ b)
def execAndn (w : Bundle) (s : State) : Out := scalarTwo .andn w s (fun a b => a &&& ~~~b)
def execShl (w : Bundle) (s : State) : Out := scalarTwo .shl w s (fun a b => a <<< count6 b)
def execShr (w : Bundle) (s : State) : Out := scalarTwo .shr w s (fun a b => a >>> count6 b)
def execSar (w : Bundle) (s : State) : Out := scalarTwo .sar w s (fun a b => a.sshiftRight (count6 b))
def execMul (w : Bundle) (s : State) : Out := scalarTwo .mul w s (fun a b => a * b)
def execMulh (w : Bundle) (s : State) : Out := scalarTwo .mulh w s mulHigh
def execMulhn (w : Bundle) (s : State) : Out := scalarTwo .mulhn w s mulHighU
def execDiv (w : Bundle) (s : State) : Out := scalarTwo .div w s (fun a b => (divSigned a b).1)
def execRem (w : Bundle) (s : State) : Out := scalarTwo .rem w s (fun a b => (divSigned a b).2)
def execDivn (w : Bundle) (s : State) : Out := scalarTwo .divn w s (fun a b => (divUnsigned a b).1)
def execRemn (w : Bundle) (s : State) : Out := scalarTwo .remn w s (fun a b => (divUnsigned a b).2)
def execMin (w : Bundle) (s : State) : Out := scalarTwo .min w s (fun a b => if a.toInt ≤ b.toInt then a else b)
def execMax (w : Bundle) (s : State) : Out := scalarTwo .max w s (fun a b => if a.toInt ≤ b.toInt then b else a)
def execMinn (w : Bundle) (s : State) : Out := scalarTwo .minn w s (fun a b => if a.toNat ≤ b.toNat then a else b)
def execMaxn (w : Bundle) (s : State) : Out := scalarTwo .maxn w s (fun a b => if a.toNat ≤ b.toNat then b else a)
def execRol (w : Bundle) (s : State) : Out := scalarTwo .rol w s (fun a b => a.rotateLeft (count6 b))
def execBgen (w : Bundle) (s : State) : Out := scalarTwo .bgen w s bgenWord

def execMov (w : Bundle) (s : State) : Out := scalarOne .mov w s (fun a => a)
def execClz (w : Bundle) (s : State) : Out := scalarOne .clz w s clzWord
def execPopc (w : Bundle) (s : State) : Out := scalarOne .popc w s popcWord
def execCtz (w : Bundle) (s : State) : Out := scalarOne .ctz w s ctzWord

/-- R108: the shift is m[7:5]. -/
def execLea (w : Bundle) (s : State) : Out := scalarTwo .lea w s (fun a b => a + b <<< modOpt w)

/-- R109: the old value of the destination selects. -/
def execSel (w : Bundle) (s : State) : Out :=
  bundle .sel w s (fun c s =>
    s.writeX c (fieldA w) (if c.xa ≠ 0#64 then c.f.xGet (threeSources w).1 else c.f.xGet (threeSources w).2))

def execCmpeq (w : Bundle) (s : State) : Out := scalarTwo .cmpeq w s (fun a b => truth (a == b))
def execCmpne (w : Bundle) (s : State) : Out := scalarTwo .cmpne w s (fun a b => truth (a != b))
def execCmplt (w : Bundle) (s : State) : Out := scalarTwo .cmplt w s (fun a b => truth (decide (a.toInt < b.toInt)))
def execCmpltn (w : Bundle) (s : State) : Out := scalarTwo .cmpltn w s (fun a b => truth (decide (a.toNat < b.toNat)))
def execCmple (w : Bundle) (s : State) : Out := scalarTwo .cmple w s (fun a b => truth (decide (a.toInt ≤ b.toInt)))
def execCmplen (w : Bundle) (s : State) : Out := scalarTwo .cmplen w s (fun a b => truth (decide (a.toNat ≤ b.toNat)))

/-- R111. -/
def execLi (w : Bundle) (s : State) : Out :=
  bundle .li w s (fun c s => s.writeX c (fieldA w) (wordOfInt (immI w)))
def execLih (w : Bundle) (s : State) : Out :=
  scalarImm .lih w s (fun a imm => BitVec.ofNat 64 (wrapInt imm 32 * 2 ^ 32 + a.toNat % 2 ^ 32))
def execAddi (w : Bundle) (s : State) : Out := scalarImm .addi w s (fun a imm => a + wordOfInt imm)

/-- R112: the immediate is the width. -/
def execSext (w : Bundle) (s : State) : Out := scalarImm .sext w s (fun a imm => wordOfInt (sextNat a.toNat imm.toNat))
def execZext (w : Bundle) (s : State) : Out := scalarImm .zext w s (fun a imm => BitVec.ofNat 64 (a.toNat % 2 ^ imm.toNat))

end Sys2Proof.Machine
end

