-- ==== Sys2Proof/Machine/System.lean ====
section
/-! DEFINITION. System instructions and the control registers (spec 04 R125 to R131; 01 R32 to R42). -/

namespace Sys2Proof.Machine

/-- The number of a profile (01 R32). -/
def profileCode : Profile → Nat
  | .F => 0 | .L => 1 | .K => 2 | .G => 3

/-- `chbN` (07 R218): the binding word and the level; 0 while unbound. -/
def Core.chanWord (c : Core) (n : Nat) : Word :=
  match kget c.chans n with
  | some x => BitVec.ofNat 64 (x.bind.toNat % 2 ^ 40 + x.level * 2 ^ 40)
  | none => 0#64

/-- `cpinf` of an entry (01 R42). -/
def cpInfo (e : CpEntry) : Nat :=
  e.seq + e.lvl * 2 ^ 16 + 2 ^ 19 + (if e.done then 2 ^ 20 else 0) + (if e.flt then 2 ^ 21 else 0)

/-- The value that `getc` reads (01 R32). -/
def State.control (s : State) (core : Nat) (f : Frame) (n : Nat) : Word :=
  let c := s.core core
  let num (k : Nat) : Word := BitVec.ofNat 64 k
  match n with
  | 0x00 => f.lv.fmta
  | 0x01 => f.lv.fmtb
  | 0x02 => f.lv.fmtc
  | 0x03 => f.lv.scla
  | 0x04 => f.lv.sclb
  | 0x05 => f.lv.rmode
  | 0x06 => num f.lv.srst
  | 0x07 => f.lv.fpflg
  | 0x08 => f.lv.fpen
  | 0x10 => num f.thr
  | 0x11 => num f.level
  | 0x12 => f.item
  | 0x13 => num f.acb
  | 0x14 => num f.fsb
  | 0x15 => num (if isCompute core then c.sat else f.ltag)
  | 0x16 => f.wins
  | 0x18 => num f.lv.ldc
  | 0x19 => num f.lv.stc
  | 0x1A => num f.lv.cpc
  | 0x1B => num f.lv.tlc
  | 0x1C => num c.cseq
  | 0x1D => num c.mwt
  | 0x1E => num (keyId core)
  | 0x1F => num (profileCode (profileOf core))
  | 0x28 => f.exc.ecause
  | 0x29 => f.exc.epc
  | 0x2A => f.exc.eaddr
  | 0x2B => f.exc.eseq
  | 0x2C => num c.cpsel
  | 0x2D => num ((c.cpring[c.cpsel]?.map (·.pc)).getD 0)
  | 0x2E => num ((c.cpring[c.cpsel]?.map cpInfo).getD 0)
  | n => if 0x40 ≤ n then num (c.ceil.getD (n - 0x40) 0) else c.chanWord (n - 0x20)

/-- The low bits of a word. -/
def lowBits (v : Word) (n : Nat) : Word := BitVec.ofNat 64 (v.toNat % 2 ^ n)

/-- The bits of a scale pointer that 01 R36 names. -/
def sclBits (v : Word) : Word := BitVec.ofNat 64 (v.toNat % 2 ^ 19 + field v 23 20 * 2 ^ 20)

/-- `setc` of a writable register, with the bits that the maps name (01 R33 to R42; 04 R128); a read-only one is ignored. -/
def State.setControl (s : State) (core n : Nat) (v : Word) : State :=
  let lv (g : LevelState → LevelState) : State := s.modTop core (fun f => f.modLv g)
  match n with
  | 0x00 => lv (fun l => { l with fmta := lowBits v 9 })
  | 0x01 => lv (fun l => { l with fmtb := lowBits v 9 })
  | 0x02 => lv (fun l => { l with fmtc := lowBits v 12 })
  | 0x03 => lv (fun l => { l with scla := sclBits v })
  | 0x04 => lv (fun l => { l with sclb := sclBits v })
  | 0x05 => lv (fun l => { l with rmode := lowBits v 5 })
  | 0x06 => lv (fun l => { l with srst := if v.toNat % 2 ^ 32 = 0 then 0x2545F491 else v.toNat % 2 ^ 32 })
  | 0x07 => lv (fun l => { l with fpflg := lowBits v 6 })
  | 0x08 => lv (fun l => { l with fpen := lowBits v 6 })
  | 0x1D => s.modCore core (fun c => { c with mwt := if v.toNat % 16 = 0 then 1 else v.toNat % 16 })
  | 0x2C => s.modCore core (fun c => { c with cpsel := v.toNat % 64 })
  | _ => s

/-- Whether every earlier vector bundle and job of a frame's level has completed (01 R34). -/
def State.levelQuiet (s : State) (core : Nat) (f : Frame) : Bool :=
  f.lv.vq.isEmpty && (!isCompute core || (kgetD (s.tile (tileOf core)).queues (8 * core + f.level) []).isEmpty)

/-- Whether `getc` or `setc` has to wait (01 R34, 02 R58). -/
def State.controlBusy (s : State) (c : Ctx) (n : Nat) (read : Bool) : Bool :=
  (n == 7 && read && !s.levelQuiet c.core c.f) || (n == 6 && s.srstBusy c.core c.f)

/-- R128. -/
def execGetc (w : Bundle) (s : State) : Out :=
  bundle .getc w s (fun c s =>
    let n := (immI w).toNat
    if s.controlBusy c n true then s
    else s.writeX c (fieldA w) (s.control c.core c.f n))

/-- R128, 01 R33. -/
def execSetc (w : Bundle) (s : State) : Out :=
  bundle .setc w s (fun c s =>
    let n := (immI w).toNat
    if n = 0x2C ∧ c.f.level ≠ 7 then s.exact c.core .perm 0#64
    else if s.controlBusy c n false then s
    else (s.setControl c.core n (c.f.xGet (immSourceReg w))).advance c)

/-- R126. -/
def execTrap (w : Bundle) (s : State) : Out :=
  bundle .trap w s (fun c s => s.exact c.core .trap (wordOfInt (immJ w)))
def execBrk (w : Bundle) (s : State) : Out :=
  bundle .brk w s (fun c s => s.exact c.core .brk (wordOfInt (immJ w)))

/-- R127: the handler's vector bundles complete first. -/
def execEret (w : Bundle) (s : State) : Out :=
  bundle .eret w s (fun c s =>
    if c.f.level ≠ 7 then s.exact c.core .perm 0#64
    else if !c.f.isTrapHandler then s.exact c.core .illegal 0#64
    else if !c.f.lv.vq.isEmpty then s
    else s.trapReturn c.core ((c.f.xGet 2).getLsbD 0))

/-- R129. -/
def execRdtime (w : Bundle) (s : State) : Out :=
  bundle .rdtime w s (fun c s => s.writeX c (fieldA w) (BitVec.ofNat 64 s.time))

/-- R130: it waits for the level's stores, empties the instruction cache, and lets go what the core has asked for to fetch beyond it. -/
def execFencei (w : Bundle) (s : State) : Out :=
  bundle .fencei w s (fun c s =>
    if c.f.lv.stc ≠ 0 then s else ((s.dropBuffers c.core).modCore c.core (fun k => { k with icache := [] })).advance c)

/-- R131: it stalls until a release event arrives for the core. -/
def execIdle (w : Bundle) (s : State) : Out :=
  bundle .idle w s (fun c s =>
    if c.f.idle = 2 then (s.modTop c.core (fun f => { f with idle := 0 })).advance c
    else s.modTop c.core (fun f => { f with idle := 1 }))

end Sys2Proof.Machine
end

