-- ==== Sys2Proof/Machine/Meaning.lean ====
section
/-! DEFINITION. The meaning of each encoded instruction, by its slot: for a core that executes a bundle which another core has fetched
(spec 04 R120). `Dispatch.lean` calls the same meanings. -/

namespace Sys2Proof.Machine

/-- The meaning of a slot. -/
def meaning (op : Op) (w : Bundle) (s : State) : Out :=
  match op with
  | .add => execAdd w s
  | .sub => execSub w s
  | .and => execAnd w s
  | .or => execOr w s
  | .xor => execXor w s
  | .andn => execAndn w s
  | .shl => execShl w s
  | .shr => execShr w s
  | .sar => execSar w s
  | .mul => execMul w s
  | .mulh => execMulh w s
  | .div => execDiv w s
  | .rem => execRem w s
  | .min => execMin w s
  | .max => execMax w s
  | .mov => execMov w s
  | .li => execLi w s
  | .lih => execLih w s
  | .addi => execAddi w s
  | .cmpeq => execCmpeq w s
  | .cmpne => execCmpne w s
  | .cmplt => execCmplt w s
  | .cmpltn => execCmpltn w s
  | .cmple => execCmple w s
  | .sel => execSel w s
  | .lea => execLea w s
  | .clz => execClz w s
  | .popc => execPopc w s
  | .sext => execSext w s
  | .zext => execZext w s
  | .b => execB w s
  | .bz => execBz w s
  | .bnz => execBnz w s
  | .beq => execBeq w s
  | .bne => execBne w s
  | .blt => execBlt w s
  | .bge => execBge w s
  | .bltn => execBltn w s
  | .call => execCall w s
  | .ret => execRet w s
  | .jr => execJr w s
  | .loop => execLoop w s
  | .ld => execLd w s
  | .st => execSt w s
  | .ldf => execLdf w s
  | .stf => execStf w s
  | .lsp => execLsp w s
  | .ssp => execSsp w s
  | .vadd => execVadd w s
  | .vmul => execVmul w s
  | .vfma => execVfma w s
  | .vld => execVld w s
  | .vst => execVst w s
  | .vbcast => execVbcast w s
  | .lead => execLead w s
  | .follow => execFollow w s
  | .detach => execDetach w s
  | .wait => execWait w s
  | .claim => execClaim w s
  | .release => execRelease w s
  | .vaddP1 => execVaddP1 w s
  | .vsub => execVsub w s
  | .vmulP1 => execVmulP1 w s
  | .vfmaP1 => execVfmaP1 w s
  | .vfms => execVfms w s
  | .vfnma => execVfnma w s
  | .vmin => execVmin w s
  | .vmax => execVmax w s
  | .vabs => execVabs w s
  | .vneg => execVneg w s
  | .vdiv => execVdiv w s
  | .vsqrt => execVsqrt w s
  | .vrcp => execVrcp w s
  | .vrsq => execVrsq w s
  | .vexp2 => execVexp2 w s
  | .vlog2 => execVlog2 w s
  | .vtanh => execVtanh w s
  | .viadd => execViadd w s
  | .visub => execVisub w s
  | .vimul => execVimul w s
  | .vimad => execVimad w s
  | .vand => execVand w s
  | .vor => execVor w s
  | .vxor => execVxor w s
  | .vshl => execVshl w s
  | .vshr => execVshr w s
  | .vsar => execVsar w s
  | .vcmp => execVcmp w s
  | .vsel => execVsel w s
  | .vcvt => execVcvt w s
  | .vqnt => execVqnt w s
  | .vdqnt => execVdqnt w s
  | .vbpn => execVbpn w s
  | .vbpj => execVbpj w s
  | .vext => execVext w s
  | .vins => execVins w s
  | .vperm => execVperm w s
  | .vslide => execVslide w s
  | .vzip => execVzip w s
  | .vunzip => execVunzip w s
  | .vredsum => execVredsum w s
  | .vredmax => execVredmax w s
  | .vredmin => execVredmin w s
  | .vscan => execVscan w s
  | .vchadd => execVchadd w s
  | .vchmax => execVchmax w s
  | .vchst => execVchst w s
  | .kand => execKand w s
  | .kor => execKor w s
  | .kxor => execKxor w s
  | .knot => execKnot w s
  | .kpopc => execKpopc w s
  | .kmov => execKmov w s
  | .kffs => execKffs w s
  | .mulhn => execMulhn w s
  | .divn => execDivn w s
  | .remn => execRemn w s
  | .minn => execMinn w s
  | .maxn => execMaxn w s
  | .ctz => execCtz w s
  | .rol => execRol w s
  | .bgen => execBgen w s
  | .cmplen => execCmplen w s
  | .mstat => execMstat w s
  | .mswap => execMswap w s
  | .mstream => execMstream w s
  | .mstreamt => execMstreamt w s
  | .mf64 => execMf64 w s
  | .mbpn4 => execMbpn4 w s
  | .mbpn8 => execMbpn8 w s
  | .mzero => execMzero w s
  | .mrd => execMrd w s
  | .mwr => execMwr w s
  | .macs => execMacs w s
  | .msac => execMsac w s
  | .mtest => execMtest w s
  | .rtab => execRtab w s
  | .rank => execRank w s
  | .rankch => execRankch w s
  | .rstream => execRstream w s
  | .rstreamch => execRstreamch w s
  | .rrecon => execRrecon w s
  | .ldsx => execLdsx w s
  | .aadd => execAadd w s
  | .amin => execAmin w s
  | .amax => execAmax w s
  | .aminn => execAminn w s
  | .amaxn => execAmaxn w s
  | .aand => execAand w s
  | .aor => execAor w s
  | .axor => execAxor w s
  | .aswp => execAswp w s
  | .acas => execAcas w s
  | .afadd => execAfadd w s
  | .ahnd => execAhnd w s
  | .fence => execFence w s
  | .spawn => execSpawn w s
  | .succ => execSucc w s
  | .relev => execRelev w s
  | .endTask => execEndTask w s
  | .getid => execGetid w s
  | .tmr => execTmr w s
  | .migr => execMigr w s
  | .send => execSend w s
  | .reply => execReply w s
  | .cmask => execCmask w s
  | .cunmask => execCunmask w s
  | .chbind => execChbind w s
  | .arrive => execArrive w s
  | .bwait => execBwait w s
  | .cpy => execCpy w s
  | .cpyx => execCpyx w s
  | .cpytst => execCpytst w s
  | .lxload => execLxload w s
  | .coll => execColl w s
  | .uepost => execUepost w s
  | .uepop => execUepop w s
  | .ctrw => execCtrw w s
  | .vlds => execVlds w s
  | .vsts => execVsts w s
  | .vgather => execVgather w s
  | .baddq => execBaddq w s
  | .vscatter => execVscatter w s
  | .trap => execTrap w s
  | .eret => execEret w s
  | .getc => execGetc w s
  | .setc => execSetc w s
  | .rdtime => execRdtime w s
  | .fencei => execFencei w s
  | .brk => execBrk w s
  | .idle => execIdle w s

end Sys2Proof.Machine
end

