-- ==== Sys2Proof/Machine/Follow.lean ====
section
/-! DEFINITION. Bundles that a leader forwards (spec 04 R120 to R124). -/

namespace Sys2Proof.Machine

/-- The transfers of control (R113 to R117), which may go on at the bundle they stand at. -/
def isTransfer (op : Op) : Bool :=
  match op with
  | .b | .bz | .bnz | .beq | .bne | .blt | .bge | .bltn | .call | .ret | .jr | .loop => true
  | _ => false

/-- Whether the bundle that a core's frame had before a step has completed in it: the same task stands on top, no migration has begun, and
it has gone on. A transfer to itself goes on without a new program counter. -/
def State.completed (s s' : State) (core : Nat) (op : Op) (w : Bundle) : Bool :=
  match s.top core, s'.top core with
  | some f, some g =>
    f.task == g.task && g.mig.isNone && (f.pc != g.pc || (isTransfer op && s.hazards core f (allNamed op w) == .go))
  | _, _ => false

/-- The bundles forwarded to a core that it has not executed. -/
def Core.forwarded (c : Core) : List Forwarded :=
  match c.follow with | .attached _ fwd => fwd | .draining fwd => fwd | _ => []

/-- R121, R123: what a forwarded bundle leaves a follower as: as attached as before when its next program counter is the leader's; one whose stream
has closed is free after the last bundle. -/
def Core.afterForwarded (c : Core) (fwd : Forwarded) (rest : List Forwarded) : Core :=
  match c.frames, c.follow with
  | f :: _, .attached n _ => if f.pc = fwd.next then { c with follow := .attached n rest } else c.detach
  | f :: _, .draining _ => if f.pc = fwd.next && !rest.isEmpty then { c with follow := .draining rest } else c.detach
  | _, _ => c

/-- The follower executes a bundle on its own state. -/
def State.runForwarded (s : State) (core : Nat) (fwd : Forwarded) (rest : List Forwarded) : State :=
  match fwd.instr.code? with
  | none => s
  | some (op, w) =>
    match meaning op w { s with cur := core } with
    | .next s' =>
      let s' := { s' with cur := s.cur }
      if s.completed s' core op w && (s'.core core).follow == (s.core core).follow then s'.modCore core (fun c => c.afterForwarded fwd rest) else s'
    | _ => s

/-- R120, R121: a follower executes the next bundle forwarded to it; an arrival or a fault that is due comes first. -/
def execForwardedBundle (core : Nat) (s : State) : Out :=
  match (s.core core).forwarded with
  | fwd :: rest =>
    if s.stilled core then event s
    else
      let r := s.takeEvent core
      if r.1 then event r.2
      else
        match r.2.raiseDue core with
        | some s => event s
        | none => event (r.2.runForwarded core fwd rest)
  | _ => event s

/-- R120: a bundle that the leader has completed handed to its followers; one that holds 8 goes on by its own fetch (R121). -/
def State.forward (s : State) (leader n : Nat) (fwd : Forwarded) : State :=
  (List.range 8).foldl (fun s i =>
    let k := 8 * tileOf leader + i
    match (s.core k).follow with
    | .attached m l => if m = n then s.modCore k (fun c => { c with follow := .attached n (l ++ [fwd]) }.overrun) else s
    | _ => s) s

end Sys2Proof.Machine
end

