-- ==== Sys2Proof/Machine/Host.lean ====
section
/-! DEFINITION. What the host and system software do to the package: register writes, invalidations, BAR2 accesses, the tenant table (spec 13 R362,
R363, R378 to R381; 14 R384 to R388). Egress reports: 1 Configuration Request Retry Status, 2 Unsupported Request, 6 an event of another
package that was lost, 7 a refused network context, 8 a stray message, 9 a failed connection, 10 a discarded BAR2 write, 11 a switch
without GO, 12 a refused tenant entry, 14 eight switches without GO, 15 Busy, 16 UnspecifiedError, 17 a leat that is full. -/

namespace Sys2Proof.Machine

/-! Invalidation (R378 to R381, R388). -/

/-- The pseudo core under which the invalidation interface reads records from the host (log entry 22). -/
def invalCore : Nat := 917505

/-- Whether an invalidation concerns a tenant's bytes. -/
def InvalJob.hits (j : InvalJob) (tenant base n : Nat) : Bool :=
  match j.kind with
  | 0 => tenant == j.tenant && overlaps base n j.base j.len
  | 1 => tenant == j.tenant
  | _ => true

/-- R379: the entries that an invalidation hits leave every translation structure. The replicas that go are those of every page, and so are the lines
kept from other packages and the host: any line may leave a cache at any time (log entry 12). DESIGN CHOICE: the other lines of a page, dirty ones included, stay
in the cache that holds them when the page's home policy changes: 10 R282 and 13 R378 do not say what becomes of them (log entry 12). -/
def State.dropTranslations (s : State) (j : InvalJob) : State :=
  let keep (l : List TlbEntry) : List TlbEntry := l.filter (fun e => !j.hits e.tenant e.base (2 ^ e.lg))
  let tile (t : Tile) : Tile := { t with utlb := keep t.utlb, lines := t.lines.filter (fun c => !(c.replica && !c.res)) }
  let die (d : Die) : Die := { d with sgTlb := d.sgTlb.map (fun g => (g.1, keep g.2)), tlb := keep d.tlb }
  { s with tiles := s.tiles.map (fun t => (t.1, tile t.2)), dies := s.dies.map (fun d => (d.1, die d.2)),
           cores := s.cores.map (fun c => (c.1, { c.2 with rbuf := [] })) }

/-- Whether accesses and copy segments of the tenant that have been translated are still to be performed. -/
def State.translatedOpen (s : State) (j : InvalJob) : Bool :=
  let mine (tenant : Nat) : Bool := j.kind == 2 || tenant == j.tenant
  s.ops.any (fun o => mine o.2.tenant && o.2.fault.isNone && !o.2.performed) ||
    s.copies.any (fun c => mine c.2.tenant && c.2.segs.any Segment.flying)

/-- R379, 11 R320 kinds 10 and 7: an invalidation sets out for every compute die; every die acknowledges it, the router proxy for one under reset (R380). -/
def State.sendInval (s : State) (token : Nat) : State :=
  (List.range 8).foldl (fun s d => s.sendInternal 10 (coreKey 2 0) (govCore d) 0 0 (.token token)) s
def State.ackInval (s : State) (token : Nat) : State :=
  (List.range 8).foldl (fun s d => s.sendInternal 7 (govCore d) (coreKey 2 0) 0 0 (.token token)) s

/-- A record read: it is refused, or the invalidation is sent to every die. -/
def State.loadInval (s : State) (j : InvalJob) (b : List Byte) (rest : List InvalJob) : State :=
  let w0 := (recWord b 0).toNat
  let base := (recWord b 1).toNat % 2 ^ 57
  let len := (recWord b 2).toNat
  let kind := bitsOf w0 7 6
  let bad := kind == 3 || (kind == 0 && (base % 65536 != 0 || len % 65536 != 0 || len == 0))
  let s := { s with cores := kdel s.cores invalCore }
  if bad then { s with inval := { s.inval with refused := true, jobs := rest } }
  else
    let j := { j with loaded := true, tenant := w0 % 64, kind := kind, base := base, len := len, token := s.fresh.1 }
    { s.fresh.2 with inval := { s.inval with refused := false, jobs := rest ++ [j] } }.sendInval j.token

/-- R388: 1 written to offset 0x0208 submits the record whose address stands in 0x0200. -/
def State.submitInval (s : State) (value : Word) : State :=
  if value.getLsbD 0 then
    let j : InvalJob := { addr := s.inval.addr, loaded := false, tenant := 0, kind := 0, base := 0, len := 0 }
    { s with inval := { s.inval with jobs := s.inval.jobs ++ [j] } }
  else s

/-- R378: an invalidation is requested at the management function, or by a Primrose call that gives the record itself. -/
def execInvalidationRequest (request : InvalRequest) (s : State) : Out :=
  match request with
  | .call b =>
    event (if s.boot.stage < 3 then s
      else s.loadInval { addr := 0, loaded := false, tenant := 0, kind := 0, base := 0, len := 0 } b s.inval.jobs)
  | .register value => event (if s.mgmtUp then s.submitInval value else s)

/-- Whether an invalidation can go on: it has reached every die and nothing translated before is still under way, or every acknowledgement has come. -/
def State.invalReady (s : State) (j : InvalJob) : Bool :=
  if j.acked then !s.underWay 7 (.token j.token) else !s.underWay 10 (.token j.token) && !s.translatedOpen j

/-- R379: a submitted record is read from the host; every die drops the translations and acknowledges once nothing translated before is still under way; the
invalidation completes when all have. Two that overlap complete independently (R381). -/
def execInvalidationComplete (s : State) : Out :=
  match s.inval.jobs.find? (fun j => !j.loaded) with
  | some j =>
    let rest := s.inval.jobs.erase j
    if j.addr % 32 ≠ 0 then event { s with inval := { s.inval with refused := true, jobs := rest } }
    else
      match s.readPhys invalCore { policy := 4, home := 0, pa := j.addr % 2 ^ 52 } 32 with
      | .ok b => event (s.loadInval j b rest)
      | .wait p n => event (s.requestBytes invalCore 0 p n)
      | .busy => event s
      | .fault _ _ => event { s with inval := { s.inval with refused := true, jobs := rest } }
      | .ecc _ => event { s with inval := { s.inval with refused := true, jobs := rest } }
  | none =>
    match s.inval.jobs.find? s.invalReady with
    | some j =>
      if j.acked then event { s with inval := { s.inval with jobs := s.inval.jobs.erase j } }
      else
        let mark (x : InvalJob) : InvalJob := if x = j then { x with acked := true } else x
        event (State.ackInval { s.dropTranslations j with inval := { s.inval with jobs := s.inval.jobs.map mark } } j.token)
    | none => event s

/-! Registers (R385, R386, R388, R389; 16 R435). -/

/-- A host write of BAR0: of the management function, or of a compute function that a tenant names, after the writes before it (R387). -/
def execRegisterWrite (fn : HostFn) (offset : Nat) (value : Word) (s : State) : Out :=
  if fn.fn = 8 then
    match offset with
    | 0x0028 => execRecgo value none s
    | 0x0100 => execPcapWrite value s
    | 0x0118 => execTlimWrite value s
    | 0x0200 => event (if s.mgmtUp then { s with inval := { s.inval with addr := value.toNat } } else s)
    | 0x0208 => execInvalidationRequest (.register value) s
    | _ => event s
  else event (s.hostRequest fn.fn fn.via (fun s => s.regWrite fn.fn offset value))

/-! BAR2 (R387). -/

/-- The virtual address of an offset of BAR2. -/
def PcieFn.window (f : PcieFn) (offset : Nat) : Word := BitVec.ofNat 64 (f.wbase * 2 ^ 28 + offset)

/-- The places of a host access, when every piece may be reached; otherwise whether it has to wait for an `ahnd` handler (07 R200). -/
def State.hostPlaces (s : State) (core tenant : Nat) (need : Need) : List (Word × Nat) → Except Bool (List (Phys × Nat))
  | [] => .ok []
  | (va, n) :: rest =>
    match (s.translate core tenant va need).1 with
    | .error .held => .error true
    | .error _ => .error false
    | .ok p =>
      if p.policy = 4 ∨ p.isRegister = true then .error false
      else (s.hostPlaces core tenant need rest).map (fun l => (p, n) :: l)

/-- The stores of a host write, with where each begins in its data. -/
def placeElems (data : List Byte) (ix : Nat) : List (Phys × Nat) → List Elem
  | [] => []
  | (p, n) :: rest => Elem.new ix (.global p.policy p.home p.pa) 0 n (leValue (data.take n)) :: placeElems (data.drop n) (ix + 1) rest

/-- R387: a host write, which for function 8 goes to the recovery window while that is open (16 R429): performed at the lines' homes after every earlier write of the function, or discarded and logged. -/
def execHostBar2Write (to_ : HostFn) (offset : Nat) (data : List Byte) (s : State) : Out :=
  let fn := to_.fn
  let via := to_.via
  let f := s.fn fn
  if fn = 8 ∧ s.recovering = true then event (s.writeWindow offset data)
  else if !s.fnTakes fn via then event (s.emit (.report 2 (BitVec.ofNat 64 fn)))
  else if 2 ^ 36 < offset + data.length ∨ data = [] then event s
  else
    match s.hostPlaces (hostCore fn) f.tenant .store (linePieces (f.window offset) data.length (data.length / 64 + 2)) with
    | .error true => event s
    | .error false => event (s.emit (.report 10 (BitVec.ofNat 64 offset)))
    | .ok l =>
      let op := s.fresh.1
      let o : MemOp :=
        { core := hostCore fn, level := 8, task := 0, item := 0#64, ltag := 0, tenant := f.tenant, pc := 0, kind := .store, dest := .copy 0 0,
          ord := 2, vec := false, elems := placeElems data 0 l, fault := none, handler := none }
      event { s.fresh.2 with ops := kset s.fresh.2.ops op o }

/-- R387: a host read, after every earlier write of the function: its bytes, or Unsupported Request (report 2). -/
def execHostBar2Read (to_ : HostFn) (offset len : Nat) (s : State) : Out :=
  let fn := to_.fn
  let via := to_.via
  let f := s.fn fn
  let pieces := linePieces (f.window offset) len (len / 64 + 2)
  if fn = 8 ∧ s.recovering = true then event (s.emit (.hostReply (memGetBytes s.boot.window offset len)))
  else if !s.fnTakes fn via then event (s.emit (.report 2 (BitVec.ofNat 64 fn)))
  else if 2 ^ 36 < offset + len then event (s.emit (.hostReply (List.replicate len 0#8)))
  else if s.hostOpen fn then event s
  else
    match s.hostPlaces (hostCore fn) f.tenant .load pieces with
    | .error true => event s
    | .error false => event (s.emit (.report 2 (BitVec.ofNat 64 offset)))
    | .ok _ =>
    match s.engineRead (hostCore fn) f.tenant pieces with
    | .ok b s => event ((s.emit (.hostReply b)).dropPseudo (hostCore fn))
    | .later s => event s
    | .failed _ _ => event ((s.emit (.report 2 (BitVec.ofNat 64 offset))).dropPseudo (hostCore fn))

/-! The tenant table (R362, R363). -/

/-- Whether two sub-meshes share a router. -/
def meshesMeet (a b : TenantEntry) : Bool :=
  overlaps a.col0 a.width b.col0 b.width && overlaps a.row0 a.height b.row0 b.height

/-- Whether an entry can stand in the table beside the others. -/
def State.entryOk (s : State) (tenant : Nat) (e : TenantEntry) : Bool :=
  !e.valid ||
    (decide (1 ≤ e.width) && decide (1 ≤ e.height) && decide (e.col0 + e.width ≤ 32) && decide (e.row0 + e.height ≤ 16) &&
      e.root % 32768 == 0 && isComputeFn e.function && (s.fn e.function).open_ &&
      s.tenants.all (fun t => t.1 == tenant || !t.2.valid || (!meshesMeet t.2 e && t.2.function != e.function)))

/-- R363: an entry changes only while its tenant has no context and its interface is unlocked, and once an invalidation of the old tenant's translations has
completed (R379). -/
def execTenantTableWrite (tenant : Nat) (entry : TenantEntry) (s : State) : Out :=
  let gone : InvalJob := { addr := 0, loaded := true, tenant := tenant, kind := 1, base := 0, len := 0 }
  let refused := decide (64 ≤ tenant) || decide (s.boot.stage < 3) || s.ctxs.any (fun c => c.2.tenant == tenant) || !s.tenantOpen tenant ||
    !s.entryOk tenant entry
  if refused then event (s.emit (.report 12 (BitVec.ofNat 64 tenant)))
  else if s.translatedOpen gone then event (s.dropTranslations gone)
  else
    let s := match kget s.tenants tenant with
      | some old => if old.valid then s.modFn old.function (fun f => { f with tenant := 0, bound := false }) else s
      | none => s
    let s := (s.dropTranslations gone).sendInval s.nextId
    let s := { s with tenants := kset s.tenants tenant entry }
    event (if entry.valid then s.modFn entry.function (fun f => { f with tenant := tenant, bound := true, wbase := entry.wbase % 2 ^ 29 }) else s)

end Sys2Proof.Machine
end

