-- ==== Sys2Proof/Machine/ScaleUp.lean ====
section
/-! DEFINITION. The scale-up links (spec 14 R396 to R399): packets received, acknowledged, sent again, and what a failed connection does. -/

namespace Sys2Proof.Machine

/-- The links are trained in step 4 of the boot (16 R427). -/
def State.linksUp (s : State) : Bool := decide (4 ≤ s.boot.stage)

/-! What a packet delivers. -/

/-- The router at which a connection's messages enter (R398; 11 R317): on the edge of its Sluice, in the row of the target. -/
def State.entryRouter (s : State) (conn target : Nat) : Nat :=
  let col := if s.connDie conn = 0 then 0 else 31
  tileAt col (tileRow (targetRouter target col 0).1)

/-- A message of another package: what its ranks tell of a collective (11 R331, R332), an acknowledgement of channel words (11 R328), or one that goes on
over the Millrace. A kind that no router generates is dropped and logged (11 R320; report 8). -/
def State.deliverMsg (s : State) (conn : Nat) (m : Msg) : State :=
  if m.dpkg ≠ s.pkg then s
  else if m.kind = 7 then
    match m.ev with
    | .collective group block => s.peerBlock m group block
    | _ =>
      let a : Ack :=
        { sender := msgTarget m, target := creditKey m.src.pkg (coreKey m.src.space m.src.core), words := wordCount m, job := endOfJob m, token := 0,
          ltag := m.ltag }
      { s with acks := s.acks ++ [a] }
  else if confinedKind m.kind then s.inject (s.entryRouter conn (msgTarget m)) { m with after := [], rangeOf := none } 1 0
  else if 11 ≤ m.kind then s.emit (.report 8 m.item)
  else s

/-- Scratch that another package names (07 R225), as the sender coded it (log entry 22). -/
def State.remoteScratch (s : State) (tenant code n : Nat) : Except Nat Loc :=
  let tile := bitsOf code 48 40
  let sel := bitsOf code 39 36
  let off := code % 2 ^ 36
  if !s.inMesh tenant tile then .error 4
  else if (s.die (dieOfTile tile)).inReset then .error 1
  else
    match s.ctx (s.tile tile).launch with
    | none => .error 1
    | some c =>
      if c.tenant ≠ tenant then .error 4
      else
        let e := c.allocEntry tile sel
        let holder := if bitOf e 23 then bitsOf e 32 24 else tile
        let h := c.allocEntry holder sel
        if sel = 15 ∨ bitsOf h 19 10 = 0 then .error 1
        else if 512 * bitsOf h 19 10 < off + n then .error 2
        else .ok (.array holder (512 * bitsOf h 9 0 + off))

/-- The home of a line that this package owns for others, by its own translation (10 R280): that of the tenant that asks, else of another; without one the
slice (log entry 25). -/
def State.ownHome (s : State) (tenant pa : Nat) : Phys :=
  let others := (s.tenants.filter (fun t => t.1 != tenant)).map (·.1)
  match (tenant :: others).findSome? (fun t => (s.leafFor t pa (fun l => decide (bitsOf l 7 5 < 3))).map (fun l => (t, l))) with
  | some (t, l) => s.homeOf 4096 t l pa .store
  | none => { policy := 0, home := sliceOf pa, pa := pa }

/-- The place of a request of another package. -/
def State.remoteLoc (s : State) (m : MemPacket) : Except Nat Loc :=
  if scratchBase ≤ m.addr then s.remoteScratch m.tenant (m.addr - scratchBase) m.size
  else if inAperture m.addr then .error 2
  else
    let p := s.ownHome m.tenant m.addr
    .ok (.global p.policy p.home p.pa)

/-- The virtual address of a request: an atomic carries it, for its handler (07 R200). -/
def requestVa (m : MemPacket) : Nat := match m.atomic with | some _ => leValue m.data | none => m.addr

/-- What a request asks for. -/
def MemPacketKind (m : MemPacket) : OpKind :=
  match m.atomic with
  | some (op6, ty, arg, cmp) => (match slotOp Op.aadd.page op6 with | some op => .atomic op ty arg cmp | none => .load)
  | none => if m.write then .store else .load

/-- A request of another package becomes an operation here, whose answer goes back. -/
def State.deliverRequest (s : State) (peer : Nat) (m : MemPacket) : State :=
  match s.remoteLoc m with
  | .error f =>
    let r : MemPacket :=
      { reply := true, op := m.op, elem := m.elem, write := m.write, atomic := none, addr := 0, size := m.size, data := [],
        src := { core := 0, pkg := s.pkg, space := 0 }, tenant := 0, ltag := 0, item := 0#64, fault := f, raw := m.raw }
    (s.sendScale peer 0 none (some r)).getD s
  | .ok loc =>
    let id := s.fresh.1
    let o : MemOp :=
      { core := 65536 + coreKey m.src.space m.src.core, level := 8, task := 0, item := m.item, ltag := m.ltag, tenant := m.tenant,
        pc := 0, kind := MemPacketKind m, dest := .remote peer m.op m.elem m.raw, ord := 0, vec := false,
        elems := [Elem.new 0 loc (requestVa m) m.size (leValue m.data)], fault := none, handler := none }
    { s.fresh.2 with ops := kset s.fresh.2.ops id o }

/-- The fault of a reply. -/
def replyFault (n : Nat) : HomeFault :=
  match n with | 2 => .perm | 3 => .ecc | 4 => .tenant | _ => .absent

/-- An access of a vector store that its home in another package has checked, and which may now be made (05 R157). -/
def MemOp.checked (o : MemOp) (ix : Nat) : MemOp :=
  { o with elems := o.elems.map (fun (e : Elem) => if e.ix = ix then { e with taken := true, asked := false } else e) }

/-- The answer to a request of this package: it observes what releases stand at its place here (10 R304). The item of an `ahnd` whose handler has been
discarded is reported (07 R200). -/
def State.deliverReply (s : State) (m : MemPacket) : State :=
  match kget s.ops m.op with
  | none => s
  | some o =>
    match o.elems.find? (fun e => e.ix == m.elem && e.asked && !e.done) with
    | none => s
    | some e =>
      if m.fault = 0 then
        (if o.unchecked e then s.modOp m.op (fun o => o.checked m.elem) else s.answered m.op m.elem (leValue m.data))
      else
        (if m.fault = 5 then s.report o.ltag failedTimeout 0 o.item (BitVec.ofNat 64 o.pc) 0#64 else s).homeFault m.op m.elem (replyFault m.fault)

/-- READY or GO of a gang reaches this package (13 R367). -/
def State.deliverGang (s : State) (peer : Nat) (g : GangMsg) : State :=
  if g.ready then s.holdReady g.gang peer g.time else s.holdGo g.gang g.time

/-- A packet released to the package. -/
def State.deliverPacket (s : State) (conn : Nat) (p : ScalePacket) : State :=
  let s := match p.msg with | some m => s.deliverMsg conn m | none => s
  let s := match p.gang with | some g => s.deliverGang p.peer g | none => s
  match p.mem with
  | some m => if m.reply then s.deliverReply m else s.deliverRequest p.peer m
  | none => s

/-! Receiving (R397). -/

/-- How far a sequence number lies ahead of another. -/
def seqAhead (a b : Nat) : Nat := (a + 65536 - b % 65536) % 65536

/-- The kept packets that now stand in sequence released; those of the relaxed class have been released before. -/
def State.releaseStash (s : State) (k : Nat) : Nat → State
  | 0 => s
  | n + 1 =>
    let c := s.conn k
    match c.stash.find? (fun p => p.seq == c.expect) with
    | none => s
    | some p =>
      let s := s.modConn k (fun c => { c with expect := (c.expect + 1) % 65536, stash := c.stash.erase p })
      (if p.cls = 2 then s else s.deliverPacket k p).releaseStash k n

/-- The sequence numbers missing below the highest one received. -/
def Conn.gaps (c : Conn) : List Nat :=
  let top := (c.stash.map (fun p => seqAhead p.seq c.expect)).foldl max 0
  ((List.range top).map (fun i => (c.expect + i) % 65536)).filter (fun n => !c.stash.any (fun p => p.seq == n))

/-- The acknowledgement: all below `expect`, and the gaps. -/
def State.ackConn (s : State) (peer cls : Nat) : State :=
  let c := s.conn (connKey peer cls)
  s.emit (.scaleAck peer cls c.expect c.gaps)

/-- A packet of the current epoch. -/
def State.receivePacket (s : State) (k : Nat) (p : ScalePacket) : State :=
  let c := s.conn k
  let d := seqAhead p.seq c.expect
  if d = 0 then
    ((s.modConn k (fun c => { c with expect := (c.expect + 1) % 65536 })).deliverPacket k p).releaseStash k 256
  else if d < 256 ∧ c.stash.all (fun q => q.seq != p.seq) = true then
    let s := s.modConn k (fun c => { c with stash := c.stash ++ [p] })
    if p.cls = 2 then s.deliverPacket k p else s
  else s

/-- R397: a packet of a peer. One of another epoch is discarded (R399), and one with a link error, which is sent again (R401); a duplicate is acknowledged
again. -/
def execScaleupPacketReceive (packet : ScalePacket) (s : State) : Out :=
  let k := connKey packet.peer packet.cls
  if !s.linksUp || decide (4 ≤ packet.cls) || packet.epoch != (s.conn k).epoch then event s
  else
    match offLink packet, s.loadConn k with
    | none, _ => event s
    | _, none => event s
    | some packet, some s => event ((s.receivePacket k packet).ackConn packet.peer packet.cls)

/-! Failure (R399). -/

/-- A message that a failed connection carried. The number of an ordered one is consumed by a blank, which goes before the next message of its pair that can
leave (11 R324). -/
def State.lostMessage (s : State) (conn : Nat) (m : Msg) : State :=
  let s := if m.ordered && confinedKind m.kind then { s with voids := s.voids ++ [voidOf m] } else s
  if m.blank then s
  else
  match m.kind with
  | 0 => s.refuse (s.entryRouter conn (coreKey m.src.space m.src.core)) m 2
  | 2 => s.refuse (s.entryRouter conn (coreKey m.src.space m.src.core)) m 2
  | 7 =>
    match m.ev with
    | .collective group block =>
      ((s.colls.filter (fun c => c.2.tenant == m.tenant && c.2.group == group && c.2.ord == m.handler.toNat)).map (·.1)).foldl
        (fun s id => s.failBlock id (if m.endw || m.gov then 0 else block) failedAbsent []) s
    | _ => s
  | 3 => s.emit (.report 6 m.item)
  | _ => s.undelivered m

/-- A connection fails: what it carried is refused, reported or ABSENT, and the failure is logged (report 9). -/
def State.failConn (s : State) (peer cls : Nat) : State :=
  let k := connKey peer cls
  let c := s.conn k
  let packets := c.unacked.map (·.packet) ++ c.waiting
  let s := s.modConn k (fun c => { c with failed := true, unacked := [], waiting := [], stash := [] })
  let s := (packets.filterMap (·.msg)).foldl (fun s m => s.lostMessage k m) s
  let waits (e : Elem) : Bool := e.asked && !e.done && e.bad.isNone && (match e.loc with | .global 3 home _ => home == peer | _ => false)
  let lost : List (Nat × Nat) := s.ops.flatMap (fun o => (o.2.elems.filter waits).map (fun e => (o.1, e.ix)))
  let s := if cls = 0 then lost.foldl (fun s x => s.homeFault x.1 x.2 .absent) s else s
  s.emit (.report 9 (BitVec.ofNat 64 k))

/-! Acknowledgements and sending again (R397). -/

/-- A packet sent once more; after 16 sends the connection fails. -/
def State.resend (s : State) (peer cls seq : Nat) : State :=
  let k := connKey peer cls
  match (s.conn k).unacked.find? (fun x => x.packet.seq == seq) with
  | none => s
  | some x =>
    if 16 ≤ x.count then s.failConn peer cls
    else
      let s := s.modConn k (fun c =>
        { c with unacked := c.unacked.map (fun y => if y.packet.seq = seq then { y with count := y.count + 1, time := s.time } else y) })
      s.sendPacket x.packet

/-- R397: a peer's acknowledgement: everything below `upTo` has come; what is reported missing is sent again; waiting packets of every connection go on
(R398). -/
def execScaleupAck (peer cls upTo : Nat) (missing : List Nat) (s : State) : Out :=
  let k := connKey peer cls
  if !s.linksUp || decide (4 ≤ cls) then event s
  else
    let came (x : Sent) : Bool := decide (seqAhead upTo x.packet.seq ≤ 256) && seqAhead upTo x.packet.seq != 0
    let s := s.modConn k (fun c => { c with unacked := c.unacked.filter (fun x => !came x) })
    let s := missing.foldl (fun s n => s.resend peer cls n) s
    event s.pumpAll

/-- R397: a packet without acknowledgement for 2 µs is sent again. -/
def execScaleupRetransmitTimeout (peer cls seq : Nat) (s : State) : Out :=
  event (match (s.conn (connKey peer cls)).unacked.find? (fun x => x.packet.seq == seq) with
    | some x => if x.time + 2000 ≤ s.time then (s.resend peer cls seq).pumpAll else s
    | none => s)

/-! Routes, ports, restoration (R396, R397, R399). -/

/-- R396, R399: Primrose writes the route of a package; connections with unacknowledged packets fail when it becomes unreachable. -/
def execRouteTableWrite (pkg mask : Nat) (s : State) : Out :=
  if 1024 ≤ pkg ∨ s.boot.stage < 3 then event s
  else
    let m := mask % 2 ^ 18
    let s' := { s with routes := kset s.routes pkg m }
    if m = 0 then
      event ([0, 1, 2, 3].foldl (fun s cls =>
        let c := s.conn (connKey pkg cls)
        if c.unacked.isEmpty && c.waiting.isEmpty then s else s.failConn pkg cls) s').pumpAll
    else event s'.pumpAll

/-- R399: Primrose restores a connection with a new epoch; what it still carried fails with the old one. -/
def execConnectionRestore (peer cls : Nat) (s : State) : Out :=
  let k := connKey peer cls
  if !s.linksUp || decide (4 ≤ cls) || decide (1024 ≤ peer) then event s
  else
    let s := if (s.conn k).unacked.isEmpty && (s.conn k).waiting.isEmpty then s else s.failConn peer cls
    event (s.modConn k (fun c => { c with failed := false, epoch := c.epoch + 1, nextSeq := 0, expect := 0, stash := [] })).pumpAll

/-- R397: a port goes down. -/
def execScaleupLinkDown (port : Nat) (s : State) : Out :=
  event (if decide (port < 18) && !s.portsDown.contains port then { s with portsDown := s.portsDown ++ [port] } else s)

/-- R397: a port is up again. -/
def execScaleupLinkUp (port : Nat) (s : State) : Out :=
  event { s with portsDown := s.portsDown.erase port }

end Sys2Proof.Machine
end

