-- ==== Sys2Proof/Machine/Dispatch.lean ====
section
/-! DEFINITION. One arm for each instruction: its meaning. -/

namespace Sys2Proof.Machine

def exec (i : Instr) (s : State) : Host.Outcome State Fault Refusal :=
  match i with
  | .add w => Sys2Proof.Machine.execAdd w s
  | .sub w => Sys2Proof.Machine.execSub w s
  | .and w => Sys2Proof.Machine.execAnd w s
  | .or w => Sys2Proof.Machine.execOr w s
  | .xor w => Sys2Proof.Machine.execXor w s
  | .andn w => Sys2Proof.Machine.execAndn w s
  | .shl w => Sys2Proof.Machine.execShl w s
  | .shr w => Sys2Proof.Machine.execShr w s
  | .sar w => Sys2Proof.Machine.execSar w s
  | .mul w => Sys2Proof.Machine.execMul w s
  | .mulh w => Sys2Proof.Machine.execMulh w s
  | .div w => Sys2Proof.Machine.execDiv w s
  | .rem w => Sys2Proof.Machine.execRem w s
  | .min w => Sys2Proof.Machine.execMin w s
  | .max w => Sys2Proof.Machine.execMax w s
  | .mov w => Sys2Proof.Machine.execMov w s
  | .li w => Sys2Proof.Machine.execLi w s
  | .lih w => Sys2Proof.Machine.execLih w s
  | .addi w => Sys2Proof.Machine.execAddi w s
  | .cmpeq w => Sys2Proof.Machine.execCmpeq w s
  | .cmpne w => Sys2Proof.Machine.execCmpne w s
  | .cmplt w => Sys2Proof.Machine.execCmplt w s
  | .cmpltn w => Sys2Proof.Machine.execCmpltn w s
  | .cmple w => Sys2Proof.Machine.execCmple w s
  | .sel w => Sys2Proof.Machine.execSel w s
  | .lea w => Sys2Proof.Machine.execLea w s
  | .clz w => Sys2Proof.Machine.execClz w s
  | .popc w => Sys2Proof.Machine.execPopc w s
  | .sext w => Sys2Proof.Machine.execSext w s
  | .zext w => Sys2Proof.Machine.execZext w s
  | .b w => Sys2Proof.Machine.execB w s
  | .bz w => Sys2Proof.Machine.execBz w s
  | .bnz w => Sys2Proof.Machine.execBnz w s
  | .beq w => Sys2Proof.Machine.execBeq w s
  | .bne w => Sys2Proof.Machine.execBne w s
  | .blt w => Sys2Proof.Machine.execBlt w s
  | .bge w => Sys2Proof.Machine.execBge w s
  | .bltn w => Sys2Proof.Machine.execBltn w s
  | .call w => Sys2Proof.Machine.execCall w s
  | .ret w => Sys2Proof.Machine.execRet w s
  | .jr w => Sys2Proof.Machine.execJr w s
  | .loop w => Sys2Proof.Machine.execLoop w s
  | .ld w => Sys2Proof.Machine.execLd w s
  | .st w => Sys2Proof.Machine.execSt w s
  | .ldf w => Sys2Proof.Machine.execLdf w s
  | .stf w => Sys2Proof.Machine.execStf w s
  | .lsp w => Sys2Proof.Machine.execLsp w s
  | .ssp w => Sys2Proof.Machine.execSsp w s
  | .vadd w => Sys2Proof.Machine.execVadd w s
  | .vmul w => Sys2Proof.Machine.execVmul w s
  | .vfma w => Sys2Proof.Machine.execVfma w s
  | .vld w => Sys2Proof.Machine.execVld w s
  | .vst w => Sys2Proof.Machine.execVst w s
  | .vbcast w => Sys2Proof.Machine.execVbcast w s
  | .lead w => Sys2Proof.Machine.execLead w s
  | .follow w => Sys2Proof.Machine.execFollow w s
  | .detach w => Sys2Proof.Machine.execDetach w s
  | .wait w => Sys2Proof.Machine.execWait w s
  | .claim w => Sys2Proof.Machine.execClaim w s
  | .release w => Sys2Proof.Machine.execRelease w s
  | .vaddP1 w => Sys2Proof.Machine.execVaddP1 w s
  | .vsub w => Sys2Proof.Machine.execVsub w s
  | .vmulP1 w => Sys2Proof.Machine.execVmulP1 w s
  | .vfmaP1 w => Sys2Proof.Machine.execVfmaP1 w s
  | .vfms w => Sys2Proof.Machine.execVfms w s
  | .vfnma w => Sys2Proof.Machine.execVfnma w s
  | .vmin w => Sys2Proof.Machine.execVmin w s
  | .vmax w => Sys2Proof.Machine.execVmax w s
  | .vabs w => Sys2Proof.Machine.execVabs w s
  | .vneg w => Sys2Proof.Machine.execVneg w s
  | .vdiv w => Sys2Proof.Machine.execVdiv w s
  | .vsqrt w => Sys2Proof.Machine.execVsqrt w s
  | .vrcp w => Sys2Proof.Machine.execVrcp w s
  | .vrsq w => Sys2Proof.Machine.execVrsq w s
  | .vexp2 w => Sys2Proof.Machine.execVexp2 w s
  | .vlog2 w => Sys2Proof.Machine.execVlog2 w s
  | .vtanh w => Sys2Proof.Machine.execVtanh w s
  | .viadd w => Sys2Proof.Machine.execViadd w s
  | .visub w => Sys2Proof.Machine.execVisub w s
  | .vimul w => Sys2Proof.Machine.execVimul w s
  | .vimad w => Sys2Proof.Machine.execVimad w s
  | .vand w => Sys2Proof.Machine.execVand w s
  | .vor w => Sys2Proof.Machine.execVor w s
  | .vxor w => Sys2Proof.Machine.execVxor w s
  | .vshl w => Sys2Proof.Machine.execVshl w s
  | .vshr w => Sys2Proof.Machine.execVshr w s
  | .vsar w => Sys2Proof.Machine.execVsar w s
  | .vcmp w => Sys2Proof.Machine.execVcmp w s
  | .vsel w => Sys2Proof.Machine.execVsel w s
  | .vcvt w => Sys2Proof.Machine.execVcvt w s
  | .vqnt w => Sys2Proof.Machine.execVqnt w s
  | .vdqnt w => Sys2Proof.Machine.execVdqnt w s
  | .vbpn w => Sys2Proof.Machine.execVbpn w s
  | .vbpj w => Sys2Proof.Machine.execVbpj w s
  | .vext w => Sys2Proof.Machine.execVext w s
  | .vins w => Sys2Proof.Machine.execVins w s
  | .vperm w => Sys2Proof.Machine.execVperm w s
  | .vslide w => Sys2Proof.Machine.execVslide w s
  | .vzip w => Sys2Proof.Machine.execVzip w s
  | .vunzip w => Sys2Proof.Machine.execVunzip w s
  | .vredsum w => Sys2Proof.Machine.execVredsum w s
  | .vredmax w => Sys2Proof.Machine.execVredmax w s
  | .vredmin w => Sys2Proof.Machine.execVredmin w s
  | .vscan w => Sys2Proof.Machine.execVscan w s
  | .vchadd w => Sys2Proof.Machine.execVchadd w s
  | .vchmax w => Sys2Proof.Machine.execVchmax w s
  | .vchst w => Sys2Proof.Machine.execVchst w s
  | .kand w => Sys2Proof.Machine.execKand w s
  | .kor w => Sys2Proof.Machine.execKor w s
  | .kxor w => Sys2Proof.Machine.execKxor w s
  | .knot w => Sys2Proof.Machine.execKnot w s
  | .kpopc w => Sys2Proof.Machine.execKpopc w s
  | .kmov w => Sys2Proof.Machine.execKmov w s
  | .kffs w => Sys2Proof.Machine.execKffs w s
  | .mulhn w => Sys2Proof.Machine.execMulhn w s
  | .divn w => Sys2Proof.Machine.execDivn w s
  | .remn w => Sys2Proof.Machine.execRemn w s
  | .minn w => Sys2Proof.Machine.execMinn w s
  | .maxn w => Sys2Proof.Machine.execMaxn w s
  | .ctz w => Sys2Proof.Machine.execCtz w s
  | .rol w => Sys2Proof.Machine.execRol w s
  | .bgen w => Sys2Proof.Machine.execBgen w s
  | .cmplen w => Sys2Proof.Machine.execCmplen w s
  | .mstat w => Sys2Proof.Machine.execMstat w s
  | .mswap w => Sys2Proof.Machine.execMswap w s
  | .mstream w => Sys2Proof.Machine.execMstream w s
  | .mstreamt w => Sys2Proof.Machine.execMstreamt w s
  | .mf64 w => Sys2Proof.Machine.execMf64 w s
  | .mbpn4 w => Sys2Proof.Machine.execMbpn4 w s
  | .mbpn8 w => Sys2Proof.Machine.execMbpn8 w s
  | .mzero w => Sys2Proof.Machine.execMzero w s
  | .mrd w => Sys2Proof.Machine.execMrd w s
  | .mwr w => Sys2Proof.Machine.execMwr w s
  | .macs w => Sys2Proof.Machine.execMacs w s
  | .msac w => Sys2Proof.Machine.execMsac w s
  | .mtest w => Sys2Proof.Machine.execMtest w s
  | .rtab w => Sys2Proof.Machine.execRtab w s
  | .rank w => Sys2Proof.Machine.execRank w s
  | .rankch w => Sys2Proof.Machine.execRankch w s
  | .rstream w => Sys2Proof.Machine.execRstream w s
  | .rstreamch w => Sys2Proof.Machine.execRstreamch w s
  | .rrecon w => Sys2Proof.Machine.execRrecon w s
  | .ldsx w => Sys2Proof.Machine.execLdsx w s
  | .aadd w => Sys2Proof.Machine.execAadd w s
  | .amin w => Sys2Proof.Machine.execAmin w s
  | .amax w => Sys2Proof.Machine.execAmax w s
  | .aminn w => Sys2Proof.Machine.execAminn w s
  | .amaxn w => Sys2Proof.Machine.execAmaxn w s
  | .aand w => Sys2Proof.Machine.execAand w s
  | .aor w => Sys2Proof.Machine.execAor w s
  | .axor w => Sys2Proof.Machine.execAxor w s
  | .aswp w => Sys2Proof.Machine.execAswp w s
  | .acas w => Sys2Proof.Machine.execAcas w s
  | .afadd w => Sys2Proof.Machine.execAfadd w s
  | .ahnd w => Sys2Proof.Machine.execAhnd w s
  | .fence w => Sys2Proof.Machine.execFence w s
  | .spawn w => Sys2Proof.Machine.execSpawn w s
  | .succ w => Sys2Proof.Machine.execSucc w s
  | .relev w => Sys2Proof.Machine.execRelev w s
  | .endTask w => Sys2Proof.Machine.execEndTask w s
  | .getid w => Sys2Proof.Machine.execGetid w s
  | .tmr w => Sys2Proof.Machine.execTmr w s
  | .migr w => Sys2Proof.Machine.execMigr w s
  | .send w => Sys2Proof.Machine.execSend w s
  | .reply w => Sys2Proof.Machine.execReply w s
  | .cmask w => Sys2Proof.Machine.execCmask w s
  | .cunmask w => Sys2Proof.Machine.execCunmask w s
  | .chbind w => Sys2Proof.Machine.execChbind w s
  | .arrive w => Sys2Proof.Machine.execArrive w s
  | .bwait w => Sys2Proof.Machine.execBwait w s
  | .cpy w => Sys2Proof.Machine.execCpy w s
  | .cpyx w => Sys2Proof.Machine.execCpyx w s
  | .cpytst w => Sys2Proof.Machine.execCpytst w s
  | .lxload w => Sys2Proof.Machine.execLxload w s
  | .coll w => Sys2Proof.Machine.execColl w s
  | .uepost w => Sys2Proof.Machine.execUepost w s
  | .uepop w => Sys2Proof.Machine.execUepop w s
  | .ctrw w => Sys2Proof.Machine.execCtrw w s
  | .vlds w => Sys2Proof.Machine.execVlds w s
  | .vsts w => Sys2Proof.Machine.execVsts w s
  | .vgather w => Sys2Proof.Machine.execVgather w s
  | .baddq w => Sys2Proof.Machine.execBaddq w s
  | .vscatter w => Sys2Proof.Machine.execVscatter w s
  | .trap w => Sys2Proof.Machine.execTrap w s
  | .eret w => Sys2Proof.Machine.execEret w s
  | .getc w => Sys2Proof.Machine.execGetc w s
  | .setc w => Sys2Proof.Machine.execSetc w s
  | .rdtime w => Sys2Proof.Machine.execRdtime w s
  | .fencei w => Sys2Proof.Machine.execFencei w s
  | .brk w => Sys2Proof.Machine.execBrk w s
  | .idle w => Sys2Proof.Machine.execIdle w s
  | .messageEjection msg => Sys2Proof.Machine.execMessageEjection msg s
  | .holdStoreEntry router => Sys2Proof.Machine.execHoldStoreEntry router s
  | .framePush core => Sys2Proof.Machine.execFramePush core s
  | .trapHandlerStart core => Sys2Proof.Machine.execTrapHandlerStart core s
  | .vectorBundleCompletion core level => Sys2Proof.Machine.execVectorBundleCompletion core level s
  | .matrixJobStart core level => Sys2Proof.Machine.execMatrixJobStart core level s
  | .matrixUnit tile => Sys2Proof.Machine.execMatrixUnit tile s
  | .matrixJobCompletion core level => Sys2Proof.Machine.execMatrixJobCompletion core level s
  | .loadCompletion op => Sys2Proof.Machine.execLoadCompletion op s
  | .storePerformed op => Sys2Proof.Machine.execStorePerformed op s
  | .homeAccess op elem => Sys2Proof.Machine.execHomeAccess op elem s
  | .cacheFill line => Sys2Proof.Machine.execCacheFill line s
  | .atomicUnitOp op => Sys2Proof.Machine.execAtomicUnitOp op s
  | .ahndTimeout op => Sys2Proof.Machine.execAhndTimeout op s
  | .timerExpiry core timer => Sys2Proof.Machine.execTimerExpiry core timer s
  | .followTimeout core => Sys2Proof.Machine.execFollowTimeout core s
  | .forwardedBundle core => Sys2Proof.Machine.execForwardedBundle core s
  | .followerOverrunDetach core => Sys2Proof.Machine.execFollowerOverrunDetach core s
  | .migrationSend core => Sys2Proof.Machine.execMigrationSend core s
  | .migrationArrival core => Sys2Proof.Machine.execMigrationArrival core s
  | .endNotice core task => Sys2Proof.Machine.execEndNotice core task s
  | .governorPlacement die => Sys2Proof.Machine.execGovernorPlacement die s
  | .governorForward die task => Sys2Proof.Machine.execGovernorForward die task s
  | .rangeRetire die task => Sys2Proof.Machine.execRangeRetire die task s
  | .stealRequest die neighbour => Sys2Proof.Machine.execStealRequest die neighbour s
  | .stealAnswer die neighbour => Sys2Proof.Machine.execStealAnswer die neighbour s
  | .barrierArrival msg => Sys2Proof.Machine.execBarrierArrival msg s
  | .channelAck sender target words => Sys2Proof.Machine.execChannelAck sender target words s
  | .copySegmentStart job => Sys2Proof.Machine.execCopySegmentStart job s
  | .copySegmentPerformed job seg => Sys2Proof.Machine.execCopySegmentPerformed job seg s
  | .copyJobCompletion job => Sys2Proof.Machine.execCopyJobCompletion job s
  | .multicastAck job superGroup => Sys2Proof.Machine.execMulticastAck job superGroup s
  | .copyTimeout job => Sys2Proof.Machine.execCopyTimeout job s
  | .collectiveBlockCombine coll block => Sys2Proof.Machine.execCollectiveBlockCombine coll block s
  | .collectiveJobCompletion coll => Sys2Proof.Machine.execCollectiveJobCompletion coll s
  | .collectiveBlockTimeout coll block => Sys2Proof.Machine.execCollectiveBlockTimeout coll block s
  | .cqOverflowEntry tag => Sys2Proof.Machine.execCqOverflowEntry tag s
  | .ringEntryTake fn queue => Sys2Proof.Machine.execRingEntryTake fn queue s
  | .launchStart tag tile => Sys2Proof.Machine.execLaunchStart tag tile s
  | .launchEnd tag => Sys2Proof.Machine.execLaunchEnd tag s
  | .instanceComplete tag binding inst => Sys2Proof.Machine.execInstanceComplete tag binding inst s
  | .invalidationComplete => Sys2Proof.Machine.execInvalidationComplete s
  | .ueJobCompletion job => Sys2Proof.Machine.execUeJobCompletion job s
  | .reservedEncoding bad => Sys2Proof.Machine.execReservedEncoding bad s
  | .routerFlitPlacement => Sys2Proof.Machine.execRouterFlitPlacement s
  | .arrivalAcknowledgement core => Sys2Proof.Machine.execArrivalAcknowledgement core s
  | .launchDoorbell fn queue tail => Sys2Proof.Machine.execLaunchDoorbell fn queue tail s
  | .queueOverClear fn queue => Sys2Proof.Machine.execQueueOverClear fn queue s
  | .queueFaultClear fn queue => Sys2Proof.Machine.execQueueFaultClear fn queue s
  | .registerWrite fn offset value => Sys2Proof.Machine.execRegisterWrite fn offset value s
  | .invalidationRequest request => Sys2Proof.Machine.execInvalidationRequest request s
  | .hostBar2Write fn offset data => Sys2Proof.Machine.execHostBar2Write fn offset data s
  | .hostBar2Read fn offset len => Sys2Proof.Machine.execHostBar2Read fn offset len s
  | .pcieCompletion op elem data ok => Sys2Proof.Machine.execPcieCompletion op elem data ok s
  | .pcieCompletionTimeout op elem => Sys2Proof.Machine.execPcieCompletionTimeout op elem s
  | .functionLevelReset fn => Sys2Proof.Machine.execFunctionLevelReset fn s
  | .dieReset die => Sys2Proof.Machine.execDieReset die s
  | .dieReady die => Sys2Proof.Machine.execDieReady die s
  | .ideIntegrityFailure stream => Sys2Proof.Machine.execIdeIntegrityFailure stream s
  | .stopInterface fn => Sys2Proof.Machine.execStopInterface fn s
  | .scaleupPacketReceive packet => Sys2Proof.Machine.execScaleupPacketReceive packet s
  | .scaleupAck peer cls upTo missing => Sys2Proof.Machine.execScaleupAck peer cls upTo missing s
  | .scaleupRetransmitTimeout peer cls seq => Sys2Proof.Machine.execScaleupRetransmitTimeout peer cls seq s
  | .uePacketReceive packet => Sys2Proof.Machine.execUePacketReceive packet s
  | .ueReadRequest packet => Sys2Proof.Machine.execUeReadRequest packet s
  | .ueReadResponse packet => Sys2Proof.Machine.execUeReadResponse packet s
  | .ueAck ctx endpoint cumulative bitmap => Sys2Proof.Machine.execUeAck ctx endpoint cumulative bitmap s
  | .ueRetransmitTimeout ctx endpoint psn => Sys2Proof.Machine.execUeRetransmitTimeout ctx endpoint psn s
  | .gangReady pkg at_ => Sys2Proof.Machine.execGangReady pkg at_ s
  | .gangGo at_ => Sys2Proof.Machine.execGangGo at_ s
  | .gangSwitch at_ => Sys2Proof.Machine.execGangSwitch at_ s
  | .tileWithdrawal tile => Sys2Proof.Machine.execTileWithdrawal tile s
  | .patrolScrub line finding => Sys2Proof.Machine.execPatrolScrub line finding s
  | .powerGood slotA slotB dramOk linkOk => Sys2Proof.Machine.execPowerGood slotA slotB dramOk linkOk s
  | .recgo value image => Sys2Proof.Machine.execRecgo value image s
  | .pcapWrite value => Sys2Proof.Machine.execPcapWrite value s
  | .tlimWrite value => Sys2Proof.Machine.execTlimWrite value s
  | .counterRead register => Sys2Proof.Machine.execCounterRead register s
  | .powerControlPeriod watts => Sys2Proof.Machine.execPowerControlPeriod watts s
  | .temperatureSample compute bedstone sluice => Sys2Proof.Machine.execTemperatureSample compute bedstone sluice s
  | .getCertificate fn => Sys2Proof.Machine.execGetCertificate fn s
  | .challenge fn => Sys2Proof.Machine.execChallenge fn s
  | .getMeasurements fn signed => Sys2Proof.Machine.execGetMeasurements fn signed s
  | .keyExchange fn => Sys2Proof.Machine.execKeyExchange fn s
  | .ideKm fn stream key => Sys2Proof.Machine.execIdeKm fn stream key s
  | .lockInterface fn => Sys2Proof.Machine.execLockInterface fn s
  | .startInterface fn stream => Sys2Proof.Machine.execStartInterface fn stream s
  | .configurationRequest fn write => Sys2Proof.Machine.execConfigurationRequest fn write s
  | .tenantTableWrite tenant entry => Sys2Proof.Machine.execTenantTableWrite tenant entry s
  | .routeTableWrite pkg mask => Sys2Proof.Machine.execRouteTableWrite pkg mask s
  | .connectionRestore peer cls => Sys2Proof.Machine.execConnectionRestore peer cls s
  | .scaleupLinkDown port => Sys2Proof.Machine.execScaleupLinkDown port s
  | .scaleupLinkUp port => Sys2Proof.Machine.execScaleupLinkUp port s
  | .contextHalt tag => Sys2Proof.Machine.execContextHalt tag s
  | .haltedContextResume tag => Sys2Proof.Machine.execHaltedContextResume tag s
  | .networkContextWrite index context => Sys2Proof.Machine.execNetworkContextWrite index context s
  | .policySetting policy value => Sys2Proof.Machine.execPolicySetting policy value s
  | .gangSwitchPreparation at_ incoming outgoing pkgs ready => Sys2Proof.Machine.execGangSwitchPreparation at_ incoming outgoing pkgs ready s
  | .bedstoneDieReset die => Sys2Proof.Machine.execBedstoneDieReset die s
  | .powerLoss leafProgrammed => Sys2Proof.Machine.execPowerLoss leafProgrammed s

end Sys2Proof.Machine
end

