-- ==== Sys2Proof/Machine/SoftErrors.lean ====
section
/-! DEFINITION. Soft errors as they come to light (spec 15 R423; log entry 16). -/

namespace Sys2Proof.Machine

/-- R423: the job at the head of a queue fails with FAILED-ECC. -/
def State.jobEcc (s : State) (core level : Nat) : State :=
  match s.jobsOf core level with
  | j :: rest =>
    if j.started && !j.finished then
      ((((s.setJobs core level rest).modTask core j.task (fun f => f.modLv (fun l => { l with tlc := l.tlc - 1 }))).modCore core (fun c =>
        c.markRing j.seq (fun e => { e with flt := true }))).report j.ltag failedEcc 0 j.item (BitVec.ofNat 64 j.pc) 0#64).count 0x0410 1
    else s
  | [] => s

/-- R423: the accesses of an operation to a line fail with FAILED-ECC. -/
def MemOp.eccAt (o : MemOp) (line : Nat) : MemOp :=
  MemOp.settle { o with elems := o.elems.map (fun (e : Elem) => if !e.done && e.bad.isNone && locsMeet e.loc e.size (.global 0 0 (64 * line)) 64 then { e with bad := some .ecc } else e) }

/-- R423: a soft error comes to light. A clean line is filled again from its backing store; a dirty one is lost, and the access that found the error
fails; a frame is discarded, a job fails. -/
def State.softError (s : State) (e : SoftError) : State :=
  match e with
  | .corrected line => match line with | some l => (s.count 0x0408 1).rowError (64 * l / 4096) | none => s.count 0x0408 1
  | .frame core =>
    match s.top core with
    | some f => if f.isAway || s.stilled core then s else (s.discard core failedEcc 0 (BitVec.ofNat 64 f.pc) 0#64).count 0x0410 1
    | none => s
  | .job core level => s.jobEcc core level
  | .copy job =>
    match kget s.copies job with
    | some j => if j.status.isSome || !j.planned then s else { s with copies := kset s.copies job (j.fail s.cycle failedEcc 0#64) }.count 0x0410 1
    | none => s
  | .dram line => if s.badLines.contains line then s else { s with badLines := s.badLines ++ [line] }.count 0x0410 1
  | .cached policy home line op =>
    match s.lineAt policy home line with
    | none => s
    | some c =>
      let s := (s.dropLine policy home line).count 0x0410 1
      if !c.dirty then s
      else
        let s := match op with | some id => (s.modOp id (fun o => o.eccAt line)).endHandlers | none => s
        s.dirtyLost line

end Sys2Proof.Machine
end

