-- ==== Sys2Proof/Machine/Cycle.lean ====
section
/-! DEFINITION. How a core issues (spec 03 R81, R82; 04 R120 to R122; 09 R251, R252), what is offered in a round when no schedule is given
(log entry 1), and how an instruction comes to stand where a core fetches it next. -/

namespace Sys2Proof.Machine

/-! Fetching (R81). -/

/-- What a fetch gives. -/
inductive Fetched where
  | instr (i : Instr) (words : Nat)
  | bad (why : BadBundle)
  | fault (cause : Cause) (addr : Word)
  | ecc (addr : Word)
  | later
  deriving DecidableEq, Repr

/-- `decode` of R81: words are fetched until they are a bundle; a word of another package or of the host is asked for first. -/
def State.fetchBundle (s : State) (core tenant pc : Nat) (ws : List IWord) : Nat → Fetched × State
  | 0 => (.later, s)
  | n + 1 =>
    match s.fetch16 core tenant (BitVec.ofNat 64 (pc + 2 * ws.length)) with
    | (.ok b, s) =>
      let ws := ws ++ [BitVec.ofNat 16 (leValue b)]
      match Sys2Proof.decode ws with
      | .more => s.fetchBundle core tenant pc ws n
      | .bad why _ => (.bad why, s)
      | .instr i k => (.instr i k, s)
    | (.wait p n, s) => (.later, s.requestBytes core tenant p n)
    | (.busy, s) => (.later, s)
    | (.ecc a, s) => (.ecc a, s)
    | (.fault c a, s) => (.fault c a, s)

/-! Issue. -/

/-- R121, R122: a leader that reaches a bundle it does not forward is free, and its followers execute that bundle themselves. -/
def State.reach (s : State) (core : Nat) (i : Instr) : State :=
  match i.code? with
  | some (op, _) => if unforwarded op then s.closeStream core else s
  | none => s

/-- R120: what a leader has completed goes to its followers. -/
def State.handOn (s : State) (core : Nat) (i : Instr) (words : Nat) (o : Out) : Out :=
  match o with
  | .next t =>
    match (s.core core).leads, i.code?, s.top core with
    | some n, some (op, w), some f =>
      if s.completed t core op w && (t.core core).leads == some n then
        .next (t.forward core n { instr := i, words := words, pc := f.pc, next := ((t.top core).map (·.pc)).getD 0 })
      else .next t
    | _, _, _ => .next t
  | o => o

/-- The bundle at the program counter of the current core's frame. -/
def State.issueBundle (s : State) (core : Nat) (f : Frame) : Out :=
  if f.pc % 2 = 1 then event (s.exact core .misalign (BitVec.ofNat 64 f.pc))
  else
    match s.fetchBundle core (s.tenantOf f.ltag) f.pc [] 5 with
    | (.instr i n, s) => (s.reach core i).handOn core i n (exec i (s.reach core i))
    | (.bad why, s) => exec (.reservedEncoding why) s
    | (.fault c a, s) => event (s.exact core c a)
    | (.ecc a, s) => event (s.discard core failedEcc 0 (BitVec.ofNat 64 f.pc) a)
    | (.later, s) => event s

/-- What the top frame of the current core does next. -/
def State.issueTop (s : State) (core : Nat) : Out :=
  match s.running with
  | none => event s
  | some f =>
    if f.mig.isSome then execMigrationSend core s
    else
      match (s.core core).follow with
      | .waiting _ _ => event s
      | .attached _ [] => event s
      | .attached _ _ => execForwardedBundle core s
      | .draining _ => execForwardedBundle core s
      | _ => s.issueBundle core f

/-- A core's turn: an arrival that passes the admission check is pushed (R252), a fault that is due is raised, or a bundle issues. -/
def State.issue (s : State) (core : Nat) : Out :=
  let s := { s with cur := core }
  match (s.core core).candidate with
  | some e =>
    match e.kind with
    | .package _ => execMigrationArrival core s
    | _ => event (s.takeEvent core).2
  | none =>
    if s.stilled core then event s
    else
      match s.raiseDue core with
      | some s => event s
      | none => (s.evict core).issueTop core

/-! A round of everything that may be due (log entry 1). -/

/-- Steps of outstanding operations and of the lines that homes have asked for. -/
def State.opMoves (s : State) : List Instr :=
  s.ops.flatMap (fun o => o.2.elems.filterMap (fun e => if e.done then none else some (.homeAccess o.1 e.ix)) ++
    [.atomicUnitOp o.1, .loadCompletion o.1, .storePerformed o.1] ++ (if o.2.handler.isSome then [.ahndTimeout o.1] else [])) ++
  (s.tiles.flatMap (fun t => t.2.lines) ++ s.slices.flatMap (·.2)).filterMap (fun l => if l.res then some (.cacheFill l.line) else none)

/-- Steps of the Millrace. -/
def State.netMoves (s : State) : List Instr :=
  (if s.flits.isEmpty then [] else [.routerFlitPlacement]) ++
  s.msgs.flatMap (fun m => [if m.2.msg.kind = 8 then .barrierArrival m.1 else .messageEjection m.1]) ++
  s.routers.filterMap (fun r => if r.2.hold.isEmpty && r.2.window.isEmpty then none else some (.holdStoreEntry r.1)) ++
  (if s.ctxs.any (fun c => c.2.state == .running && !c.2.leat.isEmpty) then [.holdStoreEntry 0] else []) ++
  s.acks.map (fun a => .channelAck a.sender a.target a.words) ++ s.retired.map (fun r => .rangeRetire r.1 r.2) ++ s.notices.map (fun n => .endNotice n.core n.task)

/-- Steps of a core's frames, timers and jobs. -/
def Core.moves (k : Nat) (c : Core) : List Instr :=
  c.frames.flatMap (fun f => if f.lv.vq.isEmpty then [] else [.vectorBundleCompletion k f.level]) ++
  c.timers.map (fun t => .timerExpiry k t.1) ++
  (match c.follow with | .waiting _ _ => [.followTimeout k] | _ => []) ++
  (if c.frames.any (fun f => f.arrive != 0) then [.arrivalAcknowledgement k] else [])

/-- Steps of the engines. -/
def State.engineMoves (s : State) : List Instr :=
  s.tiles.flatMap (fun t =>
    t.2.queues.flatMap (fun q => if q.2.isEmpty then [] else [.matrixJobStart (q.1 / 8) (q.1 % 8), .matrixJobCompletion (q.1 / 8) (q.1 % 8)]) ++
      (if t.2.queues.all (fun q => q.2.isEmpty) then [] else [.matrixUnit t.1])) ++
  s.copies.flatMap (fun j => [.copySegmentStart j.1] ++ (List.range j.2.segs.length).map (.copySegmentPerformed j.1 ·) ++
    (if j.2.cmd.mcast then (j.2.masked.map superGroupOf).eraseDups.map (.multicastAck j.1 ·) else []) ++ [.copyJobCompletion j.1, .copyTimeout j.1]) ++
  s.colls.flatMap (fun c => (List.range (max 1 (c.2.op.blocks (s.ranksOf c.2).length))).flatMap (fun b =>
    [.collectiveBlockCombine c.1 b, .collectiveBlockTimeout c.1 b]) ++ [.collectiveJobCompletion c.1]) ++
  s.ueJobs.map (fun j => .ueJobCompletion j.1)

/-- Steps of the Governors and of launches. -/
def State.launchMoves (s : State) : List Instr :=
  s.dies.flatMap (fun d => if d.2.ready.isEmpty then [] else .governorPlacement d.1 :: d.2.ready.map (fun g => .governorForward d.1 g.id)) ++
  s.given.map (fun g => .governorForward g.dst g.rec_.id) ++
  s.dies.flatMap (fun d => d.2.steals.map (.stealAnswer d.1 ·) ++ ((List.range 8).filter (ringNeighbours d.1)).map (.stealRequest d.1 ·)) ++
  s.fns.flatMap (fun f => f.2.queues.filterMap (fun q => if q.2.enabled && q.2.head != q.2.tail then some (.ringEntryTake f.1 q.1) else none)) ++
  s.ctxs.flatMap (fun c => c.2.tiles.filterMap (fun t => if c.2.started.contains t then none else some (.launchStart c.1 t)) ++
    (recBindings c.2.words).zipIdx.flatMap (fun b => if b.1.report then
      ((recLeaves s.pkg c.2.words).map (·.2)).map (.instanceComplete c.1 b.2 ·) else []) ++
    [.cqOverflowEntry c.1, .launchEnd c.1]) ++
  (if s.inval.jobs.isEmpty then [] else [.invalidationComplete])

/-- Everything that may be due, then a turn of each core that has something to do, then a cycle. What is not due changes nothing. -/
def State.round (s : State) : List Move :=
  (s.opMoves ++ s.netMoves ++ s.cores.flatMap (fun k => k.2.moves k.1) ++ s.engineMoves ++ s.launchMoves).map .event ++
  (s.cores.filter (fun k => !k.2.frames.isEmpty || !k.2.inbox.isEmpty)).map (fun k => .issue k.1) ++ [.tick 1]

/-- The next move and the state without it. -/
def State.nextMove (s : State) : Move × State :=
  match s.sched with
  | m :: rest => (m, { s with sched := rest })
  | [] =>
    match s.round with
    | m :: rest => (m, { s with sched := rest })
    | [] => (.tick 1, s)

/-! Values read ahead (10 R298, R302). -/

/-- Whether a core may read ahead at a place: what its frames have acquired has been performed, and so has everything of its own that reaches the bytes.
Acquires still to be performed bound what has been read ahead as they are performed. -/
def State.mayForesee (s : State) (core : Nat) (l : Loc) (size : Nat) : Bool :=
  s.afterDone (s.core core).behind && !s.heldByHandler 0 l size && s.ops.all (fun o =>
    o.2.core != core || o.2.dest == .buffer || o.2.fault.isSome ||
      !((o.2.ord % 2 == 1 && o.2.performed && !s.afterDone o.2.behind) || o.2.elems.any (fun d => !d.done && locsMeet d.loc d.size l size)))

/-- A core reads a value at its home before the load that may return it. -/
def State.readAhead (s : State) (core : Nat) (l : Loc) (size : Nat) : State :=
  if s.mayForesee core l size then
    let v := s.valueAt l size
    let x : Foreseen := { core := core, loc := l, size := size, value := v, now := v, news := [], rels := s.relsAt core l size, op := none }
    let t := s.noteAccess s core l size
    { t with foreseen := t.foreseen ++ [x] }
  else s

/-- A core reads ahead at a virtual address. -/
def State.foresee (s : State) (core va size : Nat) : State :=
  match s.top core with
  | none => s
  | some f =>
    if s.stilled core || !([1, 2, 4, 8] : List Nat).contains size || va % size != 0 then s
    else
      match s.translate core (s.tenantOf f.ltag) (BitVec.ofNat 64 va) .load with
      | (.error _, _) => s
      | (.ok p, s) =>
        if p.policy == 3 || p.policy == 4 || p.isRegister || s.homeDown p.policy p.home p.pa || s.lineBad p.policy p.home (p.pa / 64) then s
        else s.readAhead core p.loc size

/-- A core reads ahead in scratch. -/
def State.foreseeScratch (s : State) (core sel off size : Nat) : State :=
  match s.top core with
  | none => s
  | some f =>
    if s.stilled core || !([1, 2, 4, 8] : List Nat).contains size || off % size != 0 then s
    else match s.scratchAt core f sel off size with | .ok l => s.readAhead core l size | .error _ => s

/-- Whether an acquire before operation `id` of its core still orders what follows it. -/
def State.acquireOpen (s : State) (core id : Nat) : Bool := s.ops.any (fun x => decide (x.1 < id) && x.2.core == core && s.acquiring x.2)

/-- One access of a load takes the value that was read ahead for it, with what releases stood there. -/
def State.confirmElem (s : State) (op : Nat) (o : MemOp) (e : Elem) : State :=
  match s.foreseen.find? (fun x => x.op == some op && x.core == o.core && x.loc == e.loc && x.size == e.size) with
  | none => s
  | some x =>
    let s := { s with foreseen := s.foreseen.erase x }
    ((s.modCore o.core (fun c => { c with seen := c.seen.filter (fun r => !s.afterDone r.ops) ++ x.rels })).sendReply op o e).modOp op (fun o => o.finish e.ix x.value)

/-- A load that has issued takes what was read ahead at its places, when nothing before it in program order forbids that. -/
def State.confirm (s : State) (op : Nat) : State :=
  match kget s.ops op with
  | none => s
  | some o =>
    if o.fault.isSome || !s.afterDone o.start || s.acquireOpen o.core op then s
    else (o.elems.filter (fun e => !e.done && e.bad.isNone)).foldl (fun s e => s.confirmElem op o e) s

/-- One move of the machine. -/
def State.move (s : State) (m : Move) : Out :=
  match m with
  | .issue core => s.issue core
  | .event i => exec i s
  | .tick cycles => event (s.tick cycles).endTurns
  | .foresee core va size => event (s.foresee core va size)
  | .foreseeScratch core sel off size => event (s.foreseeScratch core sel off size)
  | .serviceTrap core => event (s.serviceTrap core)
  | .confirm op => event (s.confirm op)
  | .soft e => event (s.softError e)

/-! An instruction placed where the next move fetches (log entry 28). -/

/-- The bytes of an instruction of the table and of zero words up to the longest bundle. -/
def tableBytes (nbits w : Nat) : List Byte := leBytes (w % 2 ^ nbits) 10

/-- Where the bytes from a program counter on lie, when all of them can be fetched in this package. -/
def State.fetchPlaces (s : State) (core tenant : Nat) : List (Word × Nat) → Option (List (Phys × Nat))
  | [] => some []
  | (va, n) :: rest =>
    match (s.translate core tenant va .fetch).1 with
    | .ok p => if p.policy < 3 ∧ p.isRegister = false then (s.fetchPlaces core tenant rest).map (fun l => (p, n) :: l) else none
    | .error _ => none

/-- Bytes written over places. -/
def State.fillPlaces (s : State) : List Byte → List (Phys × Nat) → State
  | _, [] => s
  | b, (p, n) :: rest => (s.writeHome p.policy p.home p.pa (b.take n)).fillPlaces (b.drop n) rest

/-- The places from which the next move fetches, with its core. -/
def State.nextPlaces (s : State) : Option (Nat × List (Phys × Nat)) :=
  match s.sched with
  | .issue core :: _ =>
    match { s with cur := core }.running with
    | some f =>
      (s.fetchPlaces core (s.tenantOf f.ltag) (linePieces (BitVec.ofNat 64 f.pc) 10 3)).map (fun l => (core, l))
    | none => none
  | _ => none

/-- The record of a launch of one core with the tables of log entry 28: version 1, one binding (of core 0), 256 KiB of scratch, queue and leat in the page. -/
def placedWords : List Word :=
  [0x4001#64, 0x100#64] ++ List.replicate 11 0#64 ++ [0x18000#64, 0x0606#64, 0x19000#64] ++ List.replicate 8 0#64 ++
    [0x100000000#64] ++ List.replicate 7 0#64

def placedContext : Context :=
  { tenant := 0, fn := 0, queue := 0, homeDie := 0, words := placedWords, foot := [0], state := .running, order := 0, started := [0], ceil := [],
    alloc := [], ahand := [], rclass := [], groups := [], cqCount := 0, cqLost := 0, failures := 0, starts := [], leat := [], leatHead := 0,
    leatTail := 0, saved := none, instDone := [], thrPred := 0, tabs := [], urgent := false, startLeft := [] }

def placedTenant : TenantEntry := { valid := true, col0 := 0, row0 := 0, width := 32, height := 16, root := 0x10000, function := 0, wbase := 0 }

/-- The page tables of log entry 28: virtual 0x10000 to 0x1FFFF on physical 0x40000, with every permission, homed at slices. -/
def placedTables (m : Mem) : Mem :=
  memSetN (memSetN (memSetN (memSetN (memSetN m 0x10000 8 0x20001) 0x20000 8 0x30001) 0x30000 8 0x31001) 0x31000 8 0x32001) 0x32008 8 0x4001F

/-- The release event of the placed task; its code lies from 0x10010 on. -/
def placedEvent : REvent :=
  { kind := .task, handler := 0x10010#64, level := 1, args := [], item := 0#64, src := { core := 0, pkg := 0, space := 0 }, cls := none, ltag := 1, gov := none }

/-- A machine that has booted and runs one task on core 0, whose turn is next. -/
def State.placed (s : State) : State :=
  let s := { s with
    sched := .issue 0 :: s.sched, boot := { s.boot with stage := 5, done := true }, tenants := kset s.tenants 0 placedTenant,
    fns := kset s.fns 0 { s.fn 0 with tenant := 0, bound := true }, ctxs := kset s.ctxs 1 placedContext, lastTag := 1, dram := placedTables s.dram }
  let s := (s.modTile 0 (fun t => { t with launch := 1, scratchKiB := 256 })).modCore 0 (fun c => { c with sat := 1, frames := [], inbox := [] })
  (s.pushWith 0 .task placedEvent ExcRegs.none 0xF4000000 none).getD s

/-- The instruction of a table word put where the next step fetches. -/
def State.placeWord (s : State) (nbits w : Nat) : State :=
  let b := tableBytes nbits w
  let put (s : State) (core : Nat) (l : List (Phys × Nat)) : State :=
    let t := s.fillPlaces b l
    t.modCore core (fun c => { c with icache := l.foldl (fun m x => kset m x.1.lineKey (t.readHome x.1.policy x.1.home (x.1.pa / 64 * 64) 64)) [] })
  match s.nextPlaces with
  | some (core, l) => put s core l
  | none => match s.placed.nextPlaces with | some (core, l) => put s.placed core l | none => s.placed

end Sys2Proof.Machine
end

