-- ==== Sys2Proof/Safety.lean ====
section
/-! DEFINITION. The terms in which claims about the machine are made: when nothing stands in the way of a bundle (spec 03 R82, R87,
R196), the state that a bundle leaves when it changes only its own frame, when it is a vector bundle that is dispatched and when it
issues a memory operation, and the properties that every step keeps. -/

namespace Sys2Proof.Machine

/-! When a bundle has its effect. -/

/-- The checks of R82 pass: a frame runs on the current core and waits for no migration, the profile has the instruction, the bundle
is legal, its registers lie in the windows, and none of them waits for an earlier bundle (R196, R135). -/
def Ready (s : State) (op : Op) (w : Bundle) (f : Frame) : Prop :=
  s.running = some f ∧ f.mig = none ∧ op.prof.has (profileOf s.cur) = true ∧ legal op w = true ∧ coreOk s.cur op w = true ∧
    windowsOk f op w = true ∧ s.hazards s.cur f (allNamed op w) = .go

/-- The governing predicate lets the bundle take effect as a whole (R87). -/
def Enabled (f : Frame) (w : Bundle) : Prop := (f.predicate w).getLsbD 0 = true

/-- Element i is active (R134). -/
def ElementActive (f : Frame) (w : Bundle) (i : Nat) : Bool := (f.predicate w).getLsbD i

/-! The states that bundles leave. -/

/-- The address of the instruction word (R84) and of the bundle that follows (R104). -/
def instrWordAt (f : Frame) (w : Bundle) : Nat := f.pc + 2 * w.chainLength
def nextPc (f : Frame) (w : Bundle) : Nat := (instrWordAt f w + 2) % 2 ^ 64

/-- The target of a branch by an offset of instruction words (R84). -/
def branchTarget (f : Frame) (w : Bundle) (off : Int) : Nat := (((instrWordAt f w : Int) + 2 * off) % (2 ^ 64 : Nat)).toNat

/-- The state in which only the running frame of the current core has changed, to g. -/
def State.withRunning (s : State) (g : Frame) : State :=
  { s with cores := kset s.cores s.cur { s.core s.cur with frames := g :: (s.core s.cur).frames.tail, rbuf := [] } }

/-- The same, and the current core's own registers have changed as h says. -/
def State.withRunningCore (s : State) (h : Core → Core) (g : Frame) : State :=
  { s with cores := kset s.cores s.cur { h (s.core s.cur) with frames := g :: (s.core s.cur).frames.tail, rbuf := [] } }

/-- The bundle has not completed, but the core's registers have changed as h says and the running frame to g. -/
def State.whileWaiting (s : State) (h : Core → Core) (g : Frame) : State :=
  s.setCore s.cur { h (s.core s.cur) with frames := g :: (s.core s.cur).frames.tail }

/-- A scalar result v in register d, and the next bundle. -/
def State.withResult (s : State) (f : Frame) (w : Bundle) (d : Nat) (v : Word) : State :=
  s.withRunning { f.xSet d v with pc := nextPc f w }

/-- Only the program counter has moved on. -/
def State.pastBundle (s : State) (f : Frame) (w : Bundle) : State := s.withRunning { f with pc := nextPc f w }

/-- The entry that a vector bundle takes in its level's queue (R137): what it will write and raise when it completes. -/
def vectorEntry (s : State) (f : Frame) (op : Op) (w : Bundle) (writes : List RegWrite) (fl : Flags) : VEntry :=
  { seq := ((s.core s.cur).cseq + 1) % 65536, stamp := s.nextId, pc := f.pc, fl := fl, writes := writes, srst := none, stoch := false,
    fault := none, op := none, chan := none, named := (allNamed op w).filter (·.write), rmode := f.lv.rmode, fpen := f.lv.fpen }

/-- The current core after a dispatch (01 R42, R29): the sequence counter, the ring of the 64 youngest bundles, the operand latches. -/
def Core.afterDispatch (c : Core) (f : Frame) (op : Op) (w : Bundle) : Core :=
  let seq := (c.cseq + 1) % 65536
  { c.latched f op w with
    cseq := seq, cpring := ({ seq := seq, lvl := f.level, pc := f.pc % 2 ^ 57, done := false, flt := false, disc := false } :: c.cpring).take 64 }

/-- A vector bundle dispatched with entry e, and the next bundle; g is the rest of the frame. -/
def State.dispatched (s : State) (f : Frame) (op : Op) (w : Bundle) (e : VEntry) : State :=
  { s.withRunningCore (fun c => c.afterDispatch f op w) { f with pc := nextPc f w, lv := { f.lv with vq := f.lv.vq ++ [e] } } with
    nextId := s.nextId + 1 }

/-- A memory operation as a bundle issues it (01 R40; 07 R196; 10 R298, R299, R302). -/
def opOf (s : State) (f : Frame) (w : Bundle) (kind : OpKind) (dest : Dest) (ord : Nat) (vec : Bool) (elems : List Elem) : MemOp :=
  { core := s.cur, level := f.level, task := f.task, item := f.item, ltag := f.ltag, tenant := s.tenantOf f.ltag, pc := f.pc, kind := kind,
    dest := dest, ord := ord, vec := vec, elems := elems, fault := none, handler := none, nt := w.qual.flag,
    scope := if elems.any Elem.isRegister then 6 else w.qual.scope.toNat, start := s.open_ (s.core s.cur).behind }

/-- A scalar memory operation issued in the state s: a request for every line homed elsewhere (10 R284), the operation under a new name, what has been read
ahead at its places (10 R302), the counter raised, and the next bundle. -/
def State.issued (s : State) (f : Frame) (w : Bundle) (o : MemOp) : State :=
  let t := s.fresh.2.sendRequests s.cur f.ltag s.nextId o.elems o.kind.isStore
  { t with
    ops := kset t.ops s.nextId o,
    foreseen := t.foreseen.filterMap (fun (x : Foreseen) => x.issued s.nextId o),
    cores := kset t.cores s.cur
      { t.core s.cur with
        frames := modHead (fun g => { g with pc := nextPc f w, lv := g.lv.raise o.kind }) (t.core s.cur).frames, rbuf := [] } }

/-! Properties of states. -/

/-- The bytes of DRAM stand in their canonical form. -/
def MemoryCanonical (s : State) : Prop := memWf s.dram = true

/-- Two valid entries of the tenant table share neither a tile nor a function (13 R363). -/
def TenantsApart (s : State) : Prop :=
  ∀ a b ea eb, a ≠ b → kget s.tenants a = some ea → kget s.tenants b = some eb → ea.valid = true → eb.valid = true →
    ea.function ≠ eb.function ∧ ∀ tile, tenantHasTile ea tile = true → tenantHasTile eb tile = false

/-- Higher frames of a core's stack have higher levels (09 R248). -/
def LevelsRise (c : Core) : Prop := c.frames.Pairwise (fun above below => below.level < above.level)

end Sys2Proof.Machine
end

