-- ==== Sys2Proof/Certificates/Slice0/Obligations.lean ====
section
/-! DEFINITION. The statements for the provers. Most conclude that an instruction answers a next state and give that state whole, so
that what it leaves unchanged (every register, flag and special register, and every byte of memory) is part of the equation. The tables
list the constructors that a statement is about, each with its result in the words of the spec's rule. -/

section
open Sys2Proof Sys2Proof.Machine

/-! Integer arithmetic, logic and compares (spec 04 R105 to R112). -/

namespace Sys2Proof.Claims

/-- The signed quotient and remainder of R106. -/
def quotRem (a b : Word) : Int × Int :=
  if b.toInt = 0 then (-1, a.toInt)
  else if a.toInt = -2 ^ 63 ∧ b.toInt = -1 then (-2 ^ 63, 0)
  else (Int.tdiv a.toInt b.toInt, a.toInt - Int.tdiv a.toInt b.toInt * b.toInt)

/-- The unsigned quotient and remainder of R106. -/
def quotRemUnsigned (a b : Word) : Nat × Nat :=
  if b.toNat = 0 then (2 ^ 64 - 1, a.toNat) else (a.toNat / b.toNat, a.toNat - a.toNat / b.toNat * b.toNat)

/-- 1 where a relation holds and 0 where it does not (R110). -/
def oneIf (p : Prop) [Decidable p] : Word := if p then 1#64 else 0#64

/-- Constructor, operation and result of the instructions of R105 and R106. -/
def arithmetic : List ((Bundle → Instr) × Op × (Bundle → Word → Word → Word)) :=
  [ (.add, .add, fun _ a b => a + b),
    (.sub, .sub, fun _ a b => a - b),
    (.and, .and, fun _ a b => a &&& b),
    (.or, .or, fun _ a b => a ||| b),
    (.xor, .xor, fun _ a b => a ^^^ b),
    (.andn, .andn, fun _ a b => a &&& ~~~b),
    (.shl, .shl, fun _ a b => BitVec.ofNat 64 (a.toNat * 2 ^ (b.toNat % 64))),
    (.shr, .shr, fun _ a b => BitVec.ofNat 64 (a.toNat / 2 ^ (b.toNat % 64))),
    (.sar, .sar, fun _ a b => BitVec.ofInt 64 (Int.fdiv a.toInt (2 ^ (b.toNat % 64)))),
    (.mul, .mul, fun _ a b => BitVec.ofInt 64 (a.toInt * b.toInt)),
    (.mulh, .mulh, fun _ a b => BitVec.ofInt 64 (Int.fdiv (a.toInt * b.toInt) (2 ^ 64))),
    (.mulhn, .mulhn, fun _ a b => BitVec.ofNat 64 (a.toNat * b.toNat / 2 ^ 64)),
    (.div, .div, fun _ a b => BitVec.ofInt 64 (quotRem a b).1),
    (.rem, .rem, fun _ a b => BitVec.ofInt 64 (quotRem a b).2),
    (.divn, .divn, fun _ a b => BitVec.ofNat 64 (quotRemUnsigned a b).1),
    (.remn, .remn, fun _ a b => BitVec.ofNat 64 (quotRemUnsigned a b).2) ]

/-- The other instructions of R105, `lea` (R108) and the compares (R110). -/
def otherTwoSource : List ((Bundle → Instr) × Op × (Bundle → Word → Word → Word)) :=
  [ (.min, .min, fun _ a b => if a.toInt ≤ b.toInt then a else b),
    (.max, .max, fun _ a b => if b.toInt ≤ a.toInt then a else b),
    (.minn, .minn, fun _ a b => if a.toNat ≤ b.toNat then a else b),
    (.maxn, .maxn, fun _ a b => if b.toNat ≤ a.toNat then a else b),
    (.rol, .rol, fun _ a b => BitVec.ofNat 64 (a.toNat * 2 ^ (b.toNat % 64) + a.toNat / 2 ^ (64 - b.toNat % 64))),
    (.bgen, .bgen, fun _ a b => BitVec.ofNat 64 ((2 ^ min (b.toNat % 128) 64 - 1) * 2 ^ (a.toNat % 64))),
    (.lea, .lea, fun w a b => BitVec.ofNat 64 (a.toNat + b.toNat * 2 ^ modOpt w)),
    (.cmpeq, .cmpeq, fun _ a b => oneIf (a.toNat = b.toNat)),
    (.cmpne, .cmpne, fun _ a b => oneIf (a.toNat ≠ b.toNat)),
    (.cmplt, .cmplt, fun _ a b => oneIf (a.toInt < b.toInt)),
    (.cmpltn, .cmpltn, fun _ a b => oneIf (a.toNat < b.toNat)),
    (.cmple, .cmple, fun _ a b => oneIf (a.toInt ≤ b.toInt)),
    (.cmplen, .cmplen, fun _ a b => oneIf (a.toNat ≤ b.toNat)) ]

/-- The instructions of R107. -/
def oneSource : List ((Bundle → Instr) × Op × (Word → Word)) :=
  [ (.mov, .mov, fun a => a),
    (.clz, .clz, fun a => BitVec.ofNat 64 (((List.range 64).find? (fun i => a.getLsbD (63 - i))).getD 64)),
    (.popc, .popc, fun a => BitVec.ofNat 64 ((List.range 64).countP (fun i => a.getLsbD i))),
    (.ctz, .ctz, fun a => BitVec.ofNat 64 (((List.range 64).find? (fun i => a.getLsbD i)).getD 64)) ]

/-- The instructions of R111 with a source and an immediate. -/
def immediate : List ((Bundle → Instr) × Op × (Word → Int → Word)) :=
  [ (.lih, .lih, fun a i => BitVec.ofNat 64 ((i % 2 ^ 32).toNat * 2 ^ 32 + a.toNat % 2 ^ 32)),
    (.addi, .addi, fun a i => BitVec.ofInt 64 (a.toNat + i)) ]

/-- The two-register branches of R116. -/
def branches : List ((Bundle → Instr) × Op × (Word → Word → Bool)) :=
  [ (.beq, .beq, fun a b => decide (a.toNat = b.toNat)),
    (.bne, .bne, fun a b => decide (a.toNat ≠ b.toNat)),
    (.blt, .blt, fun a b => decide (a.toInt < b.toInt)),
    (.bge, .bge, fun a b => decide (b.toInt ≤ a.toInt)),
    (.bltn, .bltn, fun a b => decide (a.toNat < b.toNat)) ]

end Sys2Proof.Claims

/-- The sources are a and b in the short form, b and c in the long form (R83); the result goes to a, and is discarded when that is x0. -/
def Sys2Proof.Claims.ArithmeticResults : Prop :=
  ∀ row ∈ Sys2Proof.Claims.arithmetic, ∀ w s f, Ready s row.2.1 w f → Enabled f w →
    exec (row.1 w) s = .next (s.withResult f w (fieldA w)
      (row.2.2 w (f.xGet (if w.rgx.isSome then fieldB w else fieldA w)) (f.xGet (if w.rgx.isSome then fieldC w else fieldB w))))

def Sys2Proof.Claims.ShiftMinMaxCompareResults : Prop :=
  ∀ row ∈ Sys2Proof.Claims.otherTwoSource, ∀ w s f, Ready s row.2.1 w f → Enabled f w →
    exec (row.1 w) s = .next (s.withResult f w (fieldA w)
      (row.2.2 w (f.xGet (if w.rgx.isSome then fieldB w else fieldA w)) (f.xGet (if w.rgx.isSome then fieldC w else fieldB w))))

/-- `mov`, `clz`, `popc`, `ctz` of register b (R107). -/
def Sys2Proof.Claims.OneSourceResults : Prop :=
  ∀ row ∈ Sys2Proof.Claims.oneSource, ∀ w s f, Ready s row.2.1 w f → Enabled f w →
    exec (row.1 w) s = .next (s.withResult f w (fieldA w) (row.2.2 (f.xGet (fieldB w))))

/-- `li`, `lih` and `addi` (R111): the source of form I is a without RGX and c with it. -/
def Sys2Proof.Claims.ImmediateResults : Prop :=
  (∀ row ∈ Sys2Proof.Claims.immediate, ∀ w s f, Ready s row.2.1 w f → Enabled f w →
    exec (row.1 w) s = .next (s.withResult f w (fieldA w) (row.2.2 (f.xGet (if w.rgx.isSome then fieldC w else fieldA w)) (immI w)))) ∧
  (∀ w s f, Ready s .li w f → Enabled f w →
    exec (.li w) s = .next (s.withResult f w (fieldA w) (BitVec.ofInt 64 (immI w))))

/-- R109 and R112, with their slots: `sel` reads the old value of its destination before the write, every non-zero value counts as true, and c
is equal to b when RGX is absent; `sext` and `zext` of a width from 1 to 64, ILLEGAL outside that range. -/
def Obligations.SelectAndExtensions : Prop :=
  slotOp 0 24 = some .sel ∧ encodeWord 24 0#5 0#5 = 0x6000#16 ∧ slotOp 0 28 = some .sext ∧ encodeWord 28 0#5 0#5 = 0x7000#16 ∧
  slotOp 0 29 = some .zext ∧ encodeWord 29 0#5 0#5 = 0x7400#16 ∧
  (∀ w s f, Ready s .sel w f → Enabled f w →
    exec (.sel w) s = .next (s.withResult f w (fieldA w)
      (if f.xGet (fieldA w) ≠ 0#64 then f.xGet (fieldB w) else f.xGet (if w.rgx.isSome then fieldC w else fieldB w)))) ∧
  (∀ w s f, Ready s .sext w f → Enabled f w → exec (.sext w) s = .next (s.withResult f w (fieldA w)
    (BitVec.ofInt 64 (sextNat (f.xGet (if w.rgx.isSome then fieldC w else fieldA w)).toNat (immI w).toNat)))) ∧
  (∀ w s f, Ready s .zext w f → Enabled f w → exec (.zext w) s = .next (s.withResult f w (fieldA w)
    (BitVec.ofNat 64 ((f.xGet (if w.rgx.isSome then fieldC w else fieldA w)).toNat % 2 ^ (immI w).toNat)))) ∧
  (∀ row ∈ [((Instr.sext : Bundle → Instr), Op.sext), (Instr.zext, Op.zext)], ∀ w s f, s.running = some f → f.mig = none →
    row.2.prof.has (profileOf s.cur) = true → (immI w < 1 ∨ 64 < immI w) → exec (row.1 w) s = .next (s.exact s.cur .illegal 0#64))

/-! Control transfers (R113 to R117). -/

/-- Only the program counter changes: to the target when the branch is taken, to the next bundle otherwise. -/
def Sys2Proof.Claims.BranchesGoWhereTheRulesSay : Prop :=
  (∀ w s f, Ready s .b w f → Enabled f w → exec (.b w) s = .next (s.withRunning { f with pc := branchTarget f w (immJ w) })) ∧
  (∀ row ∈ Sys2Proof.Claims.branches, ∀ w s f, Ready s row.2.1 w f → Enabled f w →
    exec (row.1 w) s = .next (s.withRunning
      { f with pc := if row.2.2 (f.xGet (fieldA w)) (f.xGet (fieldB w)) then branchTarget f w (immC w) else nextPc f w })) ∧
  (∀ w s f, Ready s .ret w f → Enabled f w → exec (.ret w) s = .next (s.withRunning { f with pc := (f.xGet 7).toNat })) ∧
  (∀ w s f, Ready s .jr w f → Enabled f w → exec (.jr w) s = .next (s.withRunning { f with pc := (f.xGet (fieldA w)).toNat }))

/-- x7 holds the address of the bundle that follows, and the pc the target. -/
def Sys2Proof.Claims.CallWritesTheLinkRegister : Prop :=
  ∀ w s f, Ready s .call w f → Enabled f w →
    exec (.call w) s = .next (s.withRunning
      { f.xSet 7 (BitVec.ofNat 64 (instrWordAt f w + 2)) with pc := branchTarget f w (immJ w) })

/-- R115 and R117, with their slots: `bz` branches when its register is 0 and `bnz` when it is not, by an offset that is imm5 without IMX (−16 to
15 words); `loop` writes its register less 1, modulo 2^64 (discarded for x0), and branches while that is not 0: a count of 1 ends the
loop, a count of 0 and x0 branch. -/
def Obligations.ZeroBranchesAndLoop : Prop :=
  slotOp 0 31 = some .bz ∧ encodeWord 31 0#5 0#5 = 0x7C00#16 ∧ slotOp 0 32 = some .bnz ∧ encodeWord 32 0#5 0#5 = 0x8000#16 ∧
  slotOp 0 41 = some .loop ∧ encodeWord 41 0#5 0#5 = 0xA400#16 ∧ (∀ w : Bundle, w.imx = [] → immI w = w.b.toInt ∧ -16 ≤ immI w ∧ immI w ≤ 15) ∧
  (∀ w s f, Ready s .bz w f → Enabled f w →
    exec (.bz w) s = .next (s.withRunning
      { f with pc := if f.xGet (fieldA w) = 0#64 then branchTarget f w (immI w) else nextPc f w })) ∧
  (∀ w s f, Ready s .bnz w f → Enabled f w →
    exec (.bnz w) s = .next (s.withRunning
      { f with pc := if f.xGet (fieldA w) ≠ 0#64 then branchTarget f w (immI w) else nextPc f w })) ∧
  (∀ w s f, Ready s .loop w f → Enabled f w →
    exec (.loop w) s = .next (s.withRunning
      { f.xSet (fieldA w) (f.xGet (fieldA w) - 1#64) with
        pc := if f.xGet (fieldA w) - 1#64 ≠ 0#64 then branchTarget f w (immI w) else nextPc f w })) ∧
  (∀ w s f, Ready s .loop w f → Enabled f w → f.xGet (fieldA w) = 1#64 → fieldA w ≠ 0 →
    exec (.loop w) s = .next (s.withRunning { f.xSet (fieldA w) 0#64 with pc := nextPc f w })) ∧
  (∀ w s f, Ready s .loop w f → Enabled f w → fieldA w = 0 → exec (.loop w) s = .next (s.withRunning { f with pc := branchTarget f w (immI w) }))

/-- x0 and k0 read as constants and discard writes (01 R19, R20); every other register reads back what was written, and a write
changes no other register. -/
def Obligations.RegistersReadBack : Prop :=
  ∀ (f : Frame) (n m : Nat) (v : Word) (u : VReg),
    f.xGet 0 = 0#64 ∧ f.kGet 0 = BitVec.allOnes 64 ∧
    (f.xSet n v).xGet m = (if m = n ∧ n ≠ 0 then v else f.xGet m) ∧ (f.kSet n v).kGet m = (if m = n ∧ n ≠ 0 then v else f.kGet m) ∧
    (f.vSet n u).vGet m = (if m = n then u else f.vGet m) ∧
    (f.xSet n v).kGet m = f.kGet m ∧ (f.xSet n v).vGet m = f.vGet m ∧ (f.kSet n v).xGet m = f.xGet m ∧ (f.kSet n v).vGet m = f.vGet m ∧
    (f.vSet n u).xGet m = f.xGet m ∧ (f.vSet n u).kGet m = f.kGet m

/-- Every two-source scalar instruction of R105, R106, R108 and R110 writes its result to register a and goes on at the next bundle; nothing
else changes. -/
def Obligations.ScalarArithmeticResults : Prop :=
  Sys2Proof.Claims.ArithmeticResults ∧ Sys2Proof.Claims.ShiftMinMaxCompareResults

/-- The one-source instructions of R107 and the immediate ones of R111. -/
def Obligations.CountMoveAndImmediateResults : Prop :=
  Sys2Proof.Claims.OneSourceResults ∧ Sys2Proof.Claims.ImmediateResults

/-- The transfers of control of R114 and R116. -/
def Obligations.TransfersGoWhereTheRulesSay : Prop :=
  Sys2Proof.Claims.BranchesGoWhereTheRulesSay ∧ Sys2Proof.Claims.CallWritesTheLinkRegister


/-! The checks of a bundle and its predicate (03 R82, R87). -/

namespace Sys2Proof.Claims

/-- The state in which the trap of a bundle at its first word has been taken. -/
def trapped (s : State) (c : Cause) (eaddr : Word) : State := s.exact s.cur c eaddr

/-- The profile, legality and windows of R82's checks 4 to 6. -/
def profileOk (s : State) (op : Op) : Bool := op.prof.has (profileOf s.cur)
def fieldsLegal (s : State) (op : Op) (w : Bundle) : Bool := legal op w && coreOk s.cur op w

end Sys2Proof.Claims

/-- R82 for every encoded instruction: the checks 4 to 6 are made in order, whatever the predicate holds, and the first that fails
decides. Outside the profile an Aster, keeper or gateway core raises ILLEGAL; a Yarrow core raises MIGRATE-WHILE-CLAIMED with claims held, and without
claims begins a migration of the frame (09 R269), here where it leads no stream. That `eaddr` is 0 for a register outside its window, of which R411 names only
offsets and rows, is the model's choice (log entry 7). -/
def Obligations.ChecksDecideInOrder : Prop :=
  ∀ (i : Instr) op w s f, i.code? = some (op, w) → s.running = some f → f.mig = none →
    (Sys2Proof.Claims.profileOk s op = false → profileOf s.cur ≠ .L → exec i s = .next (Sys2Proof.Claims.trapped s .illegal 0#64)) ∧
    (Sys2Proof.Claims.profileOk s op = false → profileOf s.cur = .L → f.claims ≠ [] →
      exec i s = .next (Sys2Proof.Claims.trapped s .migrateWhileClaimed 0#64)) ∧
    (Sys2Proof.Claims.profileOk s op = false → profileOf s.cur = .L → f.claims = [] → (∀ n, (s.core s.cur).follow ≠ .leading n) →
      exec i s = .next (s.whileWaiting (fun c => { c with follow := .free, latchA := none, latchB := none, latchC := none })
        { f with mig := some (0, 0#64) })) ∧
    (Sys2Proof.Claims.profileOk s op = true → Sys2Proof.Claims.fieldsLegal s op w = false →
      exec i s = .next (Sys2Proof.Claims.trapped s .illegal 0#64)) ∧
    (Sys2Proof.Claims.profileOk s op = true → Sys2Proof.Claims.fieldsLegal s op w = true → windowsOk f op w = false →
      exec i s = .next (Sys2Proof.Claims.trapped s .window 0#64))

/-- R87 for every scalar, control, memory, task and message instruction: with bit 0 of its predicate 0 it completes with no effect. An
instruction that consumes a successor descriptor is excepted while one is pending: the descriptor is then released (07 R207). -/
def Sys2Proof.Claims.FalsePredicateHasNoEffect : Prop :=
  ∀ (i : Instr) op w s f, i.code? = some (op, w) → isVector op = false → isJob op = false → Ready s op w f → ¬ Enabled f w →
    (consumesSuccessor op = false ∨ f.pending = none) → exec i s = .next (s.pastBundle f w)

/-- R196, R135: a bundle that names a register which an earlier load has yet to write changes nothing: it is issued again later. -/
def Sys2Proof.Claims.BundleWaitsForItsRegisters : Prop :=
  ∀ (i : Instr) op w s f, i.code? = some (op, w) → s.running = some f → f.mig = none → Sys2Proof.Claims.profileOk s op = true →
    Sys2Proof.Claims.fieldsLegal s op w = true → windowsOk f op w = true → s.hazards s.cur f (allNamed op w) = .stall →
    exec i s = .next s

/-! Follow mode (R118 to R121). -/

/-- `lead n` on core 0 of a tile, which leads no stream yet, opens stream n and the cores that wait for it attach at the bundle after it, but for one
that an arrival pre-empts now and one whose 256 cycles have passed (R119), which stay as they are; on the other cores it has no effect. -/
def Sys2Proof.Claims.LeadAttachesTheWaiting : Prop :=
  ∀ w s f, Ready s .lead w f → Enabled f w → (∀ n c, (s.core s.cur).follow ≠ .waiting n c) →
    (∀ n, (s.core s.cur).follow ≠ .leading n) →
    (s.cur % 8 ≠ 0 → exec (.lead w) s = .next (s.pastBundle f w)) ∧
    (s.cur % 8 = 0 → ∃ t, exec (.lead w) s = .next t ∧ (t.core s.cur).follow = .leading (immJ w).toNat ∧
      (t.core s.cur).frames = { f with pc := nextPc f w } :: (s.core s.cur).frames.tail ∧
      (∀ i since g rest, 1 ≤ i → i < 8 → (s.core (s.cur + i)).follow = .waiting (immJ w).toNat since →
        (s.core (s.cur + i)).frames = g :: rest → (s.core (s.cur + i)).candidate = none → s.cycle < since + 256 →
        (t.core (s.cur + i)).follow = .attached (immJ w).toNat [] ∧
          (t.core (s.cur + i)).frames = { g with pc := instrWordAt f w + 2, follows := none } :: rest) ∧
      (∀ i n since, 1 ≤ i → i < 8 → (s.core (s.cur + i)).follow = .waiting n since →
        (n ≠ (immJ w).toNat ∨ (s.core (s.cur + i)).candidate ≠ none ∨ since + 256 ≤ s.cycle) → t.core (s.cur + i) = s.core (s.cur + i)) ∧
      (∀ k, k / 8 ≠ s.cur / 8 → t.core k = s.core k) ∧ t.dram = s.dram ∧ t.tiles = s.tiles ∧ t.ops = s.ops)

/-- `follow n` on cores 1 to 7 begins to wait, and changes nothing more while it waits; `detach` closes the stream of a leader, whose followers still
hold what was forwarded to them (R121); on the other cores both have no effect. -/
def Sys2Proof.Claims.FollowWaitsAndDetachCloses : Prop :=
  (∀ w s f, Ready s .follow w f → Enabled f w →
    (s.cur % 8 = 0 → exec (.follow w) s = .next (s.pastBundle f w)) ∧
    (s.cur % 8 ≠ 0 → (∀ n c, (s.core s.cur).follow ≠ .waiting n c) →
      exec (.follow w) s = .next (s.whileWaiting (fun c => { c with follow := .waiting (immJ w).toNat s.cycle })
        { f with follows := some (instrWordAt f w + 2) })) ∧
    (s.cur % 8 ≠ 0 → (∃ n c, (s.core s.cur).follow = .waiting n c) → exec (.follow w) s = .next s)) ∧
  (∀ w s f, Ready s .detach w f → Enabled f w →
    (∀ n, (s.core s.cur).follow = .leading n →
      ∃ t, exec (.detach w) s = .next t ∧ (t.core s.cur).follow = .free ∧
        (t.core s.cur).frames = { f with pc := nextPc f w } :: (s.core s.cur).frames.tail ∧
        ∀ i l, i < 8 → (s.core (8 * (s.cur / 8) + i)).follow = .attached n l → 8 * (s.cur / 8) + i ≠ s.cur →
          (t.core (8 * (s.cur / 8) + i)).follow = (if l = [] then .free else .draining l) ∧
            (t.core (8 * (s.cur / 8) + i)).frames = (s.core (8 * (s.cur / 8) + i)).frames) ∧
    ((∀ n, (s.core s.cur).follow ≠ .leading n) → exec (.detach w) s = .next (s.pastBundle f w)))

/-- The steps that end following: after 256 cycles a waiting follower goes on after its own `follow` (R119); a follower that holds 8
unexecuted bundles goes on by its own fetch, its operand latches empty (R121). -/
def Sys2Proof.Claims.FollowersGoOnAlone : Prop :=
  (∀ core s n since, (s.core core).follow = .waiting n since → since + 256 ≤ s.cycle → s.stilled core = false →
    ∀ f rest, (s.core core).frames = f :: rest →
      exec (.followTimeout core) s = .next (s.setCore core
        { s.core core with follow := .free, frames := { f with pc := f.follows.getD f.pc, follows := none } :: rest })) ∧
  (∀ core s n l, (s.core core).follow = .attached n l → 8 ≤ l.length →
    exec (.followerOverrunDetach core) s = .next (s.setCore core
      { s.core core with follow := .free, latchA := none, latchB := none, latchC := none }))

/-! System instructions and control registers (R125 to R131; 01 R32 to R42). -/

namespace Sys2Proof.Claims

/-- The control registers of 01 R32, with what `getc` reads. -/
def controlValues (s : State) (f : Frame) : List (Nat × Word) :=
  [ (0x00, f.lv.fmta), (0x01, f.lv.fmtb), (0x02, f.lv.fmtc), (0x03, f.lv.scla), (0x04, f.lv.sclb), (0x05, f.lv.rmode),
    (0x06, BitVec.ofNat 64 f.lv.srst), (0x07, f.lv.fpflg), (0x08, f.lv.fpen), (0x10, BitVec.ofNat 64 f.thr),
    (0x11, BitVec.ofNat 64 f.level), (0x12, f.item), (0x13, BitVec.ofNat 64 f.acb), (0x14, BitVec.ofNat 64 f.fsb), (0x16, f.wins),
    (0x18, BitVec.ofNat 64 f.lv.ldc), (0x19, BitVec.ofNat 64 f.lv.stc), (0x1A, BitVec.ofNat 64 f.lv.cpc),
    (0x1B, BitVec.ofNat 64 f.lv.tlc), (0x1C, BitVec.ofNat 64 (s.core s.cur).cseq), (0x1D, BitVec.ofNat 64 (s.core s.cur).mwt),
    (0x1E, BitVec.ofNat 64 (keyId s.cur)), (0x28, f.exc.ecause), (0x29, f.exc.epc), (0x2A, f.exc.eaddr), (0x2B, f.exc.eseq),
    (0x2C, BitVec.ofNat 64 (s.core s.cur).cpsel),
    (0x15, BitVec.ofNat 64 (if s.cur < 4096 then (s.core s.cur).sat else f.ltag)),
    (0x1F, match profileOf s.cur with | .F => 0#64 | .L => 1#64 | .K => 2#64 | .G => 3#64),
    (0x2D, match (s.core s.cur).cpring[(s.core s.cur).cpsel]? with | some e => BitVec.ofNat 64 e.pc | none => 0#64),
    (0x2E, match (s.core s.cur).cpring[(s.core s.cur).cpsel]? with
      | some e => BitVec.ofNat 64 (e.seq + e.lvl * 2 ^ 16 + 2 ^ 19 + e.done.toNat * 2 ^ 20 + e.flt.toNat * 2 ^ 21)
      | none => 0#64) ] ++
  (List.range 8).map (fun n => (0x20 + n, match kget (s.core s.cur).chans n with
    | some x => BitVec.ofNat 64 (x.bind.toNat % 2 ^ 40 + x.level * 2 ^ 40)
    | none => 0#64)) ++
  (List.range 32).map (fun r => (0x40 + r, BitVec.ofNat 64 ((s.core s.cur).ceil.getD r 0)))

/-- The registers of a level that `setc` writes, with the bits that R35 to R39 name and the special values of R58 and R41. -/
def controlWrites (v : Word) : List (Nat × (LevelState → LevelState)) :=
  [ (0x00, fun l => { l with fmta := v &&& 0x1FF#64 }), (0x01, fun l => { l with fmtb := v &&& 0x1FF#64 }),
    (0x02, fun l => { l with fmtc := v &&& 0xFFF#64 }), (0x03, fun l => { l with scla := v &&& 0xF7FFFF#64 }),
    (0x04, fun l => { l with sclb := v &&& 0xF7FFFF#64 }), (0x05, fun l => { l with rmode := v &&& 0x1F#64 }),
    (0x06, fun l => { l with srst := if v.toNat % 2 ^ 32 = 0 then 0x2545F491 else v.toNat % 2 ^ 32 }),
    (0x07, fun l => { l with fpflg := v &&& 0x3F#64 }), (0x08, fun l => { l with fpen := v &&& 0x3F#64 }) ]

/-- The read-only numbers of 01 R32. -/
def readOnly : List Nat :=
  [0x10, 0x11, 0x12, 0x13, 0x14, 0x15, 0x16, 0x18, 0x19, 0x1A, 0x1B, 0x1C, 0x1E, 0x1F, 0x28, 0x29, 0x2A, 0x2B, 0x2D, 0x2E] ++
    (List.range 8).map (0x20 + ·) ++ (List.range 32).map (0x40 + ·)

end Sys2Proof.Claims

/-- `getc` of each listed register. It waits only for `fpflg`, while bundles of the level are in flight, and for `srst`, while one of
them uses stochastic rounding (01 R34, 02 R58). -/
def Sys2Proof.Claims.GetcReadsTheRegister : Prop :=
  ∀ w s f, Ready s .getc w f → Enabled f w →
    (∀ row ∈ Sys2Proof.Claims.controlValues s f, immI w = row.1 →
      (row.1 = 7 → s.levelQuiet s.cur f = true) → (row.1 = 6 → s.srstBusy s.cur f = false) →
      exec (.getc w) s = .next (s.withResult f w (fieldA w) row.2)) ∧
    (immI w = 7 → s.levelQuiet s.cur f = false → exec (.getc w) s = .next s) ∧
    (immI w = 6 → s.srstBusy s.cur f = true → exec (.getc w) s = .next s)

/-- `setc`: a register of the level takes the bits that its map names; `mwt` and `cpsel` of the core likewise, `cpsel` at level 7 only;
a read-only number is ignored. A number that is not listed or that the profile lacks is ILLEGAL for `getc` and `setc`, whatever the predicate
and the registers (R128; 03 R82 check 5). -/
def Sys2Proof.Claims.SetcWritesTheRegister : Prop :=
  (∀ w s f, Ready s .setc w f → Enabled f w →
    let v := f.xGet (if w.rgx.isSome then fieldC w else fieldA w)
    (∀ row ∈ Sys2Proof.Claims.controlWrites v, immI w = row.1 →
      (row.1 = 6 → s.srstBusy s.cur f = false) →
      exec (.setc w) s = .next (s.withRunning { f with lv := row.2 f.lv, pc := nextPc f w })) ∧
    (immI w = 0x1D →
      exec (.setc w) s = .next (s.withRunningCore (fun c => { c with mwt := if v.toNat % 16 = 0 then 1 else v.toNat % 16 })
        { f with pc := nextPc f w })) ∧
    (immI w = 0x2C → f.level = 7 →
      exec (.setc w) s = .next (s.withRunningCore (fun c => { c with cpsel := v.toNat % 64 }) { f with pc := nextPc f w })) ∧
    (immI w = 0x2C → f.level ≠ 7 → exec (.setc w) s = .next (Sys2Proof.Claims.trapped s .perm 0#64)) ∧
    (∀ n ∈ Sys2Proof.Claims.readOnly, immI w = n → exec (.setc w) s = .next (s.pastBundle f w)) ∧
    (immI w = 6 → s.srstBusy s.cur f = true → exec (.setc w) s = .next s)) ∧
  (∀ row ∈ [((Instr.getc : Bundle → Instr), Op.getc), (Instr.setc, Op.setc)], ∀ w s f, s.running = some f → f.mig = none →
    (immI w < 0 ∨ controlListed (immI w).toNat = false ∨
      (4096 ≤ s.cur ∧ ((immI w).toNat ≤ 4 ∨ (immI w).toNat = 0x13 ∨ (immI w).toNat = 0x1B ∨ (immI w).toNat = 0x1D))) →
    exec (row.1 w) s = .next (Sys2Proof.Claims.trapped s .illegal 0#64))

/-- The handler frame that a trap starts directly above the frame it interrupts (15 R412, 01 R32). -/
def Sys2Proof.Claims.handlerOf (s : State) (f : Frame) (code : Nat) (eaddr h : Word) (g : Frame) : Prop :=
  g.kind = .trapHandler ∧ g.level = 7 ∧ g.pc = h.toNat ∧ g.item = f.item ∧ g.ltag = f.ltag ∧ g.claims = [] ∧ g.thr = 0 ∧
    g.exc = { ecause := BitVec.ofNat 64 (code + 64 * f.level), epc := BitVec.ofNat 64 (f.pc % 2 ^ 57), eaddr := eaddr, eseq := 0#64 } ∧
    g.xGet 1 = BitVec.ofNat 64 f.pc ∧ g.xGet 2 = 0#64 ∧ g.xGet 3 = eaddr ∧ g.xGet 4 = 0#64 ∧
    g.src = { core := keyId s.cur, pkg := s.pkg, space := keySpace s.cur }

/-- What stands in each frame of a stack: task, level, program counter, registers, predicates, claims, the state of its level. -/
def Sys2Proof.Claims.contents (l : List Frame) : List (Nat × Nat × Nat × KMap Word × KMap VReg × KMap Word × List Claim × LevelState) :=
  l.map (fun x => (x.task, x.level, x.pc, x.x, x.v, x.k, x.claims, x.lv))

/-- The outstanding operations without the bytes that a core has asked for to fetch or to execute a bundle. -/
def Sys2Proof.Claims.withoutBuffers (l : KMap MemOp) (core : Nat) : KMap MemOp := l.filter (fun o => !(o.2.core == core && o.2.dest == Dest.buffer))

/-- Lines that were asked for in vain are let go when a bundle traps; the block of a collective handler that traps fails (11 R335). -/
def Sys2Proof.Claims.trapping (s : State) (f : Frame) : State :=
  let s := { s with ops := s.ops.filter (fun o => !(o.2.core == s.cur && o.2.dest == Dest.buffer && o.2.fault.isSome)) }
  match f.kind with | .collective coll block => s.failBlock coll block 6 [] | _ => s

/-- `trap` and `brk` below level 7, with a trap handler whose frame word has been read (v is the state after that): the handler stands
on the stack, with the exception registers and x1 to x4 written; the frame beneath keeps its program counter, its registers,
predicates, claims and counters, and so do those beneath it. -/
def Obligations.TrapAndBreakEnterTheHandler : Prop :=
  ∀ row ∈ [((Instr.trap : Bundle → Instr), Op.trap, (15 : Nat)), (Instr.brk, Op.brk, 14)],
    ∀ w s f c word bad v, Ready s row.2.1 w f → Enabled f w → f.level < 7 → s.ctx f.ltag = some c → c.trapHandler ≠ 0#64 →
      (Sys2Proof.Claims.trapping s f).frameWord s.cur (s.tenantOf f.ltag) c.trapHandler = (.word word bad, v) →
      (∀ a r b n, v.storageHeld s.cur a r b n = false) → (∀ n k, (v.core s.cur).follow ≠ .waiting n k) →
      ∃ t g below, exec (row.1 w) s = .next t ∧ (t.core s.cur).frames = g :: below ∧
        Sys2Proof.Claims.handlerOf s f row.2.2 (BitVec.ofInt 64 (immJ w)) c.trapHandler g ∧
        Sys2Proof.Claims.contents below = Sys2Proof.Claims.contents (v.core s.cur).frames ∧
        t.dram = v.dram ∧ t.ops = Sys2Proof.Claims.withoutBuffers v.ops s.cur ∧ t.tenants = v.tenants ∧ t.fns = v.fns

/-- Below level 7 without a trap handler, any exact trap discards the frame: the stack without it stands (13 R350). -/
def Sys2Proof.Claims.TrapWithoutHandlerDiscards : Prop :=
  ∀ (s : State) (f : Frame) cause eaddr rest, s.top s.cur = some f → (s.core s.cur).frames = f :: rest → f.kind = .task → f.level < 7 →
    (s.ctx f.ltag = none ∨ ∃ c, s.ctx f.ltag = some c ∧ c.trapHandler = 0#64) → (∀ n, (s.core s.cur).follow ≠ .leading n) →
    Sys2Proof.Claims.contents ((s.exact s.cur cause eaddr).core s.cur).frames = Sys2Proof.Claims.contents rest

/-- `eret` of a trap handler that has not migrated, with x2[0] = 0: its frame is popped and the frozen frame resumes at x1, its registers, predicates,
claims and counters as they were. -/
def Sys2Proof.Claims.EretResumesTheFrozenFrame : Prop :=
  ∀ w s h g rest, Ready s .eret w h → Enabled h w → h.level = 7 → h.kind = .trapHandler → h.lv.vq = [] → (h.xGet 2).getLsbD 0 = false →
    h.origin = none → (s.core s.cur).frames = h :: g :: rest → (∀ x ∈ rest, x.task ≠ g.task) → (∀ n, (s.core s.cur).follow ≠ .leading n) →
    ∃ t g', exec (.eret w) s = .next t ∧ (t.core s.cur).frames = g' :: rest ∧ g'.pc = (h.xGet 1).toNat ∧ g'.task = g.task ∧
      g'.level = g.level ∧ g'.kind = g.kind ∧ g'.x = g.x ∧ g'.v = g.v ∧ g'.k = g.k ∧ g'.thr = g.thr ∧ g'.claims = g.claims ∧ g'.lv = g.lv ∧
      g'.exc = g.exc ∧ g'.item = g.item ∧ g'.pending = g.pending ∧ g'.start = none ∧
      g'.mig = (match g.migMark with | some x => some (3, x) | none => none) ∧ t.dram = s.dram ∧ t.tiles = s.tiles ∧
      t.ops = Sys2Proof.Claims.withoutBuffers s.ops s.cur

/-- Where `eret` traps: below level 7 with PERM, and at level 7 in a frame that no trap started with ILLEGAL. -/
def Sys2Proof.Claims.EretTrapsOutsideHandlers : Prop :=
  ∀ w s f, Ready s .eret w f → Enabled f w →
    (f.level ≠ 7 → exec (.eret w) s = .next (Sys2Proof.Claims.trapped s .perm 0#64)) ∧
    (f.level = 7 → f.isTrapHandler = false → exec (.eret w) s = .next (Sys2Proof.Claims.trapped s .illegal 0#64))

/-- `rdtime` reads the package time; `fencei` empties the instruction cache once the level's stores have been performed, with what the core has asked for to
fetch beyond it, and stalls before; `idle` stalls until an event has come (its mark is then 2), and changes no register. -/
def Sys2Proof.Claims.TimeFenceAndIdle : Prop :=
  (∀ w s f, Ready s .rdtime w f → Enabled f w →
    exec (.rdtime w) s = .next (s.withResult f w (fieldA w) (BitVec.ofNat 64 s.time))) ∧
  (∀ w s f, Ready s .fencei w f → Enabled f w →
    (f.lv.stc = 0 → exec (.fencei w) s = .next
      { s.withRunningCore (fun c => { c with icache := [] }) { f with pc := nextPc f w } with ops := Sys2Proof.Claims.withoutBuffers s.ops s.cur }) ∧
    (f.lv.stc ≠ 0 → exec (.fencei w) s = .next s)) ∧
  (∀ w s f, Ready s .idle w f → Enabled f w →
    (f.idle = 2 → exec (.idle w) s = .next (s.withRunning { f with idle := 0, pc := nextPc f w })) ∧
    (f.idle ≠ 2 → exec (.idle w) s = .next (s.whileWaiting id { f with idle := 1 })))

/-- `end` of a task with no claims, no vector bundle in flight, no fault to raise and no successor: its frame is popped, the frame beneath
keeps its program counter and registers, and the unpopped statuses of the level are dropped (09 R253); a registered record's retire notice and
a migrated task's end notice set out (09 R264, R273), and what follows the notice follows the task's accesses (10 R301). Words that are no bundle raise
ILLEGAL at the first of them (03 R88). -/
def Sys2Proof.Claims.EndPopsTheFrame : Prop :=
  (∀ w s f rest, Ready s .endTask w f → Enabled f w → (s.core s.cur).frames = f :: rest → f.kind = .task → f.claims = [] → f.lv.vq = [] →
    f.pending = none → s.faultedOp s.cur f.task (fun _ => true) = none → (∀ n, (s.core s.cur).follow ≠ .leading n) →
    ∃ t, exec (.endTask w) s = .next t ∧ Sys2Proof.Claims.contents (t.core s.cur).frames = Sys2Proof.Claims.contents rest ∧
      (t.core s.cur).statuses = (s.core s.cur).statuses.filter (fun j => j.level != f.level) ∧
      (t.core s.cur).follow = .free ∧ t.dram = s.dram ∧ t.tiles = s.tiles ∧ t.ops = Sys2Proof.Claims.withoutBuffers s.ops s.cur ∧
      t.retired = s.retired ++ f.gov.toList ∧ (f.origin = none → t.notices = s.notices) ∧
      (∀ o, f.origin = some o → ∃ n, t.notices = s.notices ++ [n] ∧ n.core = o ∧ n.task = f.task ∧ n.seen = (s.core s.cur).seen ∧
        ∀ x ∈ s.ops, x.2.core = s.cur → x.2.task = f.task → x.2.performed = false → x.1 ∈ n.after) ∧
      (f.gov = none → f.origin = none → t.msgs = s.msgs ∧ t.flits = s.flits ∧ t.routers = s.routers)) ∧
  (∀ bad s f, s.running = some f → f.mig = none →
    exec (.reservedEncoding bad) s = .next (Sys2Proof.Claims.trapped s .illegal 0#64))

/-- A false predicate (R87) and a register that is still to be written (R196). -/
def Obligations.PredicatesAndWaiting : Prop :=
  Sys2Proof.Claims.FalsePredicateHasNoEffect ∧ Sys2Proof.Claims.BundleWaitsForItsRegisters

/-- `lead`, `follow`, `detach` and the two steps that end following. -/
def Obligations.FollowModeOpensAndCloses : Prop :=
  Sys2Proof.Claims.LeadAttachesTheWaiting ∧ Sys2Proof.Claims.FollowWaitsAndDetachCloses ∧ Sys2Proof.Claims.FollowersGoOnAlone

/-- `getc` and `setc` of the control registers of 01 R32. -/
def Obligations.ControlRegistersReadAndWrite : Prop :=
  Sys2Proof.Claims.GetcReadsTheRegister ∧ Sys2Proof.Claims.SetcWritesTheRegister

/-- A trap without a handler, and the return from one (R127, R413). -/
def Obligations.HandlersEndAndReturn : Prop :=
  Sys2Proof.Claims.TrapWithoutHandlerDiscards ∧ Sys2Proof.Claims.EretResumesTheFrozenFrame ∧ Sys2Proof.Claims.EretTrapsOutsideHandlers

/-- `rdtime`, `fencei`, `idle`, `end` and words that are no bundle. -/
def Obligations.TasksIdleFenceAndEnd : Prop :=
  Sys2Proof.Claims.TimeFenceAndIdle ∧ Sys2Proof.Claims.EndPopsTheFrame


/-! Memory accesses as they issue (07 R194 to R200; 05 R154 to R157). -/

namespace Sys2Proof.Claims

/-- The bytes of a bundle's element. -/
def bytesOf (op : Op) (w : Bundle) : Nat := typeBits (typeOf op w) / 8

/-- The address of form M. -/
def addressM (f : Frame) (w : Bundle) : Word := f.xGet (fieldB w) + BitVec.ofInt 64 (immC w)

/-- The offset of form MS. -/
def offsetMS (f : Frame) (w : Bundle) : Word := f.xGet (fieldB w) + BitVec.ofInt 64 (displacement w)

/-- The condition of 07 R197 on an access with an ordering at some places: no access that it must follow waits with a fault; a release follows all of
them, an acquire the acquires and what reaches its bytes (10 R298). -/
def releaseFree (s : State) (f : Frame) (ord : Nat) (places : List (Loc × Nat)) : Prop :=
  ord ≠ 0 → s.faultedOp s.cur f.task (fun o => decide (2 ≤ ord) || o.ord % 2 == 1 ||
    o.elems.any (fun e => places.any (fun p => locsMeet e.loc e.size p.1 p.2))) = none

/-- The place of a physical address. -/
def placeOf (p : Phys) : Loc := .global p.policy p.home p.pa

/-- The ordering of an access: a store to the register aperture is a release (14 R392). -/
def ordOf (w : Bundle) (kind : OpKind) (p : Phys) : Nat := if p.isRegister && kind.isStore then w.qual.ord.toNat ||| 2 else w.qual.ord.toNat

/-- What an access of global memory needs to issue: an aligned address, room in its counter, a translation p (s1 is the state with the
translation buffers filled), a home that accepts it, no fault that it must follow, and a predictor that does not migrate (s2 is the
state after its count). -/
def accessGoes (s : State) (f : Frame) (w : Bundle) (kind : OpKind) (need : Need) (ea : Word) (n : Nat) (plain : Bool) (p : Phys)
    (s1 s2 : State) : Prop :=
  ea.toNat % n = 0 ∧ capFull f kind = false ∧ s.translate s.cur (s.tenantOf f.ltag) ea need = (.ok p, s1) ∧
    s1.accessRefused f kind p n plain = false ∧ releaseFree s1 f (ordOf w kind p) [(placeOf p, n)] ∧
    s1.predict s.cur f (s1.trueHome s.cur (s1.tenantOf f.ltag) ea p) = (none, s2)

/-- The operation of an access of global memory. -/
def globalOp (s2 : State) (f : Frame) (w : Bundle) (kind : OpKind) (dest : Dest) (p : Phys) (ea : Word) (n data : Nat) : MemOp :=
  opOf s2 f w kind dest (ordOf w kind p) false [Elem.new 0 (placeOf p) ea.toNat n data]

end Sys2Proof.Claims

open Sys2Proof.Claims

/-- `ld` and `ldsx` at the address of form M: an aligned access issues as an outstanding load of its size, with its register as
destination; an `ldf` likewise, which holds up issue when its conversion can trap. -/
def Sys2Proof.Claims.LoadsIssue : Prop :=
  (∀ row ∈ [((Instr.ld : Bundle → Instr), Op.ld), (Instr.ldsx, Op.ldsx)], ∀ w s f p s1 s2, Ready s row.2 w f → Enabled f w →
    accessGoes s f w .load .load (addressM f w) (bytesOf row.2 w) (row.2 == .ld && bytesOf row.2 w == 8) p s1 s2 →
    exec (row.1 w) s = .next (s2.issued f w
      (globalOp s2 f w .load (.scalar (fieldA w) (typeOf row.2 w)) p (addressM f w) (bytesOf row.2 w) 0))) ∧
  (∀ w s f p s1 s2, Ready s .ldf w f → Enabled f w →
    accessGoes s f w .load .load (addressM f w) (bytesOf .ldf w) false p s1 s2 →
    exec (.ldf w) s = .next ((s2.issued f w
      (globalOp s2 f w .load (.float (fieldA w) (typeOf .ldf w)) p (addressM f w) (bytesOf .ldf w) 0)).modTop s.cur
        (fun g => { g with hold := if typeOf .ldf w ≠ 9 ∧ f.trapsOn flNV = true then some s2.nextId else none })))

/-- `st` carries the low bytes of its register; `stf` the conversion of its register, whose flags are ORed into `fpflg`. No byte of memory
has changed yet. -/
def Sys2Proof.Claims.StoresIssue : Prop :=
  (∀ w s f p s1 s2, Ready s .st w f → Enabled f w →
    accessGoes s f w .store .store (addressM f w) (bytesOf .st w) (bytesOf .st w == 8) p s1 s2 →
    exec (.st w) s = .next (s2.issued f w
      (globalOp s2 f w .store .none p (addressM f w) (bytesOf .st w)
        ((f.xGet (fieldA w)).toNat % 2 ^ (8 * bytesOf .st w))))) ∧
  (∀ w s f p s1 s2, Ready s .stf w f → Enabled f w →
    accessGoes s f w .store .store (addressM f w) (bytesOf .stf w) false p s1 s2 →
    f.trapsOn (stfValue (typeOf .stf w) f.lv.rmode (f.xGet (fieldA w))).2 = false →
    exec (.stf w) s = .next ((s2.issued f w
      (globalOp s2 f w .store .none p (addressM f w) (bytesOf .stf w)
        (stfValue (typeOf .stf w) f.lv.rmode (f.xGet (fieldA w))).1)).modTop s.cur
          (fun g => { g with lv := { g.lv with
            fpflg := g.lv.fpflg ||| (stfValue (typeOf .stf w) f.lv.rmode (f.xGet (fieldA w))).2.zeroExtend 64 } })))

/-- `lsp` and `ssp`: the same in the scratch region that the selector names, at an aligned offset inside it. -/
def Sys2Proof.Claims.ScratchAccessesIssue : Prop :=
  ∀ row ∈ [((Instr.lsp : Bundle → Instr), Op.lsp, OpKind.load), (Instr.ssp, Op.ssp, OpKind.store)], ∀ w s f tile off,
    Ready s row.2.1 w f → Enabled f w → (offsetMS f w).toNat % bytesOf row.2.1 w = 0 →
    s.scratchAt s.cur f (selector w) (offsetMS f w).toNat (bytesOf row.2.1 w) = .ok (.array tile off) → capFull f row.2.2 = false →
    releaseFree s f w.qual.ord.toNat [(.array tile off, bytesOf row.2.1 w)] →
    exec (row.1 w) s = .next (s.issued f w
      (opOf s f w row.2.2 (if row.2.1 = .lsp then .scalar (fieldA w) (typeOf .lsp w) else .none) w.qual.ord.toNat false
        [Elem.new 0 (.array tile off) (offsetMS f w).toNat (bytesOf row.2.1 w)
          (if row.2.1 = .lsp then 0 else (f.xGet (fieldA w)).toNat % 2 ^ (8 * bytesOf row.2.1 w))]))

namespace Sys2Proof.Claims

/-- The atomics of R199 with a fixed function. -/
def atomics : List ((Bundle → Instr) × Op) :=
  [ (.aadd, .aadd), (.amin, .amin), (.amax, .amax), (.aminn, .aminn), (.amaxn, .amaxn), (.aand, .aand), (.aor, .aor), (.axor, .axor),
    (.aswp, .aswp), (.acas, .acas), (.afadd, .afadd) ]

/-- What each of them writes (R199): a function of the old value, the operand and the comparand; none where nothing is written. -/
def atomicWrites (ty : Nat) : List (Op × (Nat → Nat → Nat → Option Nat)) :=
  let bits := typeBits ty
  [ (.aadd, fun old x _ => some ((old + x) % 2 ^ bits)),
    (.amin, fun old x _ => some (if sextNat x bits < sextNat old bits then x else old)),
    (.amax, fun old x _ => some (if sextNat old bits < sextNat x bits then x else old)),
    (.aminn, fun old x _ => some (if x < old then x else old)),
    (.amaxn, fun old x _ => some (if old < x then x else old)),
    (.aand, fun old x _ => some (old &&& x)), (.aor, fun old x _ => some (old ||| x)), (.axor, fun old x _ => some (old ^^^ x)),
    (.aswp, fun _ x _ => some x), (.acas, fun old x cmp => if old = cmp then some x else none),
    (.afadd, fun old x _ => some (roundF (fmtOfType ty) rneCtl (addNum false (decodeF (fmtOfType ty) old) (decodeF (fmtOfType ty) x))).1) ]

end Sys2Proof.Claims

/-- An atomic issues at the address in b, with the low bytes of c as operand and of a as comparand, and a as destination; `ahnd` with the
handler of its entry of the launch's table. -/
def Sys2Proof.Claims.AtomicsIssue : Prop :=
  (∀ row ∈ atomics, ∀ w s f p s1 s2, Ready s row.2 w f → Enabled f w →
    let kind : OpKind := .atomic row.2 (typeOf row.2 w) ((f.xGet (fieldC w)).toNat % 2 ^ (8 * bytesOf row.2 w))
      ((f.xGet (fieldA w)).toNat % 2 ^ (8 * bytesOf row.2 w))
    accessGoes s f w kind .atomic (f.xGet (fieldB w)) (bytesOf row.2 w) false p s1 s2 →
    exec (row.1 w) s = .next (s2.issued f w
      (globalOp s2 f w kind (.scalar (fieldA w) (typeOf row.2 w)) p (f.xGet (fieldB w)) (bytesOf row.2 w) 0))) ∧
  (∀ w s f p s1 s2, Ready s .ahnd w f → Enabled f w → s.ahandler f.ltag (modOpt w) ≠ 0#64 →
    let kind : OpKind := .atomic .ahnd 8 (f.xGet (fieldC w)).toNat (s.ahandler f.ltag (modOpt w)).toNat
    accessGoes s f w kind .atomic (f.xGet (fieldB w)) 8 false p s1 s2 →
    exec (.ahnd w) s = .next (s2.issued f w
      (globalOp s2 f w kind (.scalar (fieldA w) 8) p (f.xGet (fieldB w)) 8 0)))

namespace Sys2Proof.Claims

/-- The scalar accesses of global memory: constructor, operation, address and what it needs of its page (R194, R195, R199, R200). -/
def scalarAccesses : List ((Bundle → Instr) × Op × (Frame → Bundle → Word) × Need) :=
  [ (.ld, .ld, addressM, .load), (.ldsx, .ldsx, addressM, .load), (.ldf, .ldf, addressM, .load), (.st, .st, addressM, .store),
    (.stf, .stf, addressM, .store), (.ahnd, .ahnd, fun f w => f.xGet (fieldB w), .atomic) ] ++
  atomics.map (fun row => (row.1, row.2, fun f w => f.xGet (fieldB w), .atomic))

/-- The bytes of such an access. -/
def accessBytes (op : Op) (w : Bundle) : Nat := if op = .ahnd then 8 else bytesOf op w

/-- The accesses that their place refuses: the register aperture takes 8-byte `ld` and `st` only (14 R392), the host no atomic but `aadd` and `acas`
(14 R388). -/
def placeRefuses (op : Op) (w : Bundle) (need : Need) (p : Phys) : Prop :=
  (p.isRegister = true ∧ ¬ ((op = .ld ∨ op = .st) ∧ bytesOf op w = 8)) ∨ (p.policy = 4 ∧ need = .atomic ∧ op ≠ .aadd ∧ op ≠ .acas)

end Sys2Proof.Claims

/-- Where scalar accesses trap before they issue. In global memory: MISALIGN at an address that is no multiple of the size, then the translation's cause (XLATE
or PERM, 13 R376), then PERM where the place takes no such access, each with the address; `ahnd` first asks for its handler, and without one is ABSENT with
the entry's number, which is the model's choice of `eaddr` and of order (log entry 7). `lsp` and `ssp`: MISALIGN, then ABSENT with the selector where
that names no region, then WINDOW outside the region, with the offset (R198). -/
def Obligations.MisalignedAndUntranslatedAccessesTrap : Prop :=
  (∀ row ∈ scalarAccesses, ∀ w s f, Ready s row.2.1 w f → Enabled f w → (row.2.1 = .ahnd → s.ahandler f.ltag (modOpt w) ≠ 0#64) →
    let ea := row.2.2.1 f w
    (ea.toNat % accessBytes row.2.1 w ≠ 0 → exec (row.1 w) s = .next (trapped s .misalign ea)) ∧
    (ea.toNat % accessBytes row.2.1 w = 0 → (if row.2.2.2 = .store then f.lv.stc else f.lv.ldc) < 64 →
      (∀ cause s1, s.translate s.cur (s.tenantOf f.ltag) ea row.2.2.2 = (.error (.cause cause), s1) →
        exec (row.1 w) s = .next (s1.exact s.cur cause ea)) ∧
      (∀ p s1, s.translate s.cur (s.tenantOf f.ltag) ea row.2.2.2 = (.ok p, s1) → placeRefuses row.2.1 w row.2.2.2 p →
        exec (row.1 w) s = .next (s1.exact s.cur .perm ea)))) ∧
  (∀ w s f, Ready s .ahnd w f → Enabled f w → s.ahandler f.ltag (modOpt w) = 0#64 →
    exec (.ahnd w) s = .next (trapped s .absent (BitVec.ofNat 64 (modOpt w)))) ∧
  (∀ row ∈ [((Instr.lsp : Bundle → Instr), Op.lsp), (Instr.ssp, Op.ssp)], ∀ w s f, Ready s row.2 w f → Enabled f w →
    let off := offsetMS f w
    (off.toNat % bytesOf row.2 w ≠ 0 → exec (row.1 w) s = .next (trapped s .misalign off)) ∧
    (off.toNat % bytesOf row.2 w = 0 →
      (s.region s.cur f (selector w) = none → exec (row.1 w) s = .next (trapped s .absent (BitVec.ofNat 64 (selector w)))) ∧
      (∀ tile base size, s.region s.cur f (selector w) = some (tile, base, size) → size < off.toNat + bytesOf row.2 w →
        exec (row.1 w) s = .next (trapped s .window off))))

namespace Sys2Proof.Claims

/-- The vector memory bundles: whether they store, the address of an element (R154 to R156), and the checks of one element. -/
def vectorAccesses : List ((Bundle → Instr) × Op × Bool × (Ctx → Nat → Word) × (Ctx → State → Nat → Except (NoPhys × Word) Loc × State)) :=
  [ (.vld, .vld, false, addrRow, globalElem .load .load addrRow), (.vst, .vst, true, addrRow, globalElem .store .store addrRow),
    (.vlds, .vlds, false, addrScratch, scratchElem addrScratch), (.vsts, .vsts, true, addrScratch, scratchElem addrScratch),
    (.vgather, .vgather, false, addrIndexed, globalElem .load .load addrIndexed),
    (.vscatter, .vscatter, true, addrIndexed, globalElem .store .store addrIndexed) ]

/-- What a meaning is given about a bundle. -/
def contextOf (s : State) (f : Frame) (op : Op) (w : Bundle) : Ctx :=
  { core := s.cur, f := f, op := op, w := w, iword := instrWordAt f w, next := instrWordAt f w + 2 }

/-- The active elements of a bundle of n elements. -/
def activeElements (f : Frame) (w : Bundle) (n : Nat) : List Nat := (List.range n).filter (ElementActive f w)

end Sys2Proof.Claims

/-- A vector memory bundle whose active elements all pass their checks (s1 is the state after them): one operation with an access for each
active element in rising order, of the element's size at the element's address and with the element of the register as data for a store,
and an entry in the level's queue that waits for it. Addresses: base + size · i, or base + the sign-extended index, scaled by the size
unless the bundle says otherwise. -/
def Obligations.VectorAccessesIssue : Prop :=
  ∀ row ∈ vectorAccesses, ∀ w s f elems s1, Ready s row.2.1 w f →
    let c := contextOf s f row.2.1 w
    let n := bytesOf row.2.1 w
    let store := row.2.2.1
    capFull f (if store then .store else .load) = false →
    checkElems (row.2.2.2.2 c) (row.2.2.2.1 c) n (fun i => if store then vElem (8 * n) (f.vGet (fieldA w)) i else 0)
      (activeElements f w (64 / n)) s = (.ok elems, s1) → releaseFree s1 f w.qual.ord.toNat (elems.map (fun e => (e.loc, e.size))) →
    ∃ t o, exec (row.1 w) s = .next t ∧ s1.nextId + 2 ≤ t.nextId ∧ kget t.ops s1.nextId = some o ∧ o.core = s.cur ∧ o.task = f.task ∧
      o.kind = (if store then .store else .load) ∧ o.dest = (if store then .none else .vector (fieldA w) (typeOf row.2.1 w)) ∧ o.vec = true ∧
      o.ord = w.qual.ord.toNat ∧ o.nt = w.qual.flag ∧ o.elems = elems ∧ elems.map (·.ix) = activeElements f w (64 / n) ∧
      (∀ e ∈ elems, e.va = (row.2.2.2.1 c e.ix).toNat ∧ e.size = n ∧
        e.data = (if store then vElem (8 * n) (f.vGet (fieldA w)) e.ix else 0) ∧ e.done = false) ∧
      (∀ k, k ≠ s1.nextId → kget t.ops k = kget s1.ops k) ∧ t.dram = s1.dram ∧
      (∀ g rest, (s1.core s.cur).frames = g :: rest → ∃ v, (t.core s.cur).frames =
        { g with pc := nextPc f w, lv := { g.lv.raise o.kind with vq := g.lv.vq ++ [v] } } :: rest ∧ v.op = some s1.nextId ∧ v.writes = [] ∧
          v.fault = none)

/-! Accesses at their homes (10 R282; 07 R196 to R200; 11 R329). -/

namespace Sys2Proof.Claims

/-- The home takes what a core asks of its own tile in the order issued (13 R360): what it issued there before has been taken. -/
def inTurn (s : State) (id : Nat) (o : MemOp) (e : Elem) : Prop :=
  e.loc.onOwnTile o.core = true → ∀ x ∈ s.ops, x.1 < id → x.2.core = o.core → ∀ d ∈ x.2.elems, d.loc.onOwnTile o.core = true →
    d.taken = true ∨ d.done = true

/-- The operation once the home has taken one of its accesses. -/
def taken (o : MemOp) (e : Elem) : MemOp := if e.taken then o else o.accept e.ix

/-- An access of an outstanding operation that may be performed now on bytes of a line that its home in this package holds. -/
def atHome (s : State) (id : Nat) (o : MemOp) (e : Elem) (policy home pa : Nat) : Prop :=
  kget s.ops id = some o ∧ o.elems.find? (fun d => d.ix == e.ix) = some e ∧ s.performable id o e = true ∧ e.loc = .global policy home pa ∧
    policy ≤ 2 ∧ inAperture pa = false ∧ s.homeDown policy home pa = false ∧ o.elems.any o.unchecked = false ∧ s.storeFault o = none ∧
    inTurn s id o e ∧ (s.lineAt policy home (pa / 64)).map (fun c => c.data.length) = some 64 ∧ pa % 64 + e.size ≤ 64

/-- What a performed access leaves: the access done, with what it read (an acquire also keeps in mind what the releases that it read order,
10 R299); DRAM and every frame as they were. -/
def performedAs (s t : State) (id : Nat) (o : MemOp) (ix got : Nat) : Prop :=
  (∃ l, kget t.ops id = some { o.finish ix got with behind := o.behind ++ l } ∧ (o.ord % 2 = 0 → l = [])) ∧ t.dram = s.dram ∧
    ∀ k, (t.core k).frames = (s.core k).frames

/-- What a load returns of what stands at its place: an acquire that a later access of its core has been performed before (10 R298) returns what stood there
then. -/
def loaded (s : State) (id here : Nat) : Nat := match s.aheads.find? (fun x => x.acquire == id) with | some x => x.now | none => here

/-- An event stands last in a core's inbox; it ends an `idle` of the core's frames (04 R131). -/
def withEvent (c : Core) (e : REvent) : Core :=
  { c with inbox := c.inbox ++ [e], frames := c.frames.map (fun f => { f with idle := if f.idle = 1 then 2 else f.idle }) }

/-- The byte at an address of a home. -/
def byteAt (s : State) (policy home a : Nat) : List Byte := s.readHome policy home a 1

/-- Every byte of a home reads as before, but for n bytes from pa on, which hold v. -/
def storedAt (s t : State) (policy home pa n v : Nat) : Prop :=
  ∀ a, byteAt t policy home a = if pa ≤ a ∧ a < pa + n then [BitVec.ofNat 8 (v / 256 ^ (a - pa))] else byteAt s policy home a

/-- No core runs one of the X9's own atomic handlers, which end when their atomic fails. -/
def noFixedHandler (s : State) : Prop := ∀ x ∈ s.cores, ∀ f rest, x.2.frames = f :: rest → ∀ id, f.kind ≠ .fixedAtomic id

end Sys2Proof.Claims

/-- A store performed at its home changes the bytes from its physical address on, as many as its size, and no other byte; a load changes
none and keeps what it has read. -/
def Obligations.HomeAccessReadsAndWritesItsBytes : Prop :=
  ∀ id s o e policy home pa, atHome s id o e policy home pa →
    (o.kind = .store → ∃ t, exec (.homeAccess id e.ix) s = .next t ∧ storedAt s t policy home pa e.size e.data ∧
      performedAs s t id (taken o e) e.ix 0) ∧
    (o.kind = .load → ∃ t, exec (.homeAccess id e.ix) s = .next t ∧ (∀ a, byteAt t policy home a = byteAt s policy home a) ∧
      performedAs s t id (taken o e) e.ix (loaded s id (leValue (s.readHome policy home pa e.size))))

/-- A scratch access performed in a tile's array: a store changes its bytes and no other, a load none. -/
def Sys2Proof.Claims.ScratchAccessReadsAndWritesItsBytes : Prop :=
  ∀ id s o e tile off, kget s.ops id = some o → o.elems.find? (fun d => d.ix == e.ix) = some e → s.performable id o e = true →
    o.elems.any o.unchecked = false → s.storeFault o = none → e.loc = .array tile off → memWf (s.tile tile).array = true →
    ∃ t, exec (.homeAccess id e.ix) s = .next t ∧ performedAs s t id o e.ix (loaded s id (memGetN (s.tile tile).array off e.size)) ∧
      (∀ a, memGet (t.tile tile).array a =
        if o.kind.isStore = true ∧ off ≤ a ∧ a < off + e.size then BitVec.ofNat 8 (e.data / 256 ^ (a - off))
        else memGet (s.tile tile).array a) ∧
      ∀ u, u ≠ tile → t.tile u = s.tile u

/-- The slice's atomic unit: the old bytes are what the atomic reads, and the bytes from its address on take the function of R199 (or stay,
for an `acas` whose comparand differs); no other byte changes. -/
def Sys2Proof.Claims.AtomicUnitPerformsTheFunction : Prop :=
  ∀ id s o e home pa op ty x cmp, atHome s id o e 0 home pa → o.elems = [e] → o.kind = .atomic op ty x cmp →
    ∀ row ∈ atomicWrites ty, op = row.1 →
      let old := leValue (s.readHome 0 home pa e.size)
      ∃ t, exec (.atomicUnitOp id) s = .next t ∧ performedAs s t id (taken o e) e.ix old ∧
        (∀ v, row.2 old x cmp = some v → storedAt s t 0 home pa e.size v) ∧
        (row.2 old x cmp = none → ∀ a, byteAt t 0 home a = byteAt s 0 home a)

/-- What else an access does when its turn has come: one that may not be performed yet waits; a home that cannot be reached is ABSENT (07 R197),
and of a vector store the lowest-numbered access decides before any is performed (05 R157), those in other packages after a read there; a line that its home
does not hold is reserved there (13 R360); an access to the host or to another package leaves for it (10 R282, 14 R388, R397), one to a function's
registers is performed at once (14 R392); an atomic at a tile, and an `ahnd` anywhere, first sends its handler to a core of the home as a kind-1 message, whose
turn there performs the atomic and pops (07 R199, 09 R255, 11 R320). A posted write to the host counts as performed when it leaves (log entry 17), and an access
over a connection that has failed is ABSENT at once (log entry 30): the model's reading. -/
def Sys2Proof.Claims.AccessesWaitLeaveOrMiss : Prop :=
  (∀ id s o e, kget s.ops id = some o → o.elems.find? (fun d => d.ix == e.ix) = some e →
    (s.performable id o e = false → exec (.homeAccess id e.ix) s = .next s) ∧
    (s.performable id o e = true → o.unchecked e = true → ∀ peer pa, e.loc = .global 3 peer pa →
      (e.asked = true → exec (.homeAccess id e.ix) s = .next s) ∧
      (e.asked = false → s.route peer ≠ 0 → (s.conn (connKey peer 0)).failed = false →
        ∃ t, exec (.homeAccess id e.ix) s = .next t ∧ t.ops = kset s.ops id (o.ask e.ix) ∧ t.cores = s.cores ∧ t.dram = s.dram)) ∧
    (s.performable id o e = true → o.unchecked e = false → o.elems.any o.unchecked = true → exec (.homeAccess id e.ix) s = .next s) ∧
    (s.performable id o e = true → o.elems.any o.unchecked = false →
      (∀ k, s.storeFault o = some k → ∃ elems, exec (.homeAccess id e.ix) s = .next
          { s with ops := kset s.ops id { o with fault := some k, elems := elems } } ∧
        elems.map (fun d => { d with bad := none }) = o.elems.map (fun d => { d with bad := none })) ∧
      (s.storeFault o = none →
        (∀ home pa, e.loc = .global 4 home pa →
          let fn := s.fnOfTenant o.tenant
          let leaves (out : Egress) (o' : MemOp) : Prop := ∃ rels aheads, exec (.homeAccess id e.ix) s = .next
            { s with egress := s.egress ++ [out], ops := kset s.ops id o', rels := rels, aheads := aheads } ∧ (o.ord < 2 → rels = s.rels)
          (e.asked = true → exec (.homeAccess id e.ix) s = .next s) ∧
          (e.asked = false → o.kind = .load → leaves (.hostRead fn (s.ideOf fn) id e.ix pa e.size) (o.ask e.ix)) ∧
          (e.asked = false → o.kind = .store → leaves (.hostWrite fn (s.ideOf fn) id e.ix pa (leBytes e.data e.size)) (o.finish e.ix 0)) ∧
          (∀ op ty x cmp, e.asked = false → o.kind = .atomic op ty x cmp →
            leaves (.hostAtomic fn (s.ideOf fn) id e.ix pa e.size op.op6 x cmp) (o.ask e.ix))) ∧
        (∀ peer pa, e.loc = .global 3 peer pa →
          (e.asked = true → exec (.homeAccess id e.ix) s = .next s) ∧
          (e.asked = false → o.isVecStore = false → noFixedHandler s → (s.route peer = 0 ∨ (s.conn (connKey peer 0)).failed = true) →
            ∃ rels, exec (.homeAccess id e.ix) s = .next { s with ops := kset s.ops id (o.spoil e.ix .absent), rels := rels }) ∧
          (e.asked = false → s.route peer ≠ 0 → (s.conn (connKey peer 0)).failed = false →
            ∃ t, exec (.homeAccess id e.ix) s = .next t ∧ t.ops = kset s.ops id (o.ask e.ix) ∧ t.cores = s.cores ∧ t.dram = s.dram)) ∧
        (∀ policy home pa, e.loc = .global policy home pa → policy ≤ 2 →
          (inAperture pa = true →
            let fn := (pa - apertureBase) / 65536
            let off := (pa - apertureBase) % 65536
            (o.kind = .load → exec (.homeAccess id e.ix) s = .next { s with ops := kset s.ops id (o.finish e.ix (s.regRead fn off).toNat) }) ∧
            (o.kind = .store → exec (.homeAccess id e.ix) s = .next
              { s.regWrite fn off (BitVec.ofNat 64 e.data) with ops := kset s.ops id (o.finish e.ix 0) })) ∧
          (inAperture pa = false →
            (s.homeDown policy home pa = true →
              (o.isVecStore = false → noFixedHandler s →
                exec (.homeAccess id e.ix) s = .next { s with ops := kset s.ops id (o.spoil e.ix .absent) }) ∧
              (o.isVecStore = true → exec (.homeAccess id e.ix) s = .next { s with ops := kset s.ops id (o.finish e.ix 0) })) ∧
            (s.homeDown policy home pa = false → s.lineAt policy home (pa / 64) = none → inTurn s id o e →
              (if policy = 0 then (s.homeLines 0 home).length < sliceLines else (s.tile home).pickWay (pa / 64) ≠ none) →
              ∃ t, exec (.homeAccess id e.ix) s = .next t ∧
                (t.homeLines policy home).any (fun c => c.serves policy (pa / 64) && c.res) = true ∧
                kget t.ops id = some (taken o e) ∧ (∀ k, k ≠ id → kget t.ops k = kget s.ops k) ∧ t.cores = s.cores)))))) ∧
  (∀ id s o e home pa op ty x cmp, kget s.ops id = some o → o.elems = [e] → o.kind = .atomic op ty x cmp → op ≠ .ahnd →
    e.loc = .global 0 home pa → inAperture pa = false →
    (s.performable id o e = false → exec (.atomicUnitOp id) s = .next s) ∧
    (s.performable id o e = true → s.homeDown 0 home pa = true → noFixedHandler s →
      exec (.atomicUnitOp id) s = .next { s with ops := kset s.ops id (o.spoil e.ix .absent) }) ∧
    (s.performable id o e = true → s.homeDown 0 home pa = false → s.lineAt 0 home (pa / 64) = none → (s.homeLines 0 home).length < sliceLines →
      ∃ t, exec (.atomicUnitOp id) s = .next t ∧ (t.homeLines 0 home).any (fun c => c.serves 0 (pa / 64) && c.res) = true ∧
        kget t.ops id = some (taken o e) ∧ (∀ k, k ≠ id → kget t.ops k = kget s.ops k) ∧ t.cores = s.cores)) ∧
  (∀ id s o e policy home pa op ty x cmp, atHome s id o e policy home pa → o.kind = .atomic op ty x cmp → o.dest ≠ .buffer →
    let sent (k level : Nat) (kind : EvKind) (h : Word) : Prop :=
      ∃ t m, exec (.homeAccess id e.ix) s = .next t ∧ kget t.msgs s.nextId = some m ∧ m.msg.kind = 1 ∧ m.src = handlerRouter k ∧
        m.msg.dcore = keyId k ∧ m.msg.dspace = keySpace k ∧ m.msg.dpkg = s.pkg ∧ m.msg.ev = kind ∧ m.msg.level = level ∧ m.msg.handler = h ∧
        kget t.ops id = some ((taken o e).ask e.ix) ∧ t.cores = s.cores ∧ t.dram = s.dram
    (op ≠ .ahnd → (policy = 1 ∨ policy = 2) →
      (e.asked = false → sent (s.handlerCore home) 7 (.fixedAtomic id) 0#64) ∧
      (e.asked = true → (s.coreRunning (.fixedAtomic id) = none → e.taken = true → exec (.homeAccess id e.ix) s = .next s) ∧
        ∀ k f rest, s.coreRunning (.fixedAtomic id) = some k → (s.core k).frames = f :: rest → ∀ row ∈ atomicWrites ty, op = row.1 →
          let old := leValue (s.readHome policy home pa e.size)
          ∃ t l, exec (.homeAccess id e.ix) s = .next t ∧ kget t.ops id = some { (taken o e).finish e.ix old with behind := o.behind ++ l } ∧
            contents (t.core k).frames = contents rest ∧ t.dram = s.dram ∧ (∀ v, row.2 old x cmp = some v → storedAt s t policy home pa e.size v) ∧
            (row.2 old x cmp = none → ∀ a, byteAt t policy home a = byteAt s policy home a))) ∧
    (op = .ahnd → e.asked = false →
      sent (if policy = 0 then coreKey 1 (16 * home + field (BitVec.ofNat 64 pa) 9 6) else s.handlerCore home) 7 (.userAtomic id) (BitVec.ofNat 64 cmp)))

/-- The fill of a reserved line of a slice takes its 64 bytes from DRAM and leaves every other line; a line whose DRAM bytes are bad ends
the accesses that wait for it with an uncorrectable error (15 R423). The host's answer to a request gives the access its data, or a
PERM fault when it is refused; no answer in time is ABSENT (14 R388). -/
def Sys2Proof.Claims.FillsAndHostAnswersArrive : Prop :=
  (∀ line s, s.badLines.contains line = false → ∃ t, exec (.cacheFill line) s = .next t ∧ t.dram = s.dram ∧ t.ops = s.ops ∧
    t.cores = s.cores ∧ ∀ h, (∀ c ∈ kgetD s.slices h [], c.replica = false) → kgetD t.slices h [] = (kgetD s.slices h []).map (fun c =>
      if c.line = line ∧ c.res = true then { c with res := false, data := memGetBytes s.dram (64 * line) 64 } else c)) ∧
  (∀ line s id o e policy home pa, s.badLines.contains line = true → kget s.ops id = some o → o.elems = [e] → e.done = false →
    e.loc = .global policy home pa → policy ≤ 2 → pa / 64 = line → noFixedHandler s →
    ∃ t, exec (.cacheFill line) s = .next t ∧ kget t.ops id = some { o with elems := [{ e with bad := some .ecc }], fault := some .ecc } ∧
      t.dram = s.dram ∧ t.cores = s.cores) ∧
  (∀ id s o e home pa data, kget s.ops id = some o → o.elems.find? (fun d => d.ix == e.ix) = some e → e.loc = .global 4 home pa →
    e.asked = true → e.done = false → o.fault = none →
    (∃ t, exec (.pcieCompletion id e.ix data true) s = .next t ∧ performedAs s t id o e.ix (leValue (data.take e.size))) ∧
    (o.isVecStore = false → noFixedHandler s →
      exec (.pcieCompletion id e.ix data false) s = .next { s with ops := kset s.ops id (o.spoil e.ix .perm) } ∧
      exec (.pcieCompletionTimeout id e.ix) s = .next { s with ops := kset s.ops id (o.spoil e.ix .absent) }) ∧
    (o.elems = [e] → ∀ k, o.spoil e.ix k = { o with elems := [{ e with bad := some k }], fault := some k }))

/-- A performed load whose reply has come and whose acquired accesses are performed delivers the sign- or zero-extended value to its register,
lowers `ldc` and is gone; a performed store lowers `stc` and is gone (R196). -/
def Sys2Proof.Claims.CompletionsLowerTheCounters : Prop :=
  (∀ id s o n ty, kget s.ops id = some o → o.kind = .load → o.dest = .scalar n ty → o.fault = none → o.performed = true → o.vec = false →
    s.ownerSaved o = false → s.afterDone o.behind = true → s.replyOut id = false →
    exec (.loadCompletion id) s = .next
      { s.modTask o.core o.task (fun f =>
          { f.xSet n (let got := (o.elems.head?.map (·.got)).getD 0
                      if isSignedType ty then BitVec.ofInt 64 (sextNat got (typeBits ty)) else BitVec.ofNat 64 (got % 2 ^ typeBits ty))
            with lv := { f.lv with ldc := f.lv.ldc - 1 } })
        with ops := kdel s.ops id }) ∧
  (∀ id s o, kget s.ops id = some o → o.kind = .store → o.dest = .none → o.fault = none → o.performed = true → o.vec = false →
    s.ownerSaved o = false → s.replyOut id = false →
    exec (.storePerformed id) s = .next
      { s.modTask o.core o.task (fun f => { f with lv := { f.lv with stc := f.lv.stc - 1 } }) with ops := kdel s.ops id })

/-- A handler of an `ahnd` that has not ended 4,096 cycles after it started is discarded (R200). -/
def Sys2Proof.Claims.LateHandlerIsDiscarded : Prop :=
  ∀ id s o start k f rest, kget s.ops id = some o → o.handler = some start → s.coreRunning (.userAtomic id) = some k →
    start + 4096 ≤ s.cycle → (s.core k).frames = f :: rest → f.kind = .userAtomic id →
    ∃ t, exec (.ahndTimeout id) s = .next t ∧ contents (t.core k).frames = contents rest

/-! Fences and waits (R201, R202, R231). -/

namespace Sys2Proof.Claims

/-- R202: the limits of `wait`; without IMX those of `cpc` and `tlc` are 31. -/
def limits (w : Bundle) : Nat × Nat × Nat × Nat :=
  let v := if w.imx.isEmpty then rawJ w + 31 * 1024 + 31 * 32768 else rawJ w
  (v % 32, v / 32 % 32, v / 1024 % 32, v / 32768 % 32)

/-- A counter is at its limit or below; 31 is no limit. -/
def under (n limit : Nat) : Prop := limit = 31 ∨ n ≤ limit

end Sys2Proof.Claims

/-- `fence` completes when every access of its task that it orders has been performed, and, where it orders loads, when what the releases that the
core has read leave open at its scope has been performed (10 R299, R302), and then bounds what the core has read ahead (10 R298); it stalls before. Ordering 1
orders loads and atomics only. `wait` completes when its four counters are under their limits, and stalls otherwise; what the core had read ahead before an
access of its own wrote there is gone. -/
def Sys2Proof.Claims.FenceAndWaitComplete : Prop :=
  (∀ w s f, Ready s .fence w f → Enabled f w →
    let orders (o : MemOp) : Bool := w.qual.ord.toNat != 1 || !o.kind.isStore
    let acquired (r : Rel) : Prop := r.reaches s.cur w.qual.scope.toNat = true → s.afterDone r.ops = true
    s.faultedOp s.cur f.task orders = none →
    ((∀ x ∈ s.opsOf s.cur f.task, orders x.2 = true → x.2.performed = true) →
      (w.qual.ord.toNat ≠ 2 → ∀ r ∈ (s.core s.cur).seen, acquired r) → 
        exec (.fence w) s = .next
          ((if w.qual.ord.toNat = 2 then s else s.acquiredAt s.cur w.qual.scope.toNat s.nextId).pastBundle f w)) ∧
    ((∃ x ∈ s.opsOf s.cur f.task, orders x.2 = true ∧ x.2.performed = false) → exec (.fence w) s = .next s) ∧
    (w.qual.ord.toNat ≠ 2 → (∃ r ∈ (s.core s.cur).seen, ¬ acquired r) → exec (.fence w) s = .next s)) ∧
  (∀ w s f, Ready s .wait w f → Enabled f w →
    (under f.lv.ldc (limits w).1 ∧ under f.lv.stc (limits w).2.1 ∧ under f.lv.cpc (limits w).2.2.1 ∧ under f.lv.tlc (limits w).2.2.2 →
      exec (.wait w) s = .next ((s.acquiredAt s.cur 0 s.nextId).pastBundle f w)) ∧
    (¬ (under f.lv.ldc (limits w).1 ∧ under f.lv.stc (limits w).2.1 ∧ under f.lv.cpc (limits w).2.2.1 ∧ under f.lv.tlc (limits w).2.2.2) →
      s.faultedOp s.cur f.task (fun _ => true) = none →
        exec (.wait w) s = .next (s.acquiredAt s.cur 0 s.nextId)))

/-- `ctrw` writes the word at its address when that has reached the threshold, and otherwise stands where it is. -/
def Sys2Proof.Claims.CounterWaitCompares : Prop :=
  ∀ w s f bytes s1, Ready s .ctrw w f → Enabled f w → (f.xGet (fieldB w)).toNat % 8 = 0 →
    (∀ p u, s.translate s.cur (s.tenantOf f.ltag) (f.xGet (fieldB w)) .load = (.ok p, u) → releaseFree s f 1 [(placeOf p, 8)]) →
    s.readV s.cur (s.tenantOf f.ltag) (f.xGet (fieldB w)) 8 .load = (.ok bytes, s1) →
    let v := BitVec.ofNat 64 (leValue bytes)
    ((f.xGet (fieldC w)).toNat ≤ v.toNat → ∃ t, exec (.ctrw w) s = .next t ∧ (∀ g rest, (s1.core s.cur).frames = g :: rest →
      (t.core s.cur).frames = { g.xSet (fieldA w) v with pc := nextPc f w } :: rest) ∧ t.dram = s1.dram ∧ t.ops = s1.ops ∧ t.tiles = s1.tiles) ∧
    (v.toNat < (f.xGet (fieldC w)).toNat → ∃ t, exec (.ctrw w) s = .next t ∧ (t.core s.cur).frames = (s1.core s.cur).frames ∧
      t.dram = s1.dram ∧ t.ops = s1.ops ∧ t.tiles = s1.tiles)

/-- Scalar loads and stores of global memory as they issue. -/
def Obligations.ScalarLoadsAndStoresIssue : Prop :=
  Sys2Proof.Claims.LoadsIssue ∧ Sys2Proof.Claims.StoresIssue

/-- Scratch loads and stores and the atomics as they issue. -/
def Obligations.ScratchAccessesAndAtomicsIssue : Prop :=
  Sys2Proof.Claims.ScratchAccessesIssue ∧ Sys2Proof.Claims.AtomicsIssue

/-- What an access does in a tile's array, an atomic at its home, and an access that waits, leaves the package, misses or cannot be performed. -/
def Obligations.ScratchAndAtomicUnitsPerform : Prop :=
  Sys2Proof.Claims.ScratchAccessReadsAndWritesItsBytes ∧ Sys2Proof.Claims.AtomicUnitPerformsTheFunction ∧ Sys2Proof.Claims.AccessesWaitLeaveOrMiss

/-- Fills, answers of the host, completions, and an `ahnd` handler that is late. -/
def Obligations.OperationsComplete : Prop :=
  Sys2Proof.Claims.FillsAndHostAnswersArrive ∧ Sys2Proof.Claims.CompletionsLowerTheCounters ∧ Sys2Proof.Claims.LateHandlerIsDiscarded

/-- `fence`, `wait` and `await`. -/
def Obligations.FencesAndWaitsComplete : Prop :=
  Sys2Proof.Claims.FenceAndWaitComplete ∧ Sys2Proof.Claims.CounterWaitCompares


/-! Claims, successors, timers, identities, `spawn`, `migr` (07 R203 to R212). -/

namespace Sys2Proof.Claims

/-- The descriptor of `succ` and `relev`: handler in a, control word in b, arguments from c on (R205, R207). -/
def descriptor (s : State) (f : Frame) (w : Bundle) : Descr :=
  let v := f.xGet (fieldB w)
  { handler := f.xGet (fieldA w),
    target := { core := coreKey (field v 31 30) (field v 11 0), pkg := if v.getLsbD 29 then s.pkg else field v 21 12, gov := v.getLsbD 32 },
    level := field v 28 26, args := (List.range 4).map (fun i => f.xGet (fieldC w + i)) }

/-- Its target exists, its level is below 7, and a compute target of this package lies in the tenant's sub-mesh. -/
def descriptorOk (s : State) (f : Frame) (w : Bundle) : Prop :=
  let v := f.xGet (fieldB w)
  field v 28 26 ≠ 7 ∧ field v 31 30 ≠ 3 ∧ coreExists (coreKey (field v 31 30) (field v 11 0)) = true ∧
    ¬ (v.getLsbD 32 = true ∧ field v 31 30 ≠ 0) ∧ s.outsideMesh f.ltag (descriptor s f w).target = false

/-- The message under a name carries a release event (11 R320 kind 1) of a descriptor. -/
def eventMessage (t : State) (id : Nat) (d : Descr) (item : Word) (ltag : Nat) (after : List Nat) : Prop :=
  ∃ m, kget t.msgs id = some m ∧ m.msg.kind = 1 ∧ m.msg.dpkg = d.target.pkg ∧ m.msg.dcore = keyId d.target.core ∧
    m.msg.dspace = keySpace d.target.core ∧ m.msg.gov = d.target.gov ∧ m.msg.level = d.level ∧ m.msg.handler = d.handler ∧
    m.msg.words = d.args ∧ m.msg.item = item ∧ m.msg.ltag = ltag ∧ m.msg.after = after

end Sys2Proof.Claims

/-- R203, with its slots: `claim` raises the threshold to the resource's ceiling and keeps the old one; `release` of the youngest claim restores it. A ceiling
below the level, a resource held already, or a release out of order raises CLAIM with the number; a number outside 0 to 31 raises ILLEGAL. -/
def Obligations.ClaimsNest : Prop :=
  slotOp 0 58 = some .claim ∧ encodeWord 58 0#5 0#5 = 0xE800#16 ∧ slotOp 0 59 = some .release ∧ encodeWord 59 0#5 0#5 = 0xEC00#16 ∧
  (∀ row ∈ [((Instr.claim : Bundle → Instr), Op.claim), (Instr.release, Op.release)], ∀ w s f, s.running = some f → f.mig = none →
    row.2.prof.has (profileOf s.cur) = true → (immJ w < 0 ∨ 31 < immJ w) → exec (row.1 w) s = .next (trapped s .illegal 0#64)) ∧
  (∀ w s f, Ready s .claim w f → Enabled f w →
    let r := (immJ w).toNat
    let ceiling := (s.core s.cur).ceil.getD r 0
    (f.level ≤ ceiling → (∀ x ∈ f.claims, x.res ≠ r) → exec (.claim w) s = .next (s.withRunning
      { f with claims := { res := r, thr := f.thr } :: f.claims, thr := max f.thr ceiling, pc := nextPc f w })) ∧
    (ceiling < f.level ∨ (∃ x ∈ f.claims, x.res = r) → exec (.claim w) s = .next (trapped s .claim (BitVec.ofNat 64 r)))) ∧
  (∀ w s f, Ready s .release w f → Enabled f w →
    let r := (immJ w).toNat
    (∀ x rest, f.claims = x :: rest → x.res = r →
      exec (.release w) s = .next (s.withRunning { f with claims := rest, thr := x.thr, pc := nextPc f w })) ∧
    ((∀ x ∈ f.claims.head?, x.res ≠ r) → exec (.release w) s = .next (trapped s .claim (BitVec.ofNat 64 r))))

/-- `succ` holds its descriptor pending in place of any other; `relev` sends it at once as a release event. That it starts after every
access of the core not yet performed, and not only after those of its task (R204, 10 R299), is the model's choice (log entry 18). -/
def Sys2Proof.Claims.SuccessorsAreHeldAndReleased : Prop :=
  (∀ w s f, Ready s .succ w f → Enabled f w → descriptorOk s f w →
    exec (.succ w) s = .next (s.withRunning { f with pending := some (descriptor s f w), pc := nextPc f w })) ∧
  (∀ w s f, Ready s .relev w f → Enabled f w → descriptorOk s f w → releaseFree s f 2 [] →
    ∃ t, exec (.relev w) s = .next t ∧ eventMessage t s.nextId (descriptor s f w) f.item f.ltag (s.unperformed s.cur) ∧
      t.cores = (s.pastBundle f w).cores ∧ t.dram = s.dram ∧ t.tiles = s.tiles ∧ t.ops = s.ops ∧ t.dies = s.dies)

/-- `tmr` arms the lowest free timer with the pending descriptor, at a time or after a delay, and writes its handle; with option 2 it
cancels the timer whose handle it is given and says whether it was armed. A timer at or past its deadline releases its
descriptor (R210); what that starts after is the model's choice (log entry 18). -/
def Sys2Proof.Claims.TimersArmCancelAndExpire : Prop :=
  (∀ w s f d i, Ready s .tmr w f → Enabled f w → modOpt w < 2 → f.pending = some d → (s.core s.cur).freeTimer = some i →
    releaseFree s f 2 [] →
    let h := BitVec.ofNat 64 (((s.core s.cur).timerArms + 1) * 256 + i)
    let timer : Timer :=
      { deadline := if modOpt w = 1 then (s.time + (f.xGet (fieldB w)).toNat) % 2 ^ 64 else (f.xGet (fieldB w)).toNat,
        handle := h, descr := d, item := f.item, ltag := f.ltag, after := s.unperformed s.cur }
    exec (.tmr w) s = .next (s.withRunningCore
      (fun c => { c with timerArms := c.timerArms + 1, timers := kset c.timers i timer })
      { ({ f with pending := none } : Frame).xSet (fieldA w) h with pc := nextPc f w })) ∧
  (∀ w s f, Ready s .tmr w f → Enabled f w → modOpt w = 2 →
    (∀ t, kget (s.core s.cur).timers ((f.xGet (fieldB w)).toNat % 8) = some t → t.handle = f.xGet (fieldB w) →
      exec (.tmr w) s = .next (s.withRunningCore
        (fun c => { c with timers := kdel c.timers ((f.xGet (fieldB w)).toNat % 8) }) { f.xSet (fieldA w) 1#64 with pc := nextPc f w })) ∧
    ((∀ t, kget (s.core s.cur).timers ((f.xGet (fieldB w)).toNat % 8) = some t → t.handle ≠ f.xGet (fieldB w)) →
      exec (.tmr w) s = .next (s.withResult f w (fieldA w) 0#64))) ∧
  (∀ core i s (t : Timer), kget (s.core core).timers i = some t → t.deadline ≤ s.time → s.stilled core = false → s.parked t.ltag = false →
    ∃ u, exec (.timerExpiry core i) s = .next u ∧ kget (u.core core).timers i = none ∧
      eventMessage u s.nextId t.descr t.item t.ltag t.after ∧ u.dram = s.dram ∧ u.ops = s.ops)

/-- `getid` gives launch tag, die and the die's count, which goes up by one modulo 2^45 (R212); the count of no other die changes. -/
def Sys2Proof.Claims.GetidCountsUp : Prop :=
  ∀ w s f, Ready s .getid w f → Enabled f w → isCompute s.cur = true →
    let d := s.cur / 512
    let n := (s.die d).idCount
    exec (.getid w) s = .next
      ({ s with dies := kset s.dies d { s.die d with idCount := (n + 1) % 2 ^ 45 } }.withResult f w (fieldA w)
        (BitVec.ofNat 64 (f.ltag * 2 ^ 48 + d * 2 ^ 45 + n)))

/-- `spawn` of a legal record, read at its aligned address, puts a record in the ready queue of its die's Governor with the handler, level,
item, affinity and arguments of the record (R209). -/
def Sys2Proof.Claims.SpawnQueuesARecord : Prop :=
  ∀ w s f bytes s1, Ready s .spawn w f → Enabled f w → (f.xGet (fieldA w)).toNat % 16 = 0 →
    s.readV s.cur (s.tenantOf f.ltag) (f.xGet (fieldA w)) 96 .load = (.ok bytes, s1) → spawnBad bytes = false → releaseFree s1 f 2 [] →
    (field (recWord bytes 1) 5 4 = 3 → s1.dieInMesh (s1.tenantOf f.ltag) (field (recWord bytes 1) 10 8) = true) →
    (s1.die (s.cur / 512)).ready.length < 4096 → (s1.die (s.cur / 512)).rangeCount ≤ 2046 →
    ∃ t g, exec (.spawn w) s = .next t ∧ (t.die (s.cur / 512)).ready = (s1.die (s.cur / 512)).ready ++ [g] ∧
      g.ev.handler = recWord bytes 0 ∧ g.ev.level = field (recWord bytes 1) 2 0 ∧ g.ev.item = recWord bytes 2 ∧
      g.ev.args = [recWord bytes 8, recWord bytes 9, recWord bytes 10, recWord bytes 11] ∧ g.ev.ltag = f.ltag ∧
      g.aff = field (recWord bytes 1) 5 4 ∧ g.affDie = field (recWord bytes 1) 10 8 ∧
      (∀ d, d ≠ s.cur / 512 → t.die d = s1.die d) ∧ t.dram = s1.dram ∧ t.msgs = s1.msgs ∧
      (∀ h rest, (s1.core s.cur).frames = h :: rest → (t.core s.cur).frames = { h with pc := nextPc f w } :: rest)

/-- `migr` below level 7 with no claims begins a migration: the frame waits until it has drained, and remembers the core that it names, its
register and the length of its bundle. Claims held raise CLAIM. Once it has drained, a frame that names its own core stays, goes on after
the bundle and has 0 in the register (R212, 09 R270). -/
def Sys2Proof.Claims.MigrationDrainsFirst : Prop :=
  (∀ w s f, Ready s .migr w f → Enabled f w → f.isTrapHandler = false → f.claims = [] →
    s.outsideMesh f.ltag { core := (f.xGet (fieldA w)).toNat % 4096, pkg := s.pkg, gov := false } = false →
    exec (.migr w) s = .next (s.whileWaiting id
      { f with mig := some (1, BitVec.ofNat 64 ((f.xGet (fieldA w)).toNat % 8192 + fieldA w * 2 ^ 16 +
          (nextPc { f with pc := 0 } w) * 2 ^ 32)) })) ∧
  (∀ w s f x, Ready s .migr w f → Enabled f w → f.isTrapHandler = false → f.claims.head? = some x →
    exec (.migr w) s = .next (trapped s .claim (BitVec.ofNat 64 x.res))) ∧
  (∀ core (s : State) (f : Frame) rest word, (s.core core).frames = f :: rest → f.mig = some (1, word) → s.stilled core = false → f.drained = true →
    s.faultedOp core f.task (fun _ => true) = none → field word 12 12 = 0 → field word 11 0 = core →
    exec (.migrationSend core) s = .next (s.modTop core (fun g =>
      { g.xSet (field word 31 16) 0#64 with pc := (g.pc + field word 63 32) % 2 ^ 64, mig := none })))

/-! Messages, masks, channels (07 R213 to R218). -/

namespace Sys2Proof.Claims

/-- A message of the network is one of words for a channel (11 R320 kind 2). -/
def channelMessage (t : State) (id : Nat) (f : Frame) (w : Bundle) (pkg target cls : Nat) : Prop :=
  ∃ m, kget t.msgs id = some m ∧ m.msg.kind = 2 ∧ m.msg.dpkg = pkg ∧ m.msg.dcore = keyId target ∧ m.msg.dspace = keySpace target ∧
    m.msg.cls = cls ∧ m.msg.level = f.level ∧ m.msg.words = f.xRange (fieldC w) (modOpt w / 2 % 4 + 1) ∧
    m.msg.endw = bitOf (modOpt w) 3 ∧ m.msg.ordered = true

/-- How many words a channel send has, the end word counted. -/
def wordCount (w : Bundle) : Nat := modOpt w / 2 % 4 + 1 + (if bitOf (modOpt w) 3 then 1 else 0)

end Sys2Proof.Claims

/-- The active-message kind of `send` starts a task at the handler in b, at the level and core that the control word in a names, with four
words from c on; of `reply`, on the core that sent this frame's message. Level 7 and space 3 in the control word are ILLEGAL for both (R215). -/
def Sys2Proof.Claims.ActiveMessagesLeave : Prop :=
  ∀ row ∈ [((Instr.send : Bundle → Instr), Op.send, false), (Instr.reply, Op.reply, true)], ∀ w s f, Ready s row.2.1 w f → Enabled f w →
    modOpt w % 2 = 0 →
    let v := f.xGet (fieldA w)
    let target := if row.2.2 then coreKey f.src.space f.src.core else coreKey (field v 31 30) (field v 11 0)
    let pkg := if row.2.2 then f.src.pkg else if v.getLsbD 29 then s.pkg else field v 21 12
    (field v 28 26 = 7 ∨ field v 31 30 = 3 → exec (row.1 w) s = .next (trapped s .illegal 0#64)) ∧
    (field v 28 26 ≠ 7 → field v 31 30 ≠ 3 → (row.2.2 = false → coreExists target = true) →
    s.outsideMesh f.ltag { core := target, pkg := pkg, gov := false } = false → (f.xGet (fieldB w)).getLsbD 0 = false →
    releaseFree s f w.qual.ord.toNat [] →
    ∃ t m, exec (row.1 w) s = .next t ∧ kget t.msgs s.nextId = some m ∧ m.msg.kind = 0 ∧ m.msg.dpkg = pkg ∧ m.msg.dcore = keyId target ∧
      m.msg.dspace = keySpace target ∧ m.msg.cls = field v 25 22 ∧ m.msg.level = field v 28 26 ∧ m.msg.handler = f.xGet (fieldB w) ∧
      m.msg.words = f.xRange (fieldC w) 4 ∧ m.msg.ordered = !w.qual.flag ∧ m.msg.item = f.item ∧ m.msg.ltag = f.ltag ∧
      t.cores = (s.pastBundle f w).cores ∧ t.dram = s.dram ∧ t.tiles = s.tiles ∧ t.ops = s.ops)

/-- The channel kind sends its words, and an end word when the modifier says so, to each target: for `send` the core of the control word, or
those of its tile that the mask names; for `reply` the core that sent this frame's message. They are ordered whatever the flag says. With more than 32 unacknowledged words
towards a target it stalls (11 R328). -/
def Sys2Proof.Claims.ChannelWordsLeave : Prop :=
  ∀ row ∈ [((Instr.send : Bundle → Instr), Op.send, false), (Instr.reply, Op.reply, true)], ∀ w s f, Ready s row.2.1 w f → Enabled f w →
    modOpt w % 2 = 1 →
    let v := f.xGet (fieldA w)
    let pkg := if row.2.2 then f.src.pkg else field v 21 12
    let targets := if row.2.2 then [coreKey f.src.space f.src.core] else
      if field v 39 32 = 0 then [field v 11 0]
      else ((List.range 8).filter (fun i => (field v 39 32).testBit i)).map (fun i => field v 11 0 / 8 * 8 + i)
    (∀ k ∈ targets, s.outsideMesh f.ltag { core := k, pkg := pkg, gov := false } = false) →
    ((∃ k ∈ targets, 32 < s.unacked s.cur pkg k + wordCount w) → exec (row.1 w) s = .next s) ∧
    ((∀ k ∈ targets, s.unacked s.cur pkg k + wordCount w ≤ 32) → releaseFree s f w.qual.ord.toNat [] → ∃ t, exec (row.1 w) s = .next t ∧
      (∀ (i : Nat) k, targets[i]? = some k → channelMessage t (s.nextId + i) f w pkg k (field v 25 22) ∧
        t.unacked s.cur pkg k = s.unacked s.cur pkg k + wordCount w) ∧
      t.nextId = s.nextId + targets.length ∧ (t.core s.cur).frames = { f with pc := nextPc f w } :: (s.core s.cur).frames.tail ∧
      t.dram = s.dram ∧ t.tiles = s.tiles ∧ t.ops = s.ops)

/-- The bits of a binding word that R218 gives a meaning: source core, package (not used with bit 24) and tile mask, or the class. -/
def Sys2Proof.Claims.bindMask (v : Word) : Word :=
  if v.toNat % 4 = 1 then (if v.getLsbD 24 then 0xFF01003FFF#64 else 0xFF00FFFFFF#64) else 0x3F#64

/-- `cmask` and `cunmask` set and clear the mask of their class (R217); `chbind` binds channel a by source or by class, or unbinds it, and
keeps the words of a channel bound again; code 3 is ILLEGAL, a channel of another level raises PERM, and it waits while a bundle of the level
still uses the channel (R218). -/
def Obligations.MasksAndBindings : Prop :=
  (∀ w s f, Ready s .cmask w f → Enabled f w → exec (.cmask w) s = .next (s.withRunningCore
    (fun c => { c with masks := c.masks ||| BitVec.ofNat 16 (2 ^ (immJ w).toNat) }) { f with pc := nextPc f w })) ∧
  (∀ w s f, Ready s .cunmask w f → Enabled f w → exec (.cunmask w) s = .next (s.withRunningCore
    (fun c => { c with masks := c.masks &&& ~~~ BitVec.ofNat 16 (2 ^ (immJ w).toNat) }) { f with pc := nextPc f w })) ∧
  (∀ w s f, Ready s .chbind w f → Enabled f w →
    let n := fieldA w
    let v := f.xGet (fieldB w)
    (v.toNat % 4 = 3 → exec (.chbind w) s = .next (trapped s .illegal 0#64)) ∧
    (∀ x, v.toNat % 4 ≠ 3 → kget (s.core s.cur).chans n = some x → x.level ≠ f.level → exec (.chbind w) s = .next (trapped s .perm 0#64)) ∧
    ((∀ x, kget (s.core s.cur).chans n = some x → x.level = f.level) → s.chanBusy s.cur f n = false → f.chanQueued n = false →
      (v.toNat % 4 = 0 → exec (.chbind w) s = .next (s.withRunningCore
        (fun c => { c with chans := kdel c.chans n }) { f with pc := nextPc f w })) ∧
      (v.toNat % 4 = 1 ∨ v.toNat % 4 = 2 →
        let x : Chan := { bind := v &&& bindMask v, level := f.level, ltag := f.ltag, q := ((kget (s.core s.cur).chans n).map (·.q)).getD [] }
        exec (.chbind w) s = .next (s.withRunningCore (fun c => { c with chans := kset c.chans n x }) { f with pc := nextPc f w }))) ∧
    ((∀ x, kget (s.core s.cur).chans n = some x → x.level = f.level) → v.toNat % 4 ≠ 3 →
      (s.chanBusy s.cur f n = true ∨ f.chanQueued n = true) → exec (.chbind w) s = .next s))

/-! Barriers (07 R219 to R222; 09 R266 to R268). -/

/-- `arrive` at a unit of its own die: the member's lead goes up, and when every other member has one the phase goes up and the leads of the
others go down; a member that is three phases ahead stalls; a core that is no member raises PERM, a unit of no launch ABSENT. At
a unit of another die it sends a message, waits, and completes when the acknowledgement has come. The unit number as `eaddr` of ABSENT is
the model's choice (log entry 7). -/
def Sys2Proof.Claims.ArrivalsCount : Prop :=
  (∀ w s f b, Ready s .arrive w f → Enabled f w → isCompute s.cur = true → (bitOf (rawJ w) 11 = true → bitsOf (rawJ w) 10 8 = s.cur / 512) →
    let u := rawJ w % 256
    kget (s.die (s.cur / 512)).barriers u = some b → b.ltag = f.ltag → releaseFree s f w.qual.ord.toNat [] →
    (¬ s.cur ∈ b.members → exec (.arrive w) s = .next (trapped s .perm 0#64)) ∧
    (s.cur ∈ b.members → 3 ≤ b.lead s.cur → exec (.arrive w) s = .next s) ∧
    (s.cur ∈ b.members → b.lead s.cur < 3 →
      let last := b.lead s.cur = 0 ∧ ∀ m ∈ b.members, m ≠ s.cur → b.lead m ≠ 0
      ∃ t b', exec (.arrive w) s = .next t ∧ kget (t.die (s.cur / 512)).barriers u = some b' ∧ b'.members = b.members ∧
        (¬ last → b'.phase = b.phase ∧ b'.lead s.cur = b.lead s.cur + 1 ∧ ∀ m, m ≠ s.cur → b'.lead m = b.lead m) ∧
        (last → b'.phase = (b.phase + 1) % 2 ^ 32 ∧ ∀ m ∈ b.members, b'.lead m = b.lead m - (if m = s.cur then 0 else 1)) ∧
        t.cores = (s.pastBundle f w).cores ∧ t.dram = s.dram ∧ t.tiles = s.tiles ∧ t.ops = s.ops)) ∧
  (∀ w s f, Ready s .arrive w f → Enabled f w → isCompute s.cur = true → bitOf (rawJ w) 11 = false →
    kget (s.die (s.cur / 512)).barriers (rawJ w % 256) = none → releaseFree s f w.qual.ord.toNat [] →
    exec (.arrive w) s = .next (trapped s .absent (BitVec.ofNat 64 (rawJ w % 256)))) ∧
  (∀ w s f, Ready s .arrive w f → Enabled f w → (isCompute s.cur = true → bitOf (rawJ w) 11 = true ∧ bitsOf (rawJ w) 10 8 ≠ s.cur / 512) →
    (f.arrive = 2 → exec (.arrive w) s = .next (s.withRunning { f with arrive := 0, pc := nextPc f w })) ∧
    (f.arrive = 1 → exec (.arrive w) s = .next s) ∧
    (f.arrive = 0 → releaseFree s f w.qual.ord.toNat [] → ∃ t m, exec (.arrive w) s = .next t ∧ kget t.msgs s.nextId = some m ∧ m.msg.kind = 8 ∧
      m.msg.words = [BitVec.ofNat 64 (rawJ w % 256 + 256 * (if bitOf (rawJ w) 11 then bitsOf (rawJ w) 10 8 else s.cur / 512)), BitVec.ofNat 64 s.cur,
        BitVec.ofNat 64 f.task] ∧ m.msg.ltag = f.ltag ∧ (t.core s.cur).frames = { f with arrive := 1 } :: (s.core s.cur).frames.tail ∧
      t.dram = s.dram ∧ t.ops = s.ops ∧ t.dies = s.dies))

/-- `bwait` stores the pending successor at its unit while the phase it names has not completed (modulo 2^32), where it waits for a place when 64 are
stored, and releases it at once when it has; it then starts after what the `bwait` and the arrivals that reach it release (10 R299). That the `bwait` releases every
access of its core, and that one at a unit of another die stores or releases at once, is the model's choice (log entry 18). -/
def Sys2Proof.Claims.BarrierWaitStoresOrReleases : Prop :=
  ∀ w s f b d, Ready s .bwait w f → Enabled f w → f.pending = some d →
    let n := imxValue w * 32 + w.b.toNat
    let die := if bitOf n 11 then bitsOf n 10 8 else s.cur / 512
    let p := (f.xGet (fieldA w)).toNat % 2 ^ 32
    kget (s.die die).barriers (n % 256) = some b → b.ltag = f.ltag → releaseFree s f 2 [] →
    (2 ^ 31 ≤ (b.phase + 2 ^ 32 - p) % 2 ^ 32 → b.store.length < 64 →
      ∃ t b' x, exec (.bwait w) s = .next t ∧ kget (t.die die).barriers (n % 256) = some b' ∧ b'.store = b.store ++ [x] ∧ x.phase = p ∧
        x.ev.handler = d.handler ∧ x.ev.level = d.level ∧ x.ev.args = d.args ∧ x.target = d.target ∧ x.scope = w.qual.scope.toNat ∧ x.after = s.unperformed s.cur ∧ b'.phase = b.phase ∧ b'.leads = b.leads ∧
        t.cores = (s.withRunning { f with pending := none, pc := nextPc f w }).cores ∧ t.msgs = s.msgs ∧ t.dram = s.dram ∧ t.ops = s.ops) ∧
    (2 ^ 31 ≤ (b.phase + 2 ^ 32 - p) % 2 ^ 32 → 64 ≤ b.store.length →
      ∃ t b' x, exec (.bwait w) s = .next t ∧ kget (t.die die).barriers (n % 256) = some b' ∧ b'.store = b.store ∧ b'.overflow = b.overflow ++ [x] ∧
        x.phase = p ∧ x.ev.handler = d.handler ∧ x.target = d.target ∧
        t.cores = (s.withRunning { f with pending := none, pc := nextPc f w }).cores ∧ t.msgs = s.msgs) ∧
    ((b.phase + 2 ^ 32 - p) % 2 ^ 32 < 2 ^ 31 →
      ∃ t, exec (.bwait w) s = .next t ∧ eventMessage t s.nextId d f.item f.ltag (s.unperformed s.cur ++
          (b.after.filter (fun r => r.reaches d.target.core w.qual.scope.toNat)).flatMap (·.ops)) ∧
        t.cores = (s.withRunning { f with pending := none, pc := nextPc f w }).cores ∧ t.dies = s.dies ∧ t.dram = s.dram ∧ t.ops = s.ops)

/-! Engine pushes (07 R223 to R230; 11 R331, R334). -/

namespace Sys2Proof.Claims

/-- The identity of a push (R224): the count of the core's pushes, the engine, the core. -/
def pushIdentity (s : State) (engine : Nat) : Nat :=
  ((s.core s.cur).pushes + 1) % 65536 + engine * 2 ^ 16 + keyId s.cur * 2 ^ 20 + keySpace s.cur * 2 ^ 32

/-- The frame after a push: identity in a, `cpc` up by one, the pending successor taken. -/
def pushedFrame (g f : Frame) (w : Bundle) (ident : Nat) : Frame :=
  { ({ g with pending := none, lv := { g.lv with cpc := g.lv.cpc + 1 } } : Frame).xSet (fieldA w) (BitVec.ofNat 64 ident) with
    pc := nextPc f w }

/-- The eight words of a push: `cpy` has four and zeros. -/
def pushWords (f : Frame) (w : Bundle) (n : Nat) : List Word := f.xRange (fieldB w) n ++ List.replicate (8 - n) 0#64

end Sys2Proof.Claims

/-- `cpy` and `cpyx` of a legal command that moves something put a job in the copy unit with the command's words and the successor;
one that moves nothing holds its status, OK, at once and releases its successor. That the job waits for every access of the core, and not only for its task's
stores (R224), is the model's choice (log entry 18). -/
def Sys2Proof.Claims.CopiesArePushed : Prop :=
  ∀ row ∈ [((Instr.cpy : Bundle → Instr), Op.cpy, 4), (Instr.cpyx, Op.cpyx, 8)], ∀ w s f, Ready s row.2.1 w f → Enabled f w →
    let words := pushWords f w row.2.2
    copyBad words (tileOf s.cur) s.pkg (kget (s.tile (tileOf s.cur)).layouts (copyCmd words).slot) = false → f.lv.cpc < 32 →
    s.faultedOp s.cur f.task (fun _ => true) = none →
    ((copyCmd words).empty = false → ∃ t j, exec (row.1 w) s = .next t ∧ kget t.copies s.nextId = some j ∧ j.words = words ∧ j.core = s.cur ∧ j.task = f.task ∧ j.level = f.level ∧
      j.ident = pushIdentity s 1 ∧ j.succ = f.pending ∧ j.status = none ∧ j.after = s.unperformed s.cur ∧
      (t.core s.cur).frames = pushedFrame f f w (pushIdentity s 1) :: (s.core s.cur).frames.tail ∧
      t.dram = s.dram ∧ t.tiles = s.tiles ∧ t.ops = s.ops ∧ t.msgs = s.msgs) ∧
    ((copyCmd words).empty = true → f.pending = none → (∀ g ∈ (s.core s.cur).frames.tail, g.task ≠ f.task) →
      ∃ t, exec (row.1 w) s = .next t ∧ (∃ x ∈ (t.core s.cur).statuses, x.level = f.level ∧ x.engine = 1 ∧ x.job = pushIdentity s 1 ∧ x.status = 1) ∧
        (t.core s.cur).frames = { f.xSet (fieldA w) (BitVec.ofNat 64 (pushIdentity s 1)) with pc := nextPc f w } :: (s.core s.cur).frames.tail ∧
        t.copies = s.copies ∧ t.dram = s.dram ∧ t.tiles = s.tiles ∧ t.ops = s.ops ∧ t.msgs = s.msgs) ∧
    (∀ d, (copyCmd words).empty = true → f.pending = some d → ∃ t, exec (row.1 w) s = .next t ∧
      eventMessage t s.nextId d f.item f.ltag (s.unperformed s.cur) ∧ t.copies = s.copies)

/-- `cpytst` and `uepop`: 15 for a name that is not an engine's of theirs, 0 while the job runs, and otherwise the status held for the level,
which is then gone, or 15 (R227). What the core had read ahead before the job wrote there is gone (10 R298). -/
def Sys2Proof.Claims.StatusesArePopped : Prop :=
  ∀ row ∈ [((Instr.cpytst : Bundle → Instr), Op.cpytst, [1, 2]), (Instr.uepop, Op.uepop, [3])], ∀ w s f, Ready s row.2.1 w f → Enabled f w →
    let job := (f.xGet (fieldB w)).toNat
    let engine := field (f.xGet (fieldB w)) 19 16
    let v := s.acquiredAt s.cur 0 s.nextId
    (¬ engine ∈ row.2.2 → exec (row.1 w) s = .next (v.withResult f w (fieldA w) 15#64)) ∧
    (engine ∈ row.2.2 → s.jobPending s.cur f.level job = true → exec (row.1 w) s = .next (v.withResult f w (fieldA w) 0#64)) ∧
    (engine ∈ row.2.2 → s.jobPending s.cur f.level job = false →
      (∀ x, (s.core s.cur).statuses.find? (fun x => x.level == f.level && x.engine == engine && x.job == job) = some x →
        exec (row.1 w) s = .next (v.withRunningCore (fun c => { c with statuses := c.statuses.erase x })
          { f.xSet (fieldA w) (BitVec.ofNat 64 x.status) with pc := nextPc f w })) ∧
      ((s.core s.cur).statuses.find? (fun x => x.level == f.level && x.engine == engine && x.job == job) = none →
        exec (row.1 w) s = .next (v.withResult f w (fieldA w) 15#64)))

/-- `lxload` of a legal layout program puts its operations in the slot of the tile that the header names (R228). -/
def Sys2Proof.Claims.LayoutProgramsLoad : Prop :=
  ∀ w s f head body s1 s2, Ready s .lxload w f → Enabled f w → (f.xGet (fieldA w)).toNat % 8 = 0 →
    s.readV s.cur (s.tenantOf f.ltag) (f.xGet (fieldA w)) 8 .load = (.ok head, s1) →
    let n := bitsOf (leValue head) 8 4
    1 ≤ n → n ≤ 16 → s1.readV s.cur (s.tenantOf f.ltag) (f.xGet (fieldA w) + 8#64) (8 * n) .load = (.ok body, s2) →
    programOk ((List.range n).map (recWord body)) = true →
    ∃ t, exec (.lxload w) s = .next t ∧ (t.tile (tileOf s.cur)).layouts =
        kset (s2.tile (tileOf s.cur)).layouts (leValue head % 16) ((List.range n).map (recWord body)) ∧
      (∀ u, u ≠ tileOf s.cur → t.tile u = s2.tile u) ∧ t.dram = s2.dram ∧ t.ops = s2.ops ∧
      (∀ g rest, (s2.core s.cur).frames = g :: rest → (t.core s.cur).frames = { g with pc := nextPc f w } :: rest)

/-- `coll` of a legal command on a core that is a rank of the group: the command joins a collective of the group (R331). -/
def Sys2Proof.Claims.CollectivesArePushed : Prop :=
  ∀ w s f c word bad s1 ranks r, Ready s .coll w f → Enabled f w → coreExists s.cur = true → isCompute s.cur = true → s.ctx f.ltag = some c →
    c.words.getD 5 0#64 ≠ 0#64 → s.frameWord s.cur (s.tenantOf f.ltag) (c.words.getD 5 0#64) = (.word word bad, s1) →
    let words := f.xRange (fieldB w) 8
    s.groupOf f.ltag (collOp words).group = some ranks → collBad (collOp words) (some ranks.length) (bitsOf word 15 8) = false →
    f.lv.cpc < 32 → s1.faultedOp s.cur f.task (fun _ => true) = none → s1.rankOf ranks s.cur = some r →
    ∃ t id g x, exec (.coll w) s = .next t ∧ kget t.colls id = some g ∧ x ∈ g.cmds ∧ x.rank = r ∧ x.core = s.cur ∧ x.task = f.task ∧
      x.words = words ∧ t.dram = s1.dram ∧
      (∀ h rest, (s1.core s.cur).frames = h :: rest → (t.core s.cur).frames = pushedFrame h f w (pushIdentity s1 2) :: rest)

/-- `uepost` of a legal command on a context of the tenant: a job of the network engine with the command's words (R226, 14 R403). -/
def Sys2Proof.Claims.NetworkRequestsArePosted : Prop :=
  ∀ w s f, Ready s .uepost w f → Enabled f w → coreExists s.cur = true →
    let words := f.xRange (fieldB w) 8
    s.ueBad words = false → (kget s.netCtxs (ueCmd words).ctx).map (·.tenant) = some (s.tenantOf f.ltag) → f.lv.cpc < 32 →
    s.faultedOp s.cur f.task (fun _ => true) = none →
    ∃ t j, exec (.uepost w) s = .next t ∧ kget t.ueJobs s.nextId = some j ∧ j.words = words ∧ j.core = s.cur ∧ j.task = f.task ∧
      j.ident = pushIdentity s 3 ∧ j.succ = f.pending ∧ t.dram = s.dram ∧
      (t.core s.cur).frames = pushedFrame f f w (pushIdentity s 3) :: (s.core s.cur).frames.tail

/-- `baddq` on two runs of the frame's scratch, aligned and inside it: the first run takes the combined elements, in order from the lowest (a run that
is no block format and apart from the second holds, element by element, the sum, maximum or minimum of what both held), no byte outside it
changes, and the flags are ORed into `fpflg`. A run of no bytes has no effect. -/
def Obligations.BlockAddWritesItsRun : Prop :=
  ∀ w s f, Ready s .baddq w f → Enabled f w →
    let a := (f.xGet (fieldA w)).toNat
    let b := (f.xGet (fieldB w)).toNat
    let n := (f.xGet (fieldC w)).toNat
    let ty := typeOf .baddq w
    let len := if ty = 16 then n + n / 32 else n
    let mem := (s.tile (scratchTile s.cur)).array
    let r := baddqRun ty (modOpt w) (f.fsb + a) (f.fsb + b) n mem
    a % 16 = 0 → b % 16 = 0 → n % 256 = 0 →
    (n = 0 → exec (.baddq w) s = .next (s.pastBundle f w)) ∧
    (n ≠ 0 → a + len ≤ f.fscr → b + len ≤ f.fscr → f.trapsOn r.2 = false →
      ∃ t, exec (.baddq w) s = .next t ∧ (t.tile (scratchTile s.cur)).array = r.1 ∧
        (∀ x, (x < f.fsb + a ∨ f.fsb + a + len ≤ x) → memGet r.1 x = memGet mem x) ∧
        (ty ≠ 16 → memWf mem = true → (a + len ≤ b ∨ b + len ≤ a) → ∀ i, i < n / (typeBits ty / 8) →
          memGetN r.1 (f.fsb + a + typeBits ty / 8 * i) (typeBits ty / 8) =
            (combineElem (fmtOfType ty) (modOpt w) (memGetN mem (f.fsb + a + typeBits ty / 8 * i) (typeBits ty / 8))
              (memGetN mem (f.fsb + b + typeBits ty / 8 * i) (typeBits ty / 8))).1 % 2 ^ (8 * (typeBits ty / 8))) ∧
        (∀ u, u ≠ scratchTile s.cur → t.tile u = s.tile u) ∧
        t.cores = (s.withRunning { f with pc := nextPc f w, lv := { f.lv with fpflg := f.lv.fpflg ||| r.2.zeroExtend 64 } }).cores ∧ t.dram = s.dram ∧
        t.ops = s.ops ∧ t.msgs = s.msgs)

/-- `succ`, `relev`, `tmr` and the expiry of a timer. -/
def Obligations.SuccessorsAndTimersRelease : Prop :=
  Sys2Proof.Claims.SuccessorsAreHeldAndReleased ∧ Sys2Proof.Claims.TimersArmCancelAndExpire

/-- `getid`, `spawn`, `migr` and the migration service. -/
def Obligations.IdentitiesRecordsAndMigrations : Prop :=
  Sys2Proof.Claims.GetidCountsUp ∧ Sys2Proof.Claims.SpawnQueuesARecord ∧ Sys2Proof.Claims.MigrationDrainsFirst

/-- `send` and `reply` of both kinds. -/
def Obligations.MessagesAndChannelWordsLeave : Prop :=
  Sys2Proof.Claims.ActiveMessagesLeave ∧ Sys2Proof.Claims.ChannelWordsLeave

/-- `arrive` and `bwait`. -/
def Obligations.BarriersCountAndStore : Prop :=
  Sys2Proof.Claims.ArrivalsCount ∧ Sys2Proof.Claims.BarrierWaitStoresOrReleases

/-- `cpy`, `cpyx`, `cpytst` and `uepop`. -/
def Obligations.CopiesPushAndStatusesPop : Prop :=
  Sys2Proof.Claims.CopiesArePushed ∧ Sys2Proof.Claims.StatusesArePopped

/-- `lxload`, `coll` and `uepost`. -/
def Obligations.EngineCommandsArePushed : Prop :=
  Sys2Proof.Claims.LayoutProgramsLoad ∧ Sys2Proof.Claims.CollectivesArePushed ∧ Sys2Proof.Claims.NetworkRequestsArePosted


/-! Vector bundles on registers (05 R134 to R153, R158). -/

namespace Sys2Proof.Claims

/-- Element i of a vector register for a bundle. -/
def elementOf (op : Op) (f : Frame) (w : Bundle) (reg i : Nat) : Nat := vElem (typeBits (typeOf op w)) (f.vGet reg) i

/-- The two sources of a bundle (R83). -/
def sourceS (w : Bundle) : Nat := if w.rgx.isSome then fieldB w else fieldA w
def sourceT (w : Bundle) : Nat := if w.rgx.isSome then fieldC w else fieldB w

/-- A vector bundle has been dispatched with the result of an element function g in register a: an active element is computed, every other
element keeps its value and raises no flag (R134); nothing is written before the bundle completes (R137). -/
def elementwiseResult (s : State) (f : Frame) (op : Op) (w : Bundle) (o : Host.Outcome State Fault Refusal) (g : Nat → Nat × Flags) : Prop :=
  let bits := typeBits (typeOf op w)
  ∃ (r : VReg) (fl : Flags), o = .next (s.dispatched f op w (vectorEntry s f op w [.v (fieldA w) r] fl)) ∧
    (∀ i, i < 512 / bits →
      vElem bits r i = if ElementActive f w i then (g i).1 % 2 ^ bits else vElem bits (f.vGet (fieldA w)) i) ∧
    (∀ k, fl.getLsbD k = true ↔ ∃ i, i < 512 / bits ∧ ElementActive f w i = true ∧ (g i).2.getLsbD k = true)

/-- The format and the delivery of a bundle (R133, R37). -/
def formatOf (op : Op) (w : Bundle) : FFmt := fmtOfType (typeOf op w)
def deliveryOf (f : Frame) : RoundCtl := ctlOf f.lv.rmode

/-- The floating-point bundles of R139 and R140 with the function of an element. -/
def floatTwo : List ((Bundle → Instr) × Op × Elem2) :=
  [ (.vadd, .vadd, fAdd), (.vaddP1, .vaddP1, fAdd), (.vsub, .vsub, fSub), (.vmul, .vmul, fMul), (.vmulP1, .vmulP1, fMul), (.vdiv, .vdiv, fDiv) ]
def floatOne : List ((Bundle → Instr) × Op × Elem1) :=
  [ (.vsqrt, .vsqrt, fSqrt), (.vrcp, .vrcp, fRcp), (.vrsq, .vrsq, fRsq), (.vexp2, .vexp2, fExp2), (.vlog2, .vlog2, fLog2),
    (.vtanh, .vtanh, fTanh) ]
def floatThree : List ((Bundle → Instr) × Op × Elem3) :=
  [ (.vfma, .vfma, fFma), (.vfmaP1, .vfmaP1, fFma), (.vfms, .vfms, fFms), (.vfnma, .vfnma, fFnma) ]

/-- A value without a flag. -/
def plainValue (n : Nat) : Nat × Flags := (n, 0#6)

/-- An integer result of a type, wrapped, or with `sat` clamped to the type's range, sa raised when that changes it (R141). -/
def integerResult (ty : Nat) (sat : Bool) (v : Int) : Nat × Flags :=
  let n := typeBits ty
  let lo : Int := if isSignedType ty then -2 ^ (n - 1) else 0
  let hi : Int := if isSignedType ty then 2 ^ (n - 1) - 1 else 2 ^ n - 1
  if sat then
    if v < lo then ((lo % 2 ^ n).toNat, flSA) else if hi < v then ((hi % 2 ^ n).toNat, flSA) else ((v % 2 ^ n).toNat, 0#6)
  else ((v % 2 ^ n).toNat, 0#6)

/-- The integer, logical and moving bundles on two sources: type, option m[5], the elements s and t (R141 to R144). -/
def integerTwo : List ((Bundle → Instr) × Op × (Nat → Bool → Nat → Nat → Nat × Flags)) :=
  [ (.viadd, .viadd, fun ty o a b => integerResult ty o (readInt ty a + readInt ty b)),
    (.visub, .visub, fun ty o a b => integerResult ty o (readInt ty a - readInt ty b)),
    (.vimul, .vimul, fun ty o a b => plainValue
      ((if o then Int.fdiv (readInt ty a * readInt ty b) (2 ^ typeBits ty) else readInt ty a * readInt ty b) % 2 ^ typeBits ty).toNat),
    (.vand, .vand, fun _ _ a b => plainValue (a &&& b)), (.vor, .vor, fun _ _ a b => plainValue (a ||| b)),
    (.vxor, .vxor, fun _ _ a b => plainValue (a ^^^ b)),
    (.vshl, .vshl, fun ty _ a b => plainValue (a * 2 ^ (b % typeBits ty))),
    (.vshr, .vshr, fun ty _ a b => plainValue (a / 2 ^ (b % typeBits ty))),
    (.vsar, .vsar, fun ty _ a b => plainValue (Int.fdiv (sextNat a (typeBits ty)) (2 ^ (b % typeBits ty)) % 2 ^ typeBits ty).toNat) ]

end Sys2Proof.Claims

/-- Every floating-point vector bundle is dispatched with the element function of its rule, in the format of its type and with the rounding
that `rmode` gives; vmin and vmax by the kind of their type, vabs and vneg without rounding. -/
def Obligations.VectorFloatResults : Prop :=
  (∀ row ∈ floatTwo, ∀ w s f, Ready s row.2.1 w f → elementwiseResult s f row.2.1 w (exec (row.1 w) s) (fun i =>
    row.2.2 (formatOf row.2.1 w) (deliveryOf f) (elementOf row.2.1 f w (sourceS w) i) (elementOf row.2.1 f w (sourceT w) i))) ∧
  (∀ row ∈ floatOne, ∀ w s f, Ready s row.2.1 w f → elementwiseResult s f row.2.1 w (exec (row.1 w) s) (fun i =>
    row.2.2 (formatOf row.2.1 w) (deliveryOf f) (elementOf row.2.1 f w (fieldB w) i))) ∧
  (∀ row ∈ floatThree, ∀ w s f, Ready s row.2.1 w f → elementwiseResult s f row.2.1 w (exec (row.1 w) s) (fun i =>
    row.2.2 (formatOf row.2.1 w) (deliveryOf f) (elementOf row.2.1 f w (fieldA w) i) (elementOf row.2.1 f w (fieldB w) i)
      (elementOf row.2.1 f w (if w.rgx.isSome then fieldC w else fieldB w) i))) ∧
  (∀ row ∈ [((Instr.vmin : Bundle → Instr), Op.vmin, false), (Instr.vmax, Op.vmax, true)], ∀ w s f, Ready s row.2.1 w f →
    elementwiseResult s f row.2.1 w (exec (row.1 w) s) (fun i => minMaxElem (typeOf row.2.1 w) (deliveryOf f) row.2.2
      (elementOf row.2.1 f w (sourceS w) i) (elementOf row.2.1 f w (sourceT w) i))) ∧
  (∀ w s f, Ready s .vabs w f → elementwiseResult s f .vabs w (exec (.vabs w) s) (fun i =>
    plainValue (absElem (typeOf .vabs w) (elementOf .vabs f w (fieldB w) i)))) ∧
  (∀ w s f, Ready s .vneg w f → elementwiseResult s f .vneg w (exec (.vneg w) s) (fun i =>
    plainValue (negElem (typeOf .vneg w) (elementOf .vneg f w (fieldB w) i))))

/-- Every integer, logical and moving vector bundle is dispatched with the elements of its rule: `viadd`, `visub` and `vimad` wrap or
saturate; `vsel` selects by the mask register m[7:5]; `vbcast` repeats a scalar; `vperm`, `vslide`, `vzip`, `vunzip` move elements. -/
def Obligations.VectorIntegerAndMoveResults : Prop :=
  (∀ row ∈ integerTwo, ∀ w s f, Ready s row.2.1 w f → elementwiseResult s f row.2.1 w (exec (row.1 w) s) (fun i =>
    row.2.2 (typeOf row.2.1 w) (modOpt w % 2 == 1) (elementOf row.2.1 f w (sourceS w) i) (elementOf row.2.1 f w (sourceT w) i))) ∧
  (∀ w s f, Ready s .vimad w f → elementwiseResult s f .vimad w (exec (.vimad w) s) (fun i =>
    integerResult (typeOf .vimad w) (modOpt w % 2 == 1) (readInt (typeOf .vimad w) (elementOf .vimad f w (fieldB w) i) *
      readInt (typeOf .vimad w) (elementOf .vimad f w (if w.rgx.isSome then fieldC w else fieldB w) i) +
      readInt (typeOf .vimad w) (elementOf .vimad f w (fieldA w) i)))) ∧
  (∀ w s f, Ready s .vsel w f → elementwiseResult s f .vsel w (exec (.vsel w) s) (fun i =>
    plainValue (elementOf .vsel f w (if (f.kGet (modOpt w % 8)).getLsbD i then fieldB w else fieldC w) i))) ∧
  (∀ w s f, Ready s .vbcast w f → elementwiseResult s f .vbcast w (exec (.vbcast w) s) (fun _ =>
    plainValue (f.xGet (fieldB w)).toNat)) ∧
  (∀ w s f, Ready s .vperm w f → elementwiseResult s f .vperm w (exec (.vperm w) s) (fun i =>
    plainValue (elementOf .vperm f w (sourceS w) (elementOf .vperm f w (sourceT w) i % (512 / typeBits (typeOf .vperm w)))))) ∧
  (∀ w s f, Ready s .vslide w f → elementwiseResult s f .vslide w (exec (.vslide w) s) (fun i =>
    plainValue (vslideElem (typeBits (typeOf .vslide w)) (f.vGet (fieldB w)) (f.xGet (fieldC w)).toInt i))) ∧
  (∀ w s f, Ready s .vzip w f → elementwiseResult s f .vzip w (exec (.vzip w) s) (fun i =>
    plainValue (vzipElem (typeBits (typeOf .vzip w)) (modOpt w % 2 == 1) (f.vGet (sourceS w)) (f.vGet (sourceT w)) i))) ∧
  (∀ w s f, Ready s .vunzip w f → elementwiseResult s f .vunzip w (exec (.vunzip w) s) (fun i =>
    plainValue (vunzipElem (typeBits (typeOf .vunzip w)) (modOpt w % 2 == 1) (f.vGet (sourceS w)) (f.vGet (sourceT w)) i)))

namespace Sys2Proof.Claims

/-- Bundles whose predicate acts on them as a whole (R134): what they write when it is true. -/
def wholeBundles : List ((Bundle → Instr) × Op × (Frame → Bundle → List RegWrite)) :=
  [ (.vext, .vext, fun f w =>
      let ty := typeOf .vext w
      let x := vElem (typeBits ty) (f.vGet (fieldB w)) ((f.xGet (fieldC w)).toNat % (512 / typeBits ty))
      [.x (fieldA w) (if isSignedType ty then BitVec.ofInt 64 (sextNat x (typeBits ty)) else BitVec.ofNat 64 x)]),
    (.vbpn, .vbpn, fun f w => [.v (fieldA w) (vbpnReg (f.vGet (fieldB w)))]),
    (.vbpj, .vbpj, fun f w => [.v (fieldA w)
      (vbpjReg (if modOpt w % 16 = 0 then 8 else modOpt w % 16) (bitOf (modOpt w) 4) (f.vGet (fieldB w)))]),
    (.kand, .kand, fun f w => [.k (fieldA w) (f.kGet (sourceS w) &&& f.kGet (sourceT w))]),
    (.kor, .kor, fun f w => [.k (fieldA w) (f.kGet (sourceS w) ||| f.kGet (sourceT w))]),
    (.kxor, .kxor, fun f w => [.k (fieldA w) (f.kGet (sourceS w) ^^^ f.kGet (sourceT w))]),
    (.knot, .knot, fun f w => [.k (fieldA w) (~~~ f.kGet (fieldB w))]),
    (.kpopc, .kpopc, fun f w => [.x (fieldA w) (BitVec.ofNat 64 ((List.range 64).countP (fun i => (f.kGet (fieldB w)).getLsbD i)))]),
    (.kffs, .kffs, fun f w =>
      [.x (fieldA w) (BitVec.ofNat 64 (((List.range 64).find? (fun i => (f.kGet (fieldB w)).getLsbD i)).getD 64))]),
    (.kmov, .kmov, fun f w =>
      if modOpt w = 0 then [.k (fieldA w) (f.kGet (fieldB w))]
      else if modOpt w = 1 then [.k (fieldA w) (f.xGet (fieldB w))] else [.x (fieldA w) (f.kGet (fieldB w))]) ]

/-- The element-wise bundles whose result is no map of the elements one by one: reductions and scans (R151, R152). -/
def reductions : List ((Bundle → Instr) × Op × (Frame → Bundle → VecOut)) :=
  [ (.vredsum, .vredsum, fun f w => vredReg (typeOf .vredsum w) 0 (deliveryOf f) (f.predicate w) (f.vGet (fieldB w))),
    (.vredmax, .vredmax, fun f w => vredReg (typeOf .vredmax w) 1 (deliveryOf f) (f.predicate w) (f.vGet (fieldB w))),
    (.vredmin, .vredmin, fun f w => vredReg (typeOf .vredmin w) 2 (deliveryOf f) (f.predicate w) (f.vGet (fieldB w))),
    (.vscan, .vscan, fun f w =>
      vscanReg (typeOf .vscan w) (modOpt w) (deliveryOf f) (f.predicate w) (f.vGet (fieldA w)) (f.vGet (fieldB w))) ]

/-- The conversions of R147 to R149 with stochastic rounding on or off: what they write, their flags, the stochastic state after them. -/
def conversions : List ((Bundle → Instr) × Op × (Bundle → Option FFmt) × (Frame → Bundle → Bool → List RegWrite × Flags × Nat)) :=
  [ (.vcvt, .vcvt, fun w => if isFloatType (vcvtDst w) then some (fmtOfType (vcvtDst w)) else none, fun f w sr =>
      let r := vcvtReg (vcvtSrc w) (vcvtDst w) (fieldC w) (deliveryOf f) sr f.lv.srst (f.predicate w) (f.vGet (fieldA w)) (f.vGet (fieldB w))
      ([.v (fieldA w) r.v], r.fl, r.srst)),
    (.vqnt, .vqnt, fun w => some (blockFmt (modType w)), fun f w sr =>
      let p := modOpt w / 4 % 4
      let r := vqntReg (modType w) (modOpt w % 4) p (deliveryOf f) sr f.lv.srst (f.vGet (fieldA w)) (f.vGet (fieldB w)) (f.vGet (fieldB w + 1))
      ([.v (fieldA w) r.v, .x (fieldC w) (putByte (f.xGet (fieldC w)) p r.scale)], r.fl, r.srst)),
    (.vdqnt, .vdqnt, fun w => some (fmtOfType (modType w)), fun f w sr =>
      let p := modOpt w / 4 % 4
      let r := vdqntVals (modType w) (modOpt w % 4) p (field (f.xGet (fieldC w)) (8 * p + 7) (8 * p)) (deliveryOf f) sr f.lv.srst
        (f.vGet (fieldB w))
      let n := typeBits (modType w)
      (if modType w = 10 then [.v (fieldA w) (vPack n (r.1.take 16)), .v (fieldA w + 1) (vPack n (r.1.drop 16))]
       else [.v (fieldA w) (vPack n r.1)], r.2.1, r.2.2)) ]

/-- Whether stochastic rounding is on for a destination format (R58). -/
def stochasticFor (f : Frame) (fmt : Option FFmt) : Bool := match fmt with | some x => srOf f.lv.rmode && x.stochastic | none => false

end Sys2Proof.Claims

/-- A bundle whose predicate acts on it as a whole is dispatched with its result when bit 0 of the predicate is 1 and with nothing to write
when it is 0; `vins` puts one element into its destination. -/
def Sys2Proof.Claims.WholeVectorBundleResults : Prop :=
  (∀ row ∈ wholeBundles, ∀ w s f, Ready s row.2.1 w f →
    (Enabled f w → exec (row.1 w) s = .next (s.dispatched f row.2.1 w (vectorEntry s f row.2.1 w (row.2.2 f w) 0#6))) ∧
    (¬ Enabled f w → exec (row.1 w) s = .next (s.dispatched f row.2.1 w (vectorEntry s f row.2.1 w [] 0#6)))) ∧
  (∀ w s f, Ready s .vins w f → ¬ Enabled f w → exec (.vins w) s = .next (s.dispatched f .vins w (vectorEntry s f .vins w [] 0#6))) ∧
  (∀ w s f, Ready s .vins w f → Enabled f w →
    let bits := typeBits (typeOf .vins w)
    ∃ r, exec (.vins w) s = .next (s.dispatched f .vins w (vectorEntry s f .vins w [.v (fieldA w) r] 0#6)) ∧
      ∀ i, i < 512 / bits → vElem bits r i =
        if i = (f.xGet (fieldC w)).toNat % (512 / bits) then (f.xGet (fieldB w)).toNat % 2 ^ bits else vElem bits (f.vGet (fieldA w)) i)

/-- Reductions and scans; `vcmp`, which sets the bit of an active element whose relation holds and clears every other bit (R143); the
conversions, which with stochastic rounding also leave the stochastic state of their level (R58). -/
def Sys2Proof.Claims.ReductionCompareConversionResults : Prop :=
  (∀ row ∈ reductions, ∀ w s f, Ready s row.2.1 w f → exec (row.1 w) s = .next (s.dispatched f row.2.1 w
    (vectorEntry s f row.2.1 w [.v (fieldA w) (row.2.2 f w).v] (row.2.2 f w).fl))) ∧
  (∀ w s f, Ready s .vcmp w f → ∃ k fl, exec (.vcmp w) s = .next (s.dispatched f .vcmp w (vectorEntry s f .vcmp w [.k (fieldA w) k] fl)) ∧
    ∀ i, i < 64 → k.getLsbD i = (decide (i < 512 / typeBits (typeOf .vcmp w)) && ElementActive f w i &&
      (cmpElem (typeOf .vcmp w) (modOpt w) (deliveryOf f) (elementOf .vcmp f w (fieldB w) i) (elementOf .vcmp f w (fieldC w) i)).1)) ∧
  (∀ row ∈ conversions, ∀ w s f, Ready s row.2.1 w f →
    let sr := stochasticFor f (row.2.2.1 w)
    let r := row.2.2.2 f w sr
    (sr = false → row.2.1 ≠ .vcvt → ¬ Enabled f w →
      exec (row.1 w) s = .next (s.dispatched f row.2.1 w (vectorEntry s f row.2.1 w [] 0#6))) ∧
    (sr = false → (row.2.1 ≠ .vcvt → Enabled f w) →
      exec (row.1 w) s = .next (s.dispatched f row.2.1 w (vectorEntry s f row.2.1 w r.1 r.2.1))) ∧
    (sr = true → s.srstBusy s.cur f = false → (row.2.1 ≠ .vcvt → Enabled f w) → exec (row.1 w) s = .next (s.dispatched f row.2.1 w
      { vectorEntry s f row.2.1 w r.1 r.2.1 with srst := some r.2.2, stoch := true })))

/-- `vchadd`, `vchmax` and `vchst` are dispatched once their channel holds 8 data words or an end word after fewer, and stall before; a channel
that is not bound raises ABSENT, one of another level PERM (R153, 01 R31). The channel's number as `eaddr` of that ABSENT (log entry 7) and the `fpen` that
the entry keeps from its dispatch (log entry 13) are the model's choice. -/
def Sys2Proof.Claims.ChannelFormsWaitForTheirWords : Prop :=
  ∀ row ∈ [((Instr.vchadd : Bundle → Instr), Op.vchadd), (Instr.vchmax, Op.vchmax), (Instr.vchst, Op.vchst)], ∀ w s f, Ready s row.2 w f →
    (kget (s.core s.cur).chans (fieldB w) = none → exec (row.1 w) s = .next (trapped s .absent (BitVec.ofNat 64 (fieldB w)))) ∧
    (∀ ch, kget (s.core s.cur).chans (fieldB w) = some ch →
      (ch.level ≠ f.level → exec (row.1 w) s = .next (trapped s .perm 0#64)) ∧
      (ch.level = f.level → chanReady ch.q = false → exec (row.1 w) s = .next s) ∧
      (ch.level = f.level → chanReady ch.q = true → s.chanBusy s.cur f (fieldB w) = false → f.chanQueued (fieldB w) = false →
        exec (row.1 w) s = .next (s.dispatched f row.2 w { vectorEntry s f row.2 w [] 0#6 with chan := some (row.2, w) })))

/-- The oldest vector bundle of a level completes: its results are written, its flags are ORed into `fpflg`, it leaves the queue and its ring
entry is done (R137, 01 R42). With a flag that `fpen` enabled at its dispatch (the model's reading, log entry 13) FPX is
left to be raised late, with the bundle's first word and sequence number. A load delivers its elements and a store has none to deliver; a bundle with a fault found in execution leaves that fault, and one
whose home found a fault leaves it for its lowest-numbered faulting element (R157). Channel forms round as `rmode` stood at dispatch (01 R34). -/
def Sys2Proof.Claims.VectorBundlesCompleteInOrder : Prop :=
  ∀ core level s f e rest, s.frameAt core level = some f → s.frameOf core f.task = some f → f.lv.vq = e :: rest →
    (e.fault = none → e.op = none → e.chan = none → enables e.fpen e.fl = false →
      ∃ t, exec (.vectorBundleCompletion core level) s = .next t ∧ t.frameAt core level =
        some { e.writes.foldl Frame.apply f with
          lv := { f.lv with fpflg := f.lv.fpflg ||| e.fl.zeroExtend 64, srst := e.srst.getD f.lv.srst, vq := rest } } ∧
        (t.core core).cpring = (s.core core).cpring.map (fun x => if x.seq = e.seq then { x with done := true } else x) ∧
        t.dram = s.dram ∧ t.tiles = s.tiles ∧ t.ops = s.ops) ∧
    (e.fault = none → e.op = none → e.chan = none → enables e.fpen e.fl = true →
      ∃ t g, exec (.vectorBundleCompletion core level) s = .next t ∧ t.frameAt core level = some g ∧
        { cause := .fpx, pc := e.pc, eaddr := 0#64, eseq := 0x10000 + e.seq, stamp := e.stamp, restore := none } ∈ g.late) ∧
    (∀ cause a, e.fault = some (cause, a) →
      ∃ t g, exec (.vectorBundleCompletion core level) s = .next t ∧ t.frameAt core level = some g ∧ g.x = f.x ∧ g.v = f.v ∧ g.k = f.k ∧
        { cause := cause, pc := e.pc, eaddr := a, eseq := 0x10000 + e.seq, stamp := e.stamp, restore := none } ∈ g.late) ∧
    (∀ id o n ty, e.fault = none → e.op = some id → kget s.ops id = some o → o.fault = none → o.performed = true → o.core = core →
      o.task = f.task → o.kind = .load → o.dest = .vector n ty → s.afterDone o.behind = true → s.replyOut id = false →
      ∃ t g, exec (.vectorBundleCompletion core level) s = .next t ∧ t.frameAt core level = some g ∧
        g.v = kset f.v n (loadedReg ty (f.vGet n) o.elems) ∧ g.x = f.x ∧ g.k = f.k ∧ g.lv.vq = rest ∧ g.lv.ldc = f.lv.ldc - 1 ∧
        kget t.ops id = none ∧ t.dram = s.dram) ∧
    (∀ id o, e.fault = none → e.op = some id → kget s.ops id = some o → o.fault = none → o.performed = true → o.dest = .none →
      ∃ t g, exec (.vectorBundleCompletion core level) s = .next t ∧ t.frameAt core level = some g ∧ g.v = f.v ∧ g.x = f.x ∧ g.k = f.k ∧
        g.lv.vq = rest ∧ t.ops = s.ops ∧ t.dram = s.dram) ∧
    (∀ id o d k, e.fault = none → e.op = some id → kget s.ops id = some o → o.fault = some k → k = .absent ∨ k = .perm →
      o.elems.find? (fun x => x.bad.isSome) = some d → o.core = core → o.task = f.task →
      ∃ t g, exec (.vectorBundleCompletion core level) s = .next t ∧ t.frameAt core level = some g ∧ g.v = f.v ∧ g.x = f.x ∧ g.k = f.k ∧
        kget t.ops id = none ∧ { cause := if k = .perm then .perm else .absent, pc := e.pc, eaddr := BitVec.ofNat 64 d.va, eseq := 0x10000 + e.seq,
                                 stamp := e.stamp, restore := none } ∈ g.late) ∧
    (∀ op w ch, e.fault = none → e.op = none → e.chan = some (op, w) → kget (s.core core).chans (fieldB w) = some ch →
      let r := chanStep op (typeOf op w) (ctlOf e.rmode) (f.predicate w) (f.vGet (fieldA w)) ch.q
      enables e.fpen r.1.fl = false →
      ∃ t g, exec (.vectorBundleCompletion core level) s = .next t ∧ t.frameAt core level = some g ∧ g.v = kset f.v (fieldA w) r.1.v ∧
        g.xGet (fieldC w) = (if fieldC w = 0 then 0#64 else r.2.1) ∧ g.lv.vq = rest ∧
        (kget (t.core core).chans (fieldB w)).map (·.q) = some r.2.2)

/-! Matrix jobs (06 R161 to R184). -/

namespace Sys2Proof.Claims

/-- The jobs of page 3 but for `rstreamch`. -/
def matrixJobs : List ((Bundle → Instr) × Op) :=
  [ (.mstat, .mstat), (.mswap, .mswap), (.mstream, .mstream), (.mstreamt, .mstreamt), (.mf64, .mf64), (.mbpn4, .mbpn4), (.mbpn8, .mbpn8),
    (.mzero, .mzero), (.mrd, .mrd), (.mwr, .mwr), (.macs, .macs), (.msac, .msac), (.rtab, .rtab), (.rank, .rank), (.rankch, .rankch),
    (.rstream, .rstream), (.rrecon, .rrecon) ]

/-- A job stands last in the queue of its level, with the operands, the controls and the successor of its dispatch; the ring has taken an
entry and `tlc` has gone up (R161, R169, 01 R42). -/
def jobDispatched (s : State) (f : Frame) (op : Op) (w : Bundle) (o : Host.Outcome State Fault Refusal) : Prop :=
  ∃ t j, o = .next t ∧ t.jobsOf s.cur f.level = s.jobsOf s.cur f.level ++ [j] ∧ j.op = op ∧ j.word = w ∧ j.pc = f.pc ∧ j.task = f.task ∧
    j.xa = f.xGet (fieldA w) ∧ j.xb = f.xGet (fieldB w) ∧ j.xc = f.xGet (fieldC w) ∧ j.active = (f.predicate w).getLsbD 0 ∧
    j.sampled = { fmta := f.lv.fmta, fmtb := f.lv.fmtb, fmtc := f.lv.fmtc, scla := f.lv.scla, sclb := f.lv.sclb, rmode := f.lv.rmode,
                  fpen := f.lv.fpen } ∧
    j.succ = f.pending ∧ j.seq = ((s.core s.cur).cseq + 1) % 65536 ∧ j.started = false ∧ j.finished = false ∧ j.fault = none ∧
    (t.core s.cur).cseq = j.seq ∧
    (t.core s.cur).cpring = ({ seq := j.seq, lvl := f.level, pc := f.pc % 2 ^ 57, done := false, flt := false, disc := false } ::
      (s.core s.cur).cpring).take 64 ∧
    (∃ p, (t.core s.cur).frames = { f with pc := nextPc f w, pending := none, lv := { f.lv with tlc := f.lv.tlc + 1 }, usedPlanes := p } ::
      (s.core s.cur).frames.tail) ∧
    (∀ u, u ≠ tileOf s.cur → t.tile u = s.tile u) ∧ (t.tile (tileOf s.cur)).acc = (s.tile (tileOf s.cur)).acc ∧
    (t.tile (tileOf s.cur)).array = (s.tile (tileOf s.cur)).array ∧ t.dram = s.dram ∧ t.ops = s.ops

end Sys2Proof.Claims

/-- Every page-3 bundle is dispatched to its level's queue, whatever its predicate, while fewer than 64 jobs of the level are in flight;
`rstreamch` after the checks of its channel. -/
def Sys2Proof.Claims.MatrixJobsAreDispatched : Prop :=
  (∀ row ∈ matrixJobs, ∀ w s f, Ready s row.2 w f → f.lv.tlc < 64 →
    ((f.predicate w).getLsbD 0 = true → jobStochastic row.2 f (f.xGet (fieldC w)) = true → s.srstBusy s.cur f = false) → jobDispatched s f row.2 w (exec (row.1 w) s)) ∧
  (∀ w s f ch, Ready s .rstreamch w f → f.lv.tlc < 64 → kget (s.core s.cur).chans (fieldB w) = some ch →
    (ch.level = f.level → s.chanBusy s.cur f (fieldB w) = false → f.chanQueued (fieldB w) = false →
      jobDispatched s f .rstreamch w (exec (.rstreamch w) s)) ∧
    (ch.level ≠ f.level → exec (.rstreamch w) s = .next (trapped s .perm 0#64)))

/-- `mtest` reads the ring: 3 for a number that it does not hold or of another level, 2 for a faulted or discarded bundle, 1 for a completed
one, 0 for one in flight (R184). What the core had read ahead before a job wrote there is gone (10 R298). -/
def Sys2Proof.Claims.MtestReadsTheRing : Prop :=
  ∀ w s f, Ready s .mtest w f → Enabled f w →
    let q := (f.xGet (fieldB w)).toNat % 65536
    ∃ v : Word, exec (.mtest w) s = .next ((s.acquiredAt s.cur 0 s.nextId).withResult f w (fieldA w) v) ∧
      ((s.core s.cur).cpring.find? (fun e => e.seq == q) = none → v = 3#64) ∧
      (∀ e, (s.core s.cur).cpring.find? (fun e => e.seq == q) = some e →
        (e.lvl ≠ f.level → v = 3#64) ∧ (e.lvl = f.level → e.flt = true ∨ e.disc = true → v = 2#64) ∧
        (e.lvl = f.level → e.flt = false → e.disc = false → v = if e.done then 1#64 else 0#64))

/-- The head of a queue starts: a job with a false predicate is over without effect; any other passes its start checks or faults there
(R169, R170). -/
def Sys2Proof.Claims.MatrixJobsStart : Prop :=
  ∀ core level s j rest, s.jobsOf core level = j :: rest → s.stilled core = false → j.started = false → j.finished = false →
    (j.active = false →
      exec (.matrixJobStart core level) s = .next (s.setJobs core level ({ j with started := true, finished := true } :: rest))) ∧
    (j.active = true → ∀ j', (if hasHeader j.op then s.startHeader core j else s.startPlain core j) = .ok j' →
      exec (.matrixJobStart core level) s = .next (s.setJobs core level (j' :: rest))) ∧
    (j.active = true → ∀ e, (if hasHeader j.op then s.startHeader core j else s.startPlain core j) = .error e →
      exec (.matrixJobStart core level) s = .next (s.setJobs core level ({ j with fault := some e, finished := true } :: rest)))

/-- A unit of work of the job whose turn it is: `mswap` exchanges the core's two planes and is then complete, `mzero` clears the 64 elements of its row
(128 for an FP64 accumulator) and no other element (R162, R163, R175, R181). -/
def Sys2Proof.Claims.MatrixUnitsActOnTheirStorage : Prop :=
  ∀ tile s i level used j rest, s.stilled (8 * tile) = false → s.engineTurn tile = some (i, level, used) → i < 8 →
    s.jobsOf (8 * tile + i) level = j :: rest → j.started = true → j.finished = false →
    (j.op = .mswap → j.fault = none → j.fl = flNone →
      ∃ t, exec (.matrixUnit tile) s = .next t ∧ t.activePlane (8 * tile + i) = s.shadowPlane (8 * tile + i) ∧
      t.shadowPlane (8 * tile + i) = s.activePlane (8 * tile + i) ∧ t.jobsOf (8 * tile + i) level = rest ∧ (t.tile tile).acc = (s.tile tile).acc ∧
      (t.tile tile).array = (s.tile tile).array ∧ (∀ u, u ≠ tile → t.tile u = s.tile u) ∧ t.dram = s.dram) ∧
    (j.op = .mzero → ∃ t k, exec (.matrixUnit tile) s = .next t ∧
      (∀ k, kgetD (t.tile tile).acc k 0#32 =
        if 64 * (j.acb + j.xa.toNat + j.rowWidth * j.unit) ≤ k ∧ k < 64 * (j.acb + j.xa.toNat + j.rowWidth * j.unit) + 64 * j.rowWidth then 0#32
        else kgetD (s.tile tile).acc k 0#32) ∧
      t.jobsOf (8 * tile + i) level = k :: rest ∧ k.unit = j.unit + 1 ∧ k.finished = decide (j.units ≤ j.unit + 1) ∧
      (t.tile tile).array = (s.tile tile).array ∧ (t.tile tile).planes = (s.tile tile).planes ∧ (∀ u, u ≠ tile → t.tile u = s.tile u) ∧
      t.cores = s.cores ∧ t.dram = s.dram)

/-- A finished job without a fault or a flag leaves its queue, `tlc` goes down, its ring entry is done, and its successor is released (R171,
07 R207). A faulted one of a task on the stack leaves its fault to be raised late. That it first waits for a later vector store of
the level which is partly performed is the model's choice: R171 discards later bundles, and says nothing of such a one (log entry 7). -/
def Sys2Proof.Claims.MatrixJobsComplete : Prop :=
  ∀ core level s j rest f, s.jobsOf core level = j :: rest → j.finished = true → s.frameOf core j.task = some f →
    (j.fault = none → j.fl = flNone → j.srst = none →
    ∃ t g, exec (.matrixJobCompletion core level) s = .next t ∧ t.jobsOf core level = rest ∧ t.frameOf core j.task = some g ∧
      g.lv.tlc = f.lv.tlc - 1 ∧ g.x = f.x ∧ g.v = f.v ∧ g.pc = f.pc ∧
      (t.core core).cpring = (s.core core).cpring.map (fun x => if x.seq = j.seq then { x with done := true } else x) ∧
      (∀ d, j.succ = some d → eventMessage t s.nextId d j.item j.ltag j.after) ∧ (j.succ = none → t.msgs = s.msgs) ∧
      t.dram = s.dram ∧ t.ops = s.ops) ∧
    (∀ c a, j.fault = some (c, a) → (s.vecPartial core j = true → exec (.matrixJobCompletion core level) s = .next (s.endTurn (tileOf core))) ∧
      (s.vecPartial core j = false → ∃ t g, exec (.matrixJobCompletion core level) s = .next t ∧ t.frameOf core j.task = some g ∧
        { cause := c, pc := j.pc, eaddr := a, eseq := 0x10000 + j.seq, stamp := j.stamp, restore := some j.succ } ∈ g.late ∧
        g.x = f.x ∧ g.v = f.v ∧ g.pc = f.pc ∧ t.dram = s.dram))

/-- The vector bundles whose result is no map of elements. -/
def Obligations.WholeVectorAndReductionResults : Prop :=
  Sys2Proof.Claims.WholeVectorBundleResults ∧ Sys2Proof.Claims.ReductionCompareConversionResults

/-- The channel forms, and the completion of vector bundles. -/
def Obligations.VectorBundlesWaitAndComplete : Prop :=
  Sys2Proof.Claims.ChannelFormsWaitForTheirWords ∧ Sys2Proof.Claims.VectorBundlesCompleteInOrder

/-- The page-3 jobs as they are dispatched, and `mtest`. -/
def Obligations.MatrixJobsDispatchAndTest : Prop :=
  Sys2Proof.Claims.MatrixJobsAreDispatched ∧ Sys2Proof.Claims.MtestReadsTheRing

/-- The start, the units and the completion of a matrix or rank job. -/
def Obligations.MatrixJobsRun : Prop :=
  Sys2Proof.Claims.MatrixJobsStart ∧ Sys2Proof.Claims.MatrixUnitsActOnTheirStorage ∧ Sys2Proof.Claims.MatrixJobsComplete


/-! Messages at routers, flits, events at cores (09 R249 to R252, R260, R266, R267; 11 R320 to R328). -/

namespace Sys2Proof.Claims

/-- A message that is no blank one has been reassembled at the router of its target core, with nothing before it: no message is held or waits in the window,
the pair expects it if it is ordered, and what channel words release has been performed; the core's launch runs on its tile, is of the message's tenant and
has nothing in its leat. -/
def atItsTarget (s : State) (id router : Nat) (m : Msg) (tag : Nat) : Prop :=
  ∃ nm c, kget s.msgs id = some nm ∧ id < s.nextId ∧ nm.msg = m ∧ nm.flits ≤ nm.arrived ∧ (m.kind = 2 → s.afterDone m.after = true) ∧
    m.dpkg = s.pkg ∧ m.blank = false ∧ router = tileAt nm.dcol nm.drow ∧ (s.router router).hold = [] ∧ (s.router router).window = [] ∧
    (m.ordered = true → kgetD (s.router router).expect (expectKey m) 0 = m.pseq) ∧
    isCompute (msgTarget m) = true ∧ (s.die (dieOf (msgTarget m))).inReset = false ∧ s.launchAt (msgTarget m) = some tag ∧
    s.ctx tag = some c ∧ c.tenant = m.tenant ∧ c.started.contains (tileOf (msgTarget m)) = true ∧ c.leat = []

/-- The release event that a message carries to the inbox of its core (07 R204); what it releases comes along (10 R299). -/
def carried (m : Msg) (tag : Nat) : REvent :=
  { kind := m.ev, handler := m.handler, level := m.level, args := m.words, item := m.item, src := m.src,
    cls := if m.kind = 0 then some m.cls else none, ltag := tag, gov := m.rangeOf, after := m.after }

/-- No context is being switched out. -/
def nobodyStops (s : State) : Prop := ∀ c ∈ s.ctxs, (c.2.state = .out ∨ c.2.state = .trapped) → c.2.saved.isSome = true

end Sys2Proof.Claims

/-- A release event or an active message of no bound class enters the inbox of its core when its level has room; a full level keeps a
release event in the router's hold store, from where it enters as room appears, and has an active message refused. The words of an
active message of a bound class and channel words enter the channel. -/
def Sys2Proof.Claims.MessagesReachTheirTargets : Prop :=
  (∀ id r m tag s, atItsTarget s id r m tag → (m.kind = 1 ∧ m.gov = false ∨ m.kind = 0 ∧ (s.core (msgTarget m)).channelOfClass m.cls = none) →
    s.inboxRoom (msgTarget m) m.level = true →
    ∃ t, exec (.messageEjection id) s = .next t ∧ t.core (msgTarget m) = withEvent (s.core (msgTarget m)) (carried m tag) ∧
      kget t.msgs id = none ∧ (∀ k, k ≠ msgTarget m → t.core k = s.core k) ∧ t.dram = s.dram ∧ t.ops = s.ops ∧ t.flits = s.flits) ∧
  (∀ id r m tag s, atItsTarget s id r m tag → m.kind = 1 → m.gov = false → s.inboxRoom (msgTarget m) m.level = false →
    ∃ t, exec (.messageEjection id) s = .next t ∧ (t.router r).hold = [m] ∧ kget t.msgs id = none ∧ t.cores = s.cores ∧ t.dram = s.dram) ∧
  (∀ id r m tag s, atItsTarget s id r m tag → m.kind = 0 → m.ev = .task → (s.core (msgTarget m)).channelOfClass m.cls = none →
    s.inboxRoom (msgTarget m) m.level = false →
    ∃ t y, exec (.messageEjection id) s = .next t ∧ kget t.msgs s.nextId = some y ∧ y.msg.kind = 3 ∧ y.msg.dpkg = m.src.pkg ∧
      y.msg.dcore = m.src.core ∧ y.msg.dspace = m.src.space ∧ y.msg.words.take 3 = [m.words.getD 0 0#64, m.words.getD 1 0#64, m.handler] ∧
      kget t.msgs id = none ∧ t.cores = s.cores ∧ t.dram = s.dram) ∧
  (∀ id r m tag s ch x, atItsTarget s id r m tag →
    (m.kind = 2 ∧ (s.core (msgTarget m)).channelFor s.pkg m.src m.cls = some ch ∨
      m.kind = 0 ∧ m.endw = false ∧ m.words.length = 4 ∧ (s.core (msgTarget m)).channelOfClass m.cls = some ch) →
    s.afterDone m.after = true → kget (s.core (msgTarget m)).chans ch = some x → x.q.length + m.words.length + (if m.endw then 1 else 0) ≤ 32 →
    let x' : Chan := { x with q := x.q ++ m.words.map (fun v => (v, false)) ++ (if m.endw then [(0#64, true)] else []) }
    ∃ t, exec (.messageEjection id) s = .next t ∧
      t.core (msgTarget m) = { s.core (msgTarget m) with chans := kset (s.core (msgTarget m)).chans ch x' } ∧
      kget t.msgs id = none ∧ (∀ k, k ≠ msgTarget m → t.core k = s.core k) ∧ t.dram = s.dram) ∧
  (∀ r m tag s c, (s.router r).hold = [m] → (s.router r).window = [] → m.kind = 1 → m.gov = false →
    (∀ x ∈ s.ctxs, x.2.state = .running → x.2.leat = []) →
    isCompute (msgTarget m) = true → (s.die (dieOf (msgTarget m))).inReset = false → s.launchAt (msgTarget m) = some tag →
    s.ctx tag = some c → c.tenant = m.tenant → c.started.contains (tileOf (msgTarget m)) = true → c.leat = [] →
    s.inboxRoom (msgTarget m) m.level = true →
    ∃ t, exec (.holdStoreEntry r) s = .next t ∧ t.core (msgTarget m) = withEvent (s.core (msgTarget m)) (carried m tag) ∧
      (t.router r).hold = [] ∧ (∀ k, k ≠ msgTarget m → t.core k = s.core k) ∧ t.dram = s.dram)

namespace Sys2Proof.Claims

/-- The flits of a message that are in flight. -/
def inFlight (s : State) (id : Nat) : Nat := s.flits.countP (fun f => f.msg == id)

/-- The flits of a message of the confined kinds stand in the sub-mesh of its tenant (11 R323). -/
def staysHome (s : State) (id : Nat) (m : Msg) : Prop :=
  confinedKind m.kind = true → ∀ f ∈ s.flits, f.msg = id → s.inMesh m.tenant f.router = true

end Sys2Proof.Claims

/-- A cycle of the routers while no context is being switched out: no flit of a message is lost or made, and a message of a confined kind stays inside its tenant's sub-mesh; a
flit that is alone goes one step nearer to its target where an output of R321 and R323 leads there, and leaves the network at it, but for one that its target did not take, which
first goes on (11 R326). -/
def Sys2Proof.Claims.FlitsMoveAndAreConserved : Prop :=
  (∀ s id nm, s.flits.Nodup → nobodyStops s → kget s.msgs id = some nm → id < s.nextId → staysHome s id nm.msg →
    ∃ t nm' age, exec .routerFlitPlacement s = .next t ∧ kget t.msgs id = some nm' ∧ nm'.msg = { nm.msg with age := age } ∧ nm'.flits = nm.flits ∧
      nm'.arrived + inFlight t id = nm.arrived + inFlight s id ∧ staysHome t id nm.msg ∧ t.cores = s.cores ∧ t.dram = s.dram ∧ t.tiles = s.tiles ∧
      t.ops = s.ops) ∧
  (∀ (s : State) (f : Flit) nm, s.flits = [f] → nobodyStops s → kget s.msgs f.msg = some nm → staysHome s f.msg nm.msg →
    (f.injected = true ∨ s.mayStart f.msg = true) →
    (f.router ≠ tileAt nm.dcol nm.drow →
      (∃ o, o < 4 ∧ (confinedKind nm.msg.kind = true → s.inMesh nm.msg.tenant (neighbour f.router o) = true) ∧
        hopsLeft (neighbour f.router o) nm.dcol nm.drow < hopsLeft f.router nm.dcol nm.drow) →
      ∃ t g, exec .routerFlitPlacement s = .next t ∧ t.flits = [g] ∧ g.msg = f.msg ∧ g.injected = true ∧ g.age = min (f.age + 1) 1023 ∧
        (∃ o, o < 4 ∧ g.router = neighbour f.router o) ∧ hopsLeft g.router nm.dcol nm.drow < hopsLeft f.router nm.dcol nm.drow) ∧
    (f.router = tileAt nm.dcol nm.drow → (f.injected = true ∨ f.bounced = false) → ∃ t nm', exec .routerFlitPlacement s = .next t ∧ t.flits = [] ∧
      kget t.msgs f.msg = some nm' ∧ nm'.arrived = nm.arrived + 1))

/-- The event that the admission check takes is pushed once its frame word has been read (v is the state after that): windows, rows and
scratch as the word says, x1 to x4 the arguments, the level's state fresh; the frames beneath keep what they hold, and the event leaves
the inbox. The vector units that the push spills go to the tile's array, at 384 bytes times their slots (09 R254). A frame word whose storage exceeds the core's share raises WINDOW before the first bundle (01 R23, R24). -/
def Sys2Proof.Claims.EventsArePushed : Prop :=
  ∀ core (s : State) e word v, (s.core core).candidate = some e → s.stilled core = false → s.parked e.ltag = false → e.kind = .task →
    s.frameWord core (s.tenantOf e.ltag) e.handler = (.word word none, v) → e.handler.getLsbD 0 = false →
    (∀ a r b n, v.storageHeld core a r b n = false) → (∀ n k, (v.core core).follow ≠ .waiting n k) →
    let rows := ((v.core core).frames.map (·.arows)).foldl (· + ·) 0
    let scr := ((v.core core).frames.map (·.fscr)).foldl (· + ·) 0
    let fits := rows + field (BitVec.ofNat 64 word) 25 16 ≤ rowShare core ∧
      scr + 256 * field (BitVec.ofNat 64 word) 15 8 ≤ (v.scratchArea core e.ltag).2
    ∃ t g below, exec (.framePush core) s = .next t ∧ (t.core core).frames = g :: below ∧ contents below = contents (v.core core).frames ∧
      g.kind = .task ∧ g.level = e.level ∧ g.pc = e.handler.toNat ∧ g.handler = e.handler ∧ g.item = e.item ∧ g.ltag = e.ltag ∧ g.src = e.src ∧
      g.wins = BitVec.ofNat 64 (word / 256 * 256) ∧ g.thr = 0 ∧ g.claims = [] ∧ g.pending = none ∧
      (∀ i, i < 4 → g.xGet (i + 1) = e.args.getD i 0#64) ∧ (∀ i, 4 < i → i < 64 → g.xGet i = 0#64) ∧ (∀ i, i < 64 → g.vGet i = 0#512) ∧
      g.lv.ldc = 0 ∧ g.lv.stc = 0 ∧ g.lv.cpc = 0 ∧ g.lv.tlc = 0 ∧ g.lv.vq = [] ∧ g.lv.fpflg = 0#64 ∧ g.lv.rmode = 0#64 ∧
      (fits → g.start = none ∧ g.arows = field (BitVec.ofNat 64 word) 25 16 ∧ g.fscr = 256 * field (BitVec.ofNat 64 word) 15 8) ∧
      (¬ fits → ∃ a, g.start = some (.window, a)) ∧
      (isCompute core = true → (t.tile (tileOf core)).array =
        spillOver (v.tile (tileOf core)).array (v.spillBase core e.ltag) (newSpills (v.core core).frames below)) ∧
      (t.core core).inbox = (v.core core).inbox.erase e ∧ t.dram = v.dram ∧ t.ops = withoutBuffers v.ops core ∧ t.msgs = v.msgs

/-- A fault that waits in front of a frame's first bundle, or a late fault of the frame, starts the trap handler with the cause, the
program counter, the address and the sequence number of its bundle, and does not stay pending (15 R412, R414). -/
def Sys2Proof.Claims.WaitingFaultsTrap : Prop :=
  ∀ core (s : State) f below c word bad v, (s.core core).frames = f :: below → s.stilled core = false → f.level < 7 → s.ctx f.ltag = some c →
    c.trapHandler ≠ 0#64 →
    (match f.kind with | .collective coll block => s.failBlock coll block 6 [] | _ => s).frameWord core (s.tenantOf f.ltag) c.trapHandler =
      (.word word bad, v) →
    (∀ a r b n, v.storageHeld core a r b n = false) → (∀ n k, (v.core core).follow ≠ .waiting n k) → (∀ g ∈ below, g.task ≠ f.task) →
    f.task ≠ v.nextId →
    (∀ cause a, f.start = some (cause, a) →
      let exc : ExcRegs := { ecause := BitVec.ofNat 64 (cause.code + 64 * f.level), epc := BitVec.ofNat 64 (f.pc % 2 ^ 57), eaddr := a, eseq := 0#64 }
      ∃ t g f' rest, exec (.trapHandlerStart core) s = .next t ∧ (t.core core).frames = g :: f' :: rest ∧ g.kind = .trapHandler ∧ g.level = 7 ∧
        g.pc = c.trapHandler.toNat ∧ g.exc = exc ∧
        f'.task = f.task ∧ f'.pc = f.pc ∧ f'.start = none) ∧
    (∀ l, f.start = none → f.late = [l] →
      let exc : ExcRegs :=
        { ecause := BitVec.ofNat 64 (l.cause.code + 64 * f.level), epc := BitVec.ofNat 64 (l.pc % 2 ^ 57), eaddr := l.eaddr,
          eseq := BitVec.ofNat 64 l.eseq }
      ∃ t g f' rest, exec (.trapHandlerStart core) s = .next t ∧ (t.core core).frames = g :: f' :: rest ∧ g.kind = .trapHandler ∧ g.level = 7 ∧
        g.pc = c.trapHandler.toNat ∧ g.exc = exc ∧
        f'.task = f.task ∧ f'.pc = f.pc ∧ f'.late = [] ∧ f'.pending = (match l.restore with | some d => d | none => f.pending))

/-- A bundle that the leader forwarded is executed by the follower as a bundle of its own, on its own frame: the integer instructions of R105 and R106
complete with their result. When a bundle has completed the follower stays attached if its next program counter is the leader's, and goes on alone
otherwise (04 R120, R123); one whose stream has closed goes on alone after the last bundle (R121). -/
def Sys2Proof.Claims.ForwardedBundlesExecute : Prop :=
  (∀ row ∈ arithmetic, ∀ core (s : State) n fwd rest w f, fwd.instr = row.1 w →
    ((s.core core).follow = .attached n (fwd :: rest) ∨ (s.core core).follow = .draining (fwd :: rest)) →
    s.stilled core = false → (s.core core).candidate = none → s.raiseDue core = none → Ready { s with cur := core } row.2.1 w f → Enabled f w →
    nextPc f w ≠ f.pc →
    let v := row.2.2 w (f.xGet (if w.rgx.isSome then fieldB w else fieldA w)) (f.xGet (if w.rgx.isSome then fieldC w else fieldB w))
    ∃ t, exec (.forwardedBundle core) s = .next t ∧
      (t.core core).frames = { f.xSet (fieldA w) v with pc := nextPc f w } :: (s.core core).frames.tail ∧
      ((s.core core).follow = .attached n (fwd :: rest) → (t.core core).follow = if nextPc f w = fwd.next then .attached n rest else .free) ∧
      ((s.core core).follow = .draining (fwd :: rest) → (t.core core).follow = if nextPc f w = fwd.next ∧ rest ≠ [] then .draining rest else .free) ∧
      (∀ k, k ≠ core → t.core k = s.core k) ∧ t.dram = s.dram ∧ t.tiles = s.tiles ∧ t.ops = s.ops ∧ t.msgs = s.msgs ∧ t.cur = s.cur) ∧
  (∀ core (s : State) n fwd rest op w u g below, (s.core core).follow = .attached n (fwd :: rest) → s.stilled core = false →
    (s.core core).candidate = none → s.raiseDue core = none → fwd.instr.code? = some (op, w) →
    exec fwd.instr { s with cur := core } = .next u → State.completed s { u with cur := s.cur } core op w = true →
    (u.core core).follow = (s.core core).follow → (u.core core).frames = g :: below →
    ∃ t, exec (.forwardedBundle core) s = .next t ∧ (t.core core).frames = (u.core core).frames ∧
      (t.core core).follow = (if g.pc = fwd.next then .attached n rest else .free) ∧ (∀ k, k ≠ core → t.core k = u.core k) ∧
      t.dram = u.dram ∧ t.tiles = u.tiles ∧ t.ops = u.ops ∧ t.msgs = u.msgs ∧ t.cur = s.cur)

/-- A migration package that the admission check takes is pushed with all that it carries: registers, predicates, claims, counters, item and
program counter, its rows and its scratch in the storage of the new core (09 R270 step 5, R271), beside the units that the push spills (R254). The end notice of a task takes its away
marker off the stack, goes on to the core before (09 R273), and has the frame beneath follow the accesses that it brings (10 R301). What a core asked for to
fetch is let go when a frame is pushed or popped. -/
def Obligations.MigrationsArriveAndMarkersEnd : Prop :=
  (∀ core (s : State) e id p, (s.core core).candidate = some e → e.kind = .package id → kget s.packs id = some p → isCompute core = true →
    s.stilled core = false → s.parked e.ltag = false → (∀ a r b n, s.storageHeld core a r b n = false) → (∀ n k, (s.core core).follow ≠ .waiting n k) →
    ((s.core core).frames.map (·.arows)).foldl (· + ·) 0 + field (p.frame.wins) 25 16 ≤ rowShare core →
    ((s.core core).frames.map (·.fscr)).foldl (· + ·) 0 + 256 * field (p.frame.wins) 15 8 ≤ (s.scratchArea core e.ltag).2 →
    p.scratch.length = 256 * field (p.frame.wins) 15 8 → p.rows.length = 64 * field (p.frame.wins) 25 16 →
    ∃ t g below, exec (.migrationArrival core) s = .next t ∧ (t.core core).frames = g :: below ∧
      contents below = contents (s.core core).frames ∧ g.task = p.frame.task ∧ g.kind = p.frame.kind ∧ g.level = p.frame.level ∧
      g.pc = p.frame.pc ∧ g.x = p.frame.x ∧ g.v = p.frame.v ∧ g.k = p.frame.k ∧ g.item = p.frame.item ∧ g.claims = p.frame.claims ∧
      g.thr = p.frame.thr ∧ g.lv = p.frame.lv ∧ g.wins = p.frame.wins ∧ g.start = none ∧
      (t.tile (tileOf core)).array = memSetBytes
        (spillOver (s.tile (tileOf core)).array (s.spillBase core e.ltag) (newSpills (s.core core).frames below)) g.fsb p.scratch ∧
      (∀ i, i < p.rows.length → kgetD (t.tile (tileOf core)).acc (64 * g.acb + i) 0#32 = p.rows.getD i 0#32) ∧
      kget t.packs id = none ∧ (t.core core).inbox = (s.core core).inbox.erase e ∧ t.dram = s.dram ∧
      t.ops = withoutBuffers s.ops core) ∧
  (∀ core task (s : State) above m below n, s.notices.find? (fun x => x.core == core && x.task == task) = some n → s.underWay 10 (.token task) = false →
    (∀ c ∈ s.ctxs, ∀ v k, c.2.saved = some v → kget v.cores core = some k → ∀ f ∈ k.frames, f.task ≠ task) →
    (s.core core).frames = above ++ m :: below → m.task = task → m.isAway = true → (∀ f ∈ above, f.task ≠ task) → (∀ f ∈ below, f.task ≠ task) →
    (∀ k, (s.core core).follow ≠ .leading k) →
    ∃ t, exec (.endNotice core task) s = .next t ∧ contents (t.core core).frames = contents (above ++ below) ∧
      (∀ o, m.origin = some o → ∃ x ∈ t.notices, x.core = o ∧ x.task = task ∧ ∀ a ∈ n.after, a ∈ x.after) ∧
      (m.origin = none → t.notices = s.notices.erase n) ∧ (∀ a ∈ n.after, a ∈ (t.core core).behind) ∧ t.dram = s.dram ∧
      t.ops = (if above = [] then withoutBuffers s.ops core else s.ops))

/-! The die Governor (09 R261 to R265). -/

namespace Sys2Proof.Claims

/-- A message of kind 10 has set out (11 R320), which one step waits for. -/
def kindTen (t : State) (id : Nat) (ev : EvKind) : Prop := ∃ m, kget t.msgs id = some m ∧ m.msg.kind = 10 ∧ m.msg.ev = ev

/-- A record that the Governor of a die may place now, somewhere: its affinity includes the die, which qualifies if the record was forwarded to it. -/
def mayPlace (s : State) (die : Nat) (g : GovRec) : Prop :=
  g.localTo die = true ∧ (g.forwarded = false ∨ s.dieQualifies die g.ev.ltag = true) ∧ s.recReady die g = true ∧ ∃ k, k / 512 = die ∧ s.placeable g k = true

end Sys2Proof.Claims

/-- R262: of the records that can be placed the one of the highest level goes first, the oldest among equals; it sets out for the core of lowest
rank, the lowest number among equals, as a kind-1 message, or a kind-9 one that carries a package (11 R320). That the message enters at the core's own router is
the model's choice (log entry 9). -/
def Sys2Proof.Claims.GovernorPlacesInOrder : Prop :=
  ∀ die (s : State) before g after, die < 8 → s.dieHeld die = false → (s.die die).ready = before ++ g :: after → mayPlace s die g →
    (∀ r ∈ before, mayPlace s die r → r.ev.level < g.ev.level) → (∀ r ∈ after, mayPlace s die r → r.ev.level ≤ g.ev.level) →
    (∀ r ∈ before ++ after, r.id ≠ g.id) →
    ∃ k t m, k / 512 = die ∧ s.placeable g k = true ∧
      (∀ j, j / 512 = die → s.placeable g j = true → (s.core k).rank < (s.core j).rank ∨ (s.core k).rank = (s.core j).rank ∧ k ≤ j) ∧
      exec (.governorPlacement die) s = .next t ∧ (t.die die).ready = before ++ after ∧ kget t.msgs s.nextId = some m ∧
      m.msg.kind = (match g.ev.kind with | .package _ => 9 | _ => 1) ∧ msgTarget m.msg = k ∧ m.msg.dpkg = s.pkg ∧ m.src = tileOf k ∧ m.msg.level = g.ev.level ∧
      m.msg.handler = g.ev.handler ∧ m.msg.words = g.ev.args ∧ m.msg.item = g.ev.item ∧ m.msg.ltag = g.ev.ltag ∧ m.msg.ev = g.ev.kind ∧
      m.msg.rangeOf = g.ev.gov ∧ m.msg.after = g.ev.after ∧ t.cores = s.cores ∧ t.dram = s.dram ∧ t.ops = s.ops

/-- R263: a record that its die may not place sets out for the die that its affinity allows, or is dropped with its item reported FAILED-ABSENT; one that has
come enters there when the ready queue has room, oldest first (R261), and one that comes to a die which does not qualify any more is forwarded again. R264: a
retire notice that has come frees the ranges of its record. R265: an idle Governor asks a neighbour on the ring, and is sent its clear records of affinity 0
in the order of placement, as many as the policy says. That it gets only records of launches which hold cores of its die is the model's choice (log entry
36), and so is that a record on its way stands in no queue until its message has come (log entry 8). -/
def Sys2Proof.Claims.GovernorForwardsRetiresAndSteals : Prop :=
  (∀ die (s : State) before g after, (s.die die).ready = before ++ g :: after → (∀ r ∈ before ++ after, r.id ≠ g.id) → s.recReady die g = true →
    (g.localTo die = false ∨ g.forwarded = true ∧ s.dieQualifies die g.ev.ltag = false) →
    (∀ d, s.forwardDie die g.aff g.affDie g.ev.ltag = some d →
      ∃ t, exec (.governorForward die g.id) s = .next t ∧ (t.die die).ready = before ++ after ∧ (∀ e, e ≠ die → t.die e = s.die e) ∧
        t.given = s.given ++ [{ src := die, dst := d, rec_ := { g with forwarded := true } }] ∧ kindTen t s.nextId (.token g.id) ∧
        t.cores = s.cores ∧ t.dram = s.dram) ∧
    (s.forwardDie die g.aff g.affDie g.ev.ltag = none → g.ev.kind = .task →
      ∃ t, exec (.governorForward die g.id) s = .next t ∧ (t.die die).ready = before ++ after ∧
        ∀ c, s.ctx g.ev.ltag = some c → ∃ c', t.ctx g.ev.ltag = some c' ∧ c'.failures = c.failures + 1)) ∧
  (∀ (s : State) x, (∀ r ∈ (s.die x.dst).ready, r.id ≠ x.rec_.id) → s.given.find? (fun y => y.dst == x.dst && y.rec_.id == x.rec_.id) = some x →
    let comes := exec (.governorForward x.dst x.rec_.id) s
    (s.underWay 10 (.token x.rec_.id) = true → comes = .next s) ∧
    (s.underWay 10 (.token x.rec_.id) = false → s.dieQualifies x.dst x.rec_.ev.ltag = true →
      s.given.find? (fun y => y.dst == x.dst && !s.underWay 10 (.token y.rec_.id)) = some x →
      ((s.die x.dst).ready.length < 4096 → comes = .next
        { s with given := s.given.erase x, dies := kset s.dies x.dst { s.die x.dst with ready := (s.die x.dst).ready ++ [x.rec_] } }) ∧
      (4096 ≤ (s.die x.dst).ready.length → comes = .next s)) ∧
    (∀ d, s.underWay 10 (.token x.rec_.id) = false → s.dieQualifies x.dst x.rec_.ev.ltag = false →
      State.forwardDie { s with given := s.given.erase x } x.dst x.rec_.aff x.rec_.affDie x.rec_.ev.ltag = some d →
      ∃ t, comes = .next t ∧ t.given = s.given.erase x ++ [{ src := x.dst, dst := d, rec_ := { x.rec_ with forwarded := true } }] ∧ t.dies = s.dies)) ∧
  (∀ die task (s : State), (die, task) ∈ s.retired → s.underWay 10 (.token task) = false →
    (∀ c ∈ s.ctxs, ∀ v, c.2.saved = some v → ∀ r ∈ v.ranges, ¬ (r.1 = die ∧ r.2.id = task)) → exec (.rangeRetire die task) s = .next
    { s with retired := s.retired.erase (die, task),
             dies := kset s.dies die { s.die die with ranges := (s.die die).ranges.filter (fun r => r.id != task) } }) ∧
  (∀ die near (s : State), ringNeighbours die near = true → s.governorIdle die = true → s.dieHeld die = false → s.policy.stealRecords ≠ 0 →
    ¬ near ∈ (s.die die).steals → (s.die die).stealNext ≤ s.time →
    ∃ t, exec (.stealRequest die near) s = .next t ∧
      t.dies = kset s.dies die { s.die die with steals := (s.die die).steals ++ [near], stealNext := s.time + s.policy.stealInterval } ∧
      kindTen t s.nextId (.access die near) ∧ t.cores = s.cores ∧ t.dram = s.dram ∧ t.ops = s.ops) ∧
  (∀ die near (s : State), die ≠ near → near ∈ (s.die die).steals → s.underWay 10 (.access die near) = false →
    ∃ (t : State) (given : List GovRec), exec (.stealAnswer die near) s = .next t ∧ t.given = s.given ++ given.map (fun g => { src := near, dst := die, rec_ := g }) ∧
      (t.die near).ready = (s.die near).ready.filter (fun g => !given.contains g) ∧ given.length ≤ s.policy.stealRecords ∧
      (∀ g ∈ given, g ∈ (s.die near).ready ∧ g.aff = 0 ∧ s.recReady near g = true ∧ s.dieQualifies die g.ev.ltag = true) ∧
      given.Pairwise (fun a b => b.ev.level ≤ a.ev.level) ∧
      (∀ g ∈ (s.die near).ready, g.aff = 0 → s.recReady near g = true → s.dieQualifies die g.ev.ltag = true → ¬ g ∈ given → ∀ h ∈ given, g.ev.level ≤ h.ev.level) ∧
      (t.die die).steals = (s.die die).steals.erase near ∧ t.cores = s.cores ∧ t.dram = s.dram)

/-- An arrival that reaches the unit of its die is counted there as `arrive` counts one, and acknowledged; the acknowledgement that has come lets the core
go on (R267, 07 R220). An acknowledgement of channel words that has come lowers what the sender has outstanding towards the target, and one of an
end word counts for its `rankch` job, which is finished when every target has accepted it (11 R328, 06 R188), and one of a clip box's for its copy (11 R315). -/
def Obligations.AcknowledgementsReturn : Prop :=
  (∀ id (s : State) nm c b b', kget s.msgs id = some nm → id < s.nextId → nm.msg.kind = 8 → nm.msg.blank = false → nm.flits ≤ nm.arrived →
    (s.router (tileAt nm.dcol nm.drow)).hold = [] → s.ctx nm.msg.ltag = some c → c.state = .running → c.leat = [] →
    let u := (nm.msg.words.getD 0 0#64).toNat
    let core := (nm.msg.words.getD 1 0#64).toNat
    let task := (nm.msg.words.getD 2 0#64).toNat
    (s.die (u / 256)).inReset = false → kget (s.die (u / 256)).barriers (u % 256) = some b → b.ltag = nm.msg.ltag → core ∈ b.members →
    b.arrive core = some (b', false) →
    ∃ t, exec (.barrierArrival id) s = .next t ∧ kget t.msgs id = none ∧ (kget (t.die (u / 256)).barriers (u % 256)).map (fun x => (x.phase, x.leads)) = some (b'.phase, b'.leads) ∧
      (t.core core).frames = (s.core core).frames.map (fun f => if f.task = task ∧ f.arrive = 1 then { f with arrive := 5 } else f) ∧
      (∀ k, k ≠ core → t.core k = s.core k) ∧ t.dram = s.dram ∧ t.ops = s.ops) ∧
  (∀ core s, exec (.arrivalAcknowledgement core) s = .next (s.setCore core { s.core core with
    frames := (s.core core).frames.map (fun f =>
      { f with arrive := if 5 ≤ f.arrive ∧ s.underWay 7 (.token f.task) = false then f.arrive - 3 else f.arrive }) })) ∧
  (∀ a (s : State), s.acks.find? (fun x => x.sender == a.sender && x.target == a.target && x.words == a.words && !s.underWay 7 (.token x.token)) = some a →
    s.savedOf a.ltag = none →
    (a.job = none → a.copy = none → exec (.channelAck a.sender a.target a.words) s = .next
      ({ s with acks := s.acks.erase a }.setCore a.sender
        { s.core a.sender with credit := kset (s.core a.sender).credit a.target (kgetD (s.core a.sender).credit a.target 0 - a.words) })) ∧
    (∀ id j, a.copy = some id → kget s.copies id = some j → ∃ t, exec (.channelAck a.sender a.target a.words) s = .next t ∧
      kget t.copies id = some { j with boxDone := true } ∧ t.acks = s.acks.erase a) ∧
    (∀ queue stamp, a.job = some (queue, stamp) → ∃ t, exec (.channelAck a.sender a.target a.words) s = .next t ∧
      kgetD (t.core a.sender).credit a.target 0 = kgetD (s.core a.sender).credit a.target 0 - a.words ∧ t.acks = s.acks.erase a ∧
      kgetD (t.tile (tileOf (queue / 8))).queues queue [] = (kgetD (s.tile (tileOf (queue / 8))).queues queue []).map (fun (j : Job) =>
        if j.stamp = stamp then
          { j with accepted := j.accepted + 1, finished := j.finished || decide (j.targets.length ≤ j.accepted + 1) }
        else j) ∧ t.dram = s.dram ∧ t.ops = s.ops))

/-- The Millrace: flits between routers, and messages at their target. -/
def Obligations.MessagesAndFlitsMove : Prop :=
  Sys2Proof.Claims.MessagesReachTheirTargets ∧ Sys2Proof.Claims.FlitsMoveAndAreConserved

/-- What a core takes besides its own bundles: events, faults that wait, bundles that its leader forwarded. -/
def Obligations.CoresTakeEventsFaultsAndBundles : Prop :=
  Sys2Proof.Claims.EventsArePushed ∧ Sys2Proof.Claims.WaitingFaultsTrap ∧ Sys2Proof.Claims.ForwardedBundlesExecute

/-- The die Governor. -/
def Obligations.GovernorsPlaceForwardAndSteal : Prop :=
  Sys2Proof.Claims.GovernorPlacesInOrder ∧ Sys2Proof.Claims.GovernorForwardsRetiresAndSteals


/-! Copies (11 R308 to R316), collectives (11 R331 to R335), launches (13 R349 to R357; 14 R389 to R391; 15 R416, R418). -/

namespace Sys2Proof.Claims

/-- A job of an engine has ended with a status: its task's `cpc` is one lower and the status is held for its level (07 R211, R227), while no
register, predicate or program counter of the core's stack changes. -/
def jobEnded (s t : State) (core level task ident engine status : Nat) : Prop :=
  (∃ x ∈ (t.core core).statuses, x.level = level ∧ x.engine = engine ∧ x.job = ident ∧ x.status = status) ∧
    (t.core core).frames = (s.core core).frames.map (fun f =>
      if f.task = task then { f with lv := { f.lv with cpc := f.lv.cpc - 1 } } else f)

end Sys2Proof.Claims

/-- A segment of a copy between scratch and memory of this package: it starts when its job has the turn, both ends translated and the source read; one that
an earlier job of the core or an `ahnd` handler holds back stays as it is (11 R309); a place that cannot be reached fails the job
with its status, and when both ends fail the lower one decides. Its data is performed at the destination once what it writes has been read and nothing that
it would change is still to be read, which holds at the latest when every segment has read its source. The model's choices: that a job that converts or
rearranges reads everything first (log entry 19), and that bytes of one line take their place together, and so do those of a scratch place (log entry 21). -/
def Sys2Proof.Claims.CopySegmentsReadThenWrite : Prop :=
  (∀ id (s : State) j (i : Nat) x r v, kget s.copies id = some j → s.stilled j.core = false → s.copyTurnOf (tileOf j.core) = some id →
    j.planned = true → j.status = none → j.segs[i]? = some x → x.started = false →
    (∀ (k : Nat) y, k < i → j.segs[k]? = some y → y.started = true) → j.cmd.dch = false → j.cmd.mcast = false →
    s.runPlaces j j.cmd.ssc (j.words.getD 0 0#64) .load x.reads = (r, v) →
    (∀ src st a u, r = .ok src → v.runPlaces j j.cmd.dsc (j.words.getD 1 0#64) .store x.writes = (.error (st, a), u) →
      ∃ t j', exec (.copySegmentStart id) s = .next t ∧ kget t.copies id = some j' ∧ j'.status = some st ∧ j'.failAddr = a ∧ j'.segs = j.segs ∧
        t.dram = u.dram ∧ t.cores = u.cores) ∧
    (∀ st a dst u, r = .error (st, a) → v.runPlaces j j.cmd.dsc (j.words.getD 1 0#64) .store x.writes = (.ok dst, u) →
      ∃ t j', exec (.copySegmentStart id) s = .next t ∧ kget t.copies id = some j' ∧ j'.status = some st ∧ j'.failAddr = a ∧ j'.segs = j.segs ∧
        t.dram = u.dram ∧ t.cores = u.cores) ∧
    (∀ st a st' a' u, r = .error (st, a) → v.runPlaces j j.cmd.dsc (j.words.getD 1 0#64) .store x.writes = (.error (st', a'), u) →
      ∃ t j', exec (.copySegmentStart id) s = .next t ∧ kget t.copies id = some j' ∧ j'.status = some (min st st') ∧
        j'.failAddr = (if st' < st then a' else a) ∧ j'.segs = j.segs ∧ t.dram = u.dram ∧ t.cores = u.cores) ∧
    (∀ src dst u, r = .ok src → v.runPlaces j j.cmd.dsc (j.words.getD 1 0#64) .store x.writes = (.ok dst, u) →
      (∀ p ∈ src, p.1.far = false) →
        ∃ t j' y, exec (.copySegmentStart id) s = .next t ∧ kget t.copies id = some j' ∧ j'.segs[i]? = some y ∧ y.started = true ∧ y.src = src ∧
          y.dst = dst ∧ y.data = src.flatMap (fun p => u.readLoc p.1 p.2) ∧ y.left = 0 ∧ y.wrote = x.wrote ∧
          (∀ k : Nat, k ≠ i → j'.segs[k]? = j.segs[k]?) ∧ j'.status = none ∧ t.dram = u.dram ∧ t.cores = u.cores)) ∧
  (∀ id (s : State) j (i : Nat) x, kget s.copies id = some j → (∀ y ∈ s.copies, y.1 = id → y.2 = j) → j.planned = true → j.segs[i]? = some x →
    x.started = false → (∀ (k : Nat) y, k < i → j.segs[k]? = some y → y.started = true) → s.segmentBlocked id j x = true →
    exec (.copySegmentStart id) s = .next s) ∧
  (∀ id seg (s : State) j x, kget s.copies id = some j → j.segs[seg]? = some x → x.started = true → x.wrote = false → j.status = none →
    j.cmd.dch = false →
    ((∀ y ∈ j.segs, y.started = true ∧ (y.left = 0 ∨ y.wrote = true)) → s.segmentReady j seg x = true) ∧
    (s.segmentReady j seg x = true → s.underWay 6 (.segment id seg) = false → s.placesHeld x.dst = false →
    (∃ t j' y, exec (.copySegmentPerformed id seg) s = .next t ∧ kget t.copies id = some j' ∧ j'.segs[seg]? = some y ∧ y.wrote = true ∧
      y.dst = x.dst ∧ j'.status = none ∧ (∀ k : Nat, k ≠ seg → j'.segs[k]? = j.segs[k]?) ∧ t.cores = s.cores) ∧
    ∀ l n, j.cmd.mcast = false → j.cmd.plain = true → j.segs = [x] → x.dst = [(l, n)] → x.left = 0 → x.data.length = n → runsLength x.writes = n → 0 < n →
      (∀ pol h pa, l = .global pol h pa → pol < 3 → pa % 64 + n ≤ 64 →
        let y : Segment := { x with left := 0, wrote := true }
        exec (.copySegmentPerformed id seg) s = .next
          { s.writeLoc l x.data with freeIx := (s.writeLoc l x.data).freeIx + 1, copies := kset s.copies id { j with segs := [y] } }) ∧
      (∀ tile off, l = .array tile off →
        ∃ t, exec (.copySegmentPerformed id seg) s = .next t ∧ (t.tile tile).array = memSetBytes (s.tile tile).array off x.data ∧
          (∀ k, k ≠ tile → t.tile k = s.tile k) ∧ t.dram = s.dram ∧ t.slices = s.slices ∧ t.cores = s.cores)))

/-- When a copy completes: once every segment has been performed it ends OK (1), or CLIPPED (2) when its clip box has reached its channel;
a failed one ends with its status once none of its accesses is under way outside the package, at once when its time has run out; after 2^26
cycles it fails TIMEOUT (7). A multicast counts the acknowledgements of its super-groups, which travel as messages of kind 7, waits for as many as its mask has tiles, and ends
with the lowest status of its failed tiles (11 R310, R315, R316). -/
def Sys2Proof.Claims.CopiesComplete : Prop :=
  (∀ id (s : State) j, kget s.copies id = some j → s.parked j.ltag = false → j.status = none → j.planned = true → j.succ = none →
    (∀ x ∈ j.segs, x.wrote = true ∧ x.left = 0) → (j.cmd.mcast = true → j.masked.length ≤ (j.acks.map (·.2)).sum) → j.mfail = 0 →
    (s.frameOf j.core j.task).isSome = true →
    (j.cmd.clipped = false → ∃ t, exec (.copyJobCompletion id) s = .next t ∧ kget t.copies id = none ∧
      jobEnded s t j.core j.level j.task j.ident 1 1 ∧ t.dram = s.dram ∧ t.tiles = s.tiles ∧ t.msgs = s.msgs) ∧
    (j.cmd.clipped = true → j.boxSent = true → j.boxDone = false → exec (.copyJobCompletion id) s = .next s) ∧
    (j.cmd.clipped = true → j.boxSent = true → j.boxDone = true →
      ∃ t, exec (.copyJobCompletion id) s = .next t ∧ kget t.copies id = none ∧ jobEnded s t j.core j.level j.task j.ident 1 2 ∧
        t.dram = s.dram ∧ t.tiles = s.tiles ∧ t.msgs = s.msgs)) ∧
  (∀ id (s : State) j st c, kget s.copies id = some j → s.parked j.ltag = false → 2 < st →
    ((j.status = some st ∧ (st = 7 ∨ ∀ o ∈ s.ops, o.2.core ≠ copyCore id)) ∨
      (j.status = none ∧ j.planned = true ∧ (∀ x ∈ j.segs, x.wrote = true ∧ x.left = 0) ∧
        (j.cmd.mcast = true → j.masked.length ≤ (j.acks.map (·.2)).sum) ∧ j.mfail = st)) →
    s.ctx j.ltag = some c → (s.frameOf j.core j.task).isSome = true → j.core ≠ cqCore j.ltag →
    ∃ t c', exec (.copyJobCompletion id) s = .next t ∧ kget t.copies id = none ∧ t.ctx j.ltag = some c' ∧ c'.failures = c.failures + 1 ∧
      (∃ x ∈ (t.core j.core).statuses, x.level = j.level ∧ x.engine = 1 ∧ x.job = j.ident ∧ x.status = st)) ∧
  (∀ id g (s : State) j, kget s.copies id = some j → j.cmd.mcast = true → j.planned = true → (∀ x ∈ j.segs, x.wrote = true ∧ x.left = 0) →
    let n := j.masked.countP (fun t => superGroupOf t == g)
    (n = 0 → exec (.multicastAck id g) s = .next s) ∧
    (n ≠ 0 → ¬ g ∈ j.acksSent → ∃ t m, exec (.multicastAck id g) s = .next t ∧ kget t.copies id = some { j with acksSent := j.acksSent ++ [g] } ∧
      kget t.msgs s.nextId = some m ∧ m.msg.kind = 7 ∧ m.msg.ev = .segment id g ∧ m.msg.dcore = keyId j.core ∧ t.cores = s.cores ∧ t.dram = s.dram) ∧
    (n ≠ 0 → g ∈ j.acksSent → s.underWay 7 (.segment id g) = true → exec (.multicastAck id g) s = .next s) ∧
    (n ≠ 0 → g ∈ j.acksSent → s.underWay 7 (.segment id g) = false →
      let j' : CopyJob := { j with acks := kset j.acks g n }
      exec (.multicastAck id g) s = .next { s with copies := kset s.copies id j' })) ∧
  (∀ id (s : State) j start, kget s.copies id = some j → j.startCycle = some start → start + 2 ^ 26 ≤ s.cycle → s.parked j.ltag = false →
    j.status = none → exec (.copyTimeout id) s = .next
      { s with copies := kset s.copies id { j with status := some 7, failAddr := 0#64, failCycle := s.cycle } })

/-- A block of a collective: once every rank of the package has pushed, their commands are told to the other packages; once all ranks are known
and agree, the contributions of the package are combined die by die (R332 step 1); two results go to the collective handler of the launch at
the block's gateway core, with a message of kind 1 (R333, R320). A rank that contributes no more, or ranks that disagree, fail the block with ABSENT (6), and
a block past the limit fails TIMEOUT with the ranks that are missing; when every block is delivered or has failed the jobs of the ranks end, with success
once all packages have delivered theirs (R331, R335). The model's choice: that commands are told to the other packages and when, and that packages tell one
another that they have delivered (log entry 23). -/
def Obligations.CollectiveBlocksCombineAndEnd : Prop :=
  (∀ id block (s : State) c, kget s.colls id = some c → s.parked c.ltag = false → ¬ block ∈ c.finished → ¬ block ∈ c.failed →
    block < c.op.blocks (s.ranksOf c).length →
    (s.goneRanks c ≠ [] →
      ∃ t c', exec (.collectiveBlockCombine id block) s = .next t ∧ kget t.colls id = some c' ∧ c'.failed = c.failed ++ [block] ∧
        c'.status = some (c.status.getD 6) ∧ (∀ r ∈ s.goneRanks c, r ∈ c'.missing) ∧ c'.parts = c.parts ∧ t.dram = s.dram ∧ t.cores = s.cores) ∧
    (s.goneRanks c = [] → (∀ x ∈ c.cmds, s.afterDone x.after = true) →
    (s.absentHere c = [] → c.told = false →
      ∃ t c', exec (.collectiveBlockCombine id block) s = .next t ∧ kget t.colls id = some c' ∧ c'.told = true ∧ c'.cmds = c.cmds ∧
        c'.parts = c.parts ∧ c'.finished = c.finished ∧ c'.failed = c.failed ∧ t.dram = s.dram ∧ t.cores = s.cores) ∧
    (s.absentRanks c = [] → c.told = true → c.disagreeing ≠ [] →
      ∃ t c', exec (.collectiveBlockCombine id block) s = .next t ∧ kget t.colls id = some c' ∧ c'.failed = c.failed ++ [block] ∧
        c'.status = some (c.status.getD 6) ∧ (∀ r ∈ c.disagreeing, r ∈ c'.missing) ∧ c'.parts = c.parts ∧ t.dram = s.dram ∧ t.cores = s.cores) ∧
    (s.absentRanks c = [] → c.told = true → c.disagreeing = [] →
      (∀ l v, kget c.parts block = none → s.contributions id c (s.ranksOf c).length block c.cmds = .ok l v → kget v.colls id = some c →
        ∃ t c', exec (.collectiveBlockCombine id block) s = .next t ∧ kget t.colls id = some c' ∧
          kget c'.parts block = some (packageParts c.op (c.op.span (s.ranksOf c).length block).2 l) ∧ c'.cmds = c.cmds ∧
          c'.finished = c.finished ∧ t.dram = v.dram) ∧
      (∀ p q rest x r ident ws, kget c.parts block = some (p :: q :: rest) → ¬ block ∈ c.handled → s.ctx c.ltag = some x →
        c.first = some (r, ident, ws) →
        ∃ t m c', exec (.collectiveBlockCombine id block) s = .next t ∧ kget t.msgs s.nextId = some m ∧ m.msg.kind = 1 ∧
          msgTarget m.msg = gatewayOf block ∧ m.msg.dpkg = s.pkg ∧ m.src = handlerRouter (gatewayOf block) ∧
          m.msg.ev = .collective id block ∧ m.msg.handler = x.words.getD 5 0#64 ∧ m.msg.level = x.recBits 0 40 38 ∧ m.msg.ltag = c.ltag ∧
          m.msg.words = [BitVec.ofNat 64 block, 0#64, BitVec.ofNat 64 ((p.length + 15) / 16 * 16), BitVec.ofNat 64 ident] ∧
          kget t.colls id = some c' ∧ c'.handled = c.handled ++ [block] ∧ c'.parts = c.parts ∧ t.dram = s.dram ∧ t.cores = s.cores)))) ∧
  (∀ id block (s : State) c, kget s.colls id = some c → s.parked c.ltag = false → ¬ block ∈ c.finished → ¬ block ∈ c.failed →
    block < max 1 (c.op.blocks (s.ranksOf c).length) → c.started + s.policy.collLimit ≤ s.cycle →
    ∃ t c', exec (.collectiveBlockTimeout id block) s = .next t ∧ kget t.colls id = some c' ∧ c'.failed = c.failed ++ [block] ∧
      c'.status = some (c.status.getD 7) ∧ (∀ r ∈ s.absentRanks c, r ∈ c'.missing) ∧ c'.finished = c.finished ∧ c'.cmds = c.cmds ∧
      t.dram = s.dram ∧ t.cores = s.cores) ∧
  (∀ id (s : State) c x, kget s.colls id = some c → s.parked c.ltag = false → c.told = true →
    (∀ b, b < c.op.blocks (s.ranksOf c).length → b ∈ c.finished ∨ b ∈ c.failed) → s.storesOpen id = false → c.cmds = [x] → x.lost = false →
    x.core ≠ collCore id → x.core ≠ cqCore c.ltag → (s.frameOf x.core x.task).isSome = true →
    (s.absentRanks c = [] → c.disagreeing = [] → c.status = none → c.toldDone = false →
      ∃ t c', exec (.collectiveJobCompletion id) s = .next t ∧ kget t.colls id = some c' ∧ c'.toldDone = true ∧ c'.finished = c.finished ∧
        c'.cmds = c.cmds ∧ t.cores = s.cores ∧ t.dram = s.dram) ∧
    (s.absentRanks c = [] → c.disagreeing = [] → c.status = none → c.toldDone = true → (∀ q ∈ s.otherPackages c, q ∈ c.dones) → x.succ = none →
      ∃ t, exec (.collectiveJobCompletion id) s = .next t ∧ kget t.colls id = none ∧ jobEnded s t x.core x.level x.task x.ident 2 1 ∧
        t.dram = s.dram ∧ t.tiles = s.tiles) ∧
    (∀ st, c.status = some st → 2 < st →
      ∃ t, exec (.collectiveJobCompletion id) s = .next t ∧ kget t.colls id = none ∧
        ∃ y ∈ (t.core x.core).statuses, y.level = x.level ∧ y.engine = 2 ∧ y.job = x.ident ∧ y.status = st))

namespace Sys2Proof.Claims

/-- A queue of a compute function from which its Governor may take an entry now. -/
def queueServed (s : State) (fn q : Nat) : Prop :=
  s.fnUp fn = true ∧ s.dieHeld (dieOfFn fn) = false ∧ s.hostOpen fn = false ∧ q < 16 ∧ ((s.fn fn).queue q).enabled = true ∧
    ((s.fn fn).queue q).head ≠ ((s.fn fn).queue q).tail ∧ ∀ c ∈ s.ctxs, ¬ (c.2.fn = fn ∧ c.2.queue = q ∧ c.2.state = .waiting)

/-- Word 1 of the entry at the head of a queue has been written, with a status, a launch tag and done, and the head is one on (14 R390, R391): in host memory
by a write of the function, in the tenant's memory at its virtual address. Tiles and contexts are left as they were, but for that write. -/
def answered (s t : State) (fn q : Nat) (old : LaunchQueue) (status tag : Nat) : Prop :=
  let a := old.entryAddr old.head + 8
  let b := leBytes (status + tag * 256 + 2 ^ 63) 8
  (t.fn fn).queue q = { (s.fn fn).queue q with head := (((s.fn fn).queue q).head + 1) % 65536 } ∧ t.ctxs = s.ctxs ∧ t.lastTag = s.lastTag ∧
    (old.loc ≠ 1 → t.egress = s.egress ++ [.hostWrite fn (s.ideOf fn) 0 0 (a % 2 ^ 52) b] ∧ t.tiles = s.tiles ∧ t.dies = s.dies ∧ t.dram = s.dram) ∧
    (old.loc = 1 → ∃ u, u = s.ownWrite (s.fn fn).tenant (BitVec.ofNat 64 a) b ∧ t.tiles = u.tiles ∧ t.dies = u.dies ∧ t.dram = u.dram ∧
      t.slices = u.slices ∧ t.ops = u.ops ∧ t.egress = u.egress)

/-- What a Governor has read of a record: the words, with the bytes of its start list, allocation, barrier and group tables. -/
def recordRead (words : List Word) (l : List (List Byte)) : LaunchRec :=
  { words := words, starts := wordRows (l.getD 0 []) 48, alloc := wordRows (l.getD 1 []) 128, bars := wordRows (l.getD 2 []) 16,
    groups := wordRows (l.getD 3 []) 16 }

end Sys2Proof.Claims

/-- Launch queues: once the writes of its function before it have been performed, a doorbell moves the tail, and one that would pass the head
by more than the ring raises `over` and disables the queue; `over` and, in an unlocked interface, `fault` are cleared by software; a write
that does not reach the function completes with Unsupported Request (14 R384, R387, R389, R391, R394). The Governor takes the entry at the head: a record
that passes every check of R354 becomes a context under the next launch tag, any other gets the status of the first check that fails and none; an entry that
cannot be read sets `fault`, disables the queue and leaves the head. -/
def Obligations.LaunchQueuesTakeRecords : Prop :=
  (∀ fn q tail via (s : State), s.fnTakes fn via = true → s.hostOpen fn = false → q < 16 →
    let old := (s.fn fn).queue q
    (old.enabled = true →
      ∃ t, exec (.launchDoorbell ⟨fn, via⟩ q tail) s = .next t ∧ t.ctxs = s.ctxs ∧ t.cores = s.cores ∧ t.dram = s.dram ∧
        (∀ f, f ≠ fn → t.fn f = s.fn f) ∧
        (t.fn fn).queue q = (if (tail % 65536 + 65536 - old.head) % 65536 ≤ 2 ^ old.lg then { old with tail := tail % 65536 }
          else { old with overflow := true, en := false })) ∧
    (∃ t, exec (.queueOverClear ⟨fn, via⟩ q) s = .next t ∧ (t.fn fn).queue q = { old with overflow := false } ∧ t.ctxs = s.ctxs) ∧
    ((s.fn fn).tdi = .unlocked → ∃ t, exec (.queueFaultClear ⟨fn, via⟩ q) s = .next t ∧
      (t.fn fn).queue q = { old with fault := false } ∧ t.ctxs = s.ctxs) ∧
    ((s.fn fn).tdi ≠ .unlocked → ∃ t, exec (.queueFaultClear ⟨fn, via⟩ q) s = .next t ∧ (t.fn fn).queue q = old)) ∧
  (∀ fn q tail via (s : State), q < 16 → s.fnTakes fn via = false →
    exec (.launchDoorbell ⟨fn, via⟩ q tail) s = .next (s.emit (.report 2 (BitVec.ofNat 64 fn))) ∧
    exec (.queueOverClear ⟨fn, via⟩ q) s = .next (s.emit (.report 2 (BitVec.ofNat 64 fn))) ∧
    exec (.queueFaultClear ⟨fn, via⟩ q) s = .next (s.emit (.report 2 (BitVec.ofNat 64 fn)))) ∧
  (∀ fn q (s : State) st a, queueServed s fn q → s.readEntry fn q ((s.fn fn).queue q) = .failed st a →
    ∃ t, exec (.ringEntryTake fn q) s = .next t ∧ (t.fn fn).queue q = { (s.fn fn).queue q with fault := true, en := false } ∧ t.ctxs = s.ctxs) ∧
  (∀ fn q (s : State) b v, queueServed s fn q → s.readEntry fn q ((s.fn fn).queue q) = .ok b v →
    let old := (s.fn fn).queue q
    let read := v.engineReadV (ringCore fn q) (v.fn fn).tenant (recWord b 0) 256
    let ends (u : State) (status : Nat) : Prop := ∃ t, exec (.ringEntryTake fn q) s = .next t ∧ answered u t fn q old status 0
    ((recWord b 0).toNat % 64 ≠ 0 → ends v 18) ∧
    ((recWord b 0).toNat % 64 = 0 → ∀ st a, read = .failed st a → ends v 18) ∧
    ((recWord b 0).toNat % 64 = 0 → ∀ bytes u, read = .ok bytes u →
      let words := byteWords bytes
      let tenant := (u.fn fn).tenant
      (recordShapeOk words = false → ends u 18) ∧
      (recordShapeOk words = true → u.readTables (ringCore fn q) tenant (recTables u.pkg words) = .failed → ends u 18) ∧
      (recordShapeOk words = true → ∀ l u1 blocks u2 ranks w, u.readTables (ringCore fn q) tenant (recTables u.pkg words) = .ok l u1 →
        let r := recordRead words l
        u1.readTables (ringCore fn q) tenant (r.bars.map (fun b => (b.getD 1 0#64, 528))) = .ok blocks u2 →
        u2.readTables (ringCore fn q) tenant (r.groups.map (fun g => (g.getD 1 0#64, 4 * field (g.getD 0 0#64) 15 0))) = .ok ranks w →
        let bars := List.zipWith barrierEntry r.bars blocks
        let groups := List.zipWith (fun (g : List Word) b => groupRanks b (field (g.getD 0 0#64) 15 0)) r.groups ranks
        (∀ st, w.recordStatus (w.fn fn).tenant r bars groups = st → st ≠ 0 → ends w st) ∧
        (w.recordStatus (w.fn fn).tenant r bars groups = 0 →
          ∃ t tag c x, exec (.ringEntryTake fn q) s = .next t ∧ tag = w.tagFrom 65536 (w.lastTag + 1) ∧ t.ctx tag = some c ∧ c.state = .waiting ∧
            c.words = words ∧ c.tenant = (w.fn fn).tenant ∧ c.fn = fn ∧ c.queue = q ∧ c.homeDie = dieOfFn fn ∧
            c.foot = (recLeaves w.pkg words).map (·.1) ∧ c.starts = r.starts ∧ c.groups = groups ∧ t.lastTag = tag ∧
            (tag, x) = w.acceptLaunch fn q (w.fn fn).tenant r bars groups ∧ answered x t fn q old 0 tag)))) ∧
  (∀ (s : State) tenant (r : LaunchRec) bars groups,
    let f := recField r.words
    let cores := (recLeaves s.pkg r.words).map (·.1)
    let st := s.recordStatus tenant r bars groups
    let one := recordShapeOk r.words = false ∨ ∃ e ∈ r.starts,
      inFootprint s.pkg r.words (if startHere s.pkg e = true then s.pkg else field (e.getD 0 0#64) 21 12) (field (e.getD 0 0#64) 11 0) = false ∨
        7 ≤ field (e.getD 0 0#64) 34 32 ∨ (e.getD 1 0#64).getLsbD 0 = true
    let two := f 0 13 8 ≠ tenant ∨ ∃ k ∈ cores, s.inMesh tenant (tileOf k) = false
    let three := 288 < f 1 8 0
    let four := f 1 8 0 % 16 ≠ 0 ∨ ∃ t ∈ tilesOf cores,
      let n := (cores.filter (fun k => tileOf k == t)).length
      let areas := 12288 * n + 256 * f 1 24 16 * n
      let entries := allocOf r (tilesOf cores) t
      1024 * f 1 8 0 < areas ∨ (∃ e ∈ entries, bitsOf e 22 20 = 7) ∨
        (∃ x ∈ ownAllocs t entries, x.1 < areas ∨ 1024 * f 1 8 0 < x.1 + x.2) ∨ disjointRuns (ownAllocs t entries) = false
    let five := 2048 < f 12 27 16 ∨ (∃ b ∈ bars, (kget (s.die b.die).barriers b.unit).isSome = true ∨
        ∃ m ∈ b.members, isCompute m = true ∧ inFootprint s.pkg r.words s.pkg m = false) ∨
      (bars.map (fun b => (b.die, b.unit))).eraseDups.length ≠ bars.length ∨ ∃ g ∈ groups, ∃ x ∈ g, inFootprint s.pkg r.words x.2 x.1 = false
    (one → st = 18) ∧ (¬ one → two → st = 19) ∧ (¬ one → ¬ two → three → st = 16) ∧ (¬ one → ¬ two → ¬ three → four → st = 17) ∧
      (¬ one → ¬ two → ¬ three → ¬ four → five → st = 20) ∧ (¬ one → ¬ two → ¬ three → ¬ four → ¬ five → st = 0))

/-- A waiting launch whose tiles are all free takes them and runs; on each of its tiles it then starts (13 R355, R356): the tile's scratch,
accumulators, planes and layouts are clear, its rank tables are those the launch has read, its scratch side has the size of the record, and
the cores of the footprint have the record's matrix-wait setting, ceilings and tag, with no mask and no channel. A start task enters the
inbox of its core. The model's choice (log entry 11): one that finds no room waits, and the tile has not started until it has entered. -/
def Sys2Proof.Claims.LaunchesStart : Prop :=
  (∀ tag tile (s : State) c, s.ctx tag = some c → c.state = .waiting → s.startable tag c = true → c.words.getD 7 0#64 = 0#64 →
    c.words.getD 8 0#64 = 0#64 → c.words.getD 9 0#64 = 0#64 →
    ∃ t c', exec (.launchStart tag tile) s = .next t ∧ t.ctx tag = some c' ∧ c'.state = .running ∧ c'.foot = c.foot ∧ c'.words = c.words ∧
      c'.tabs = [] ∧ (∀ x ∈ c.tiles, (t.tile x).launch = tag ∧ (t.tile x).reserved = false) ∧ (∀ x, ¬ x ∈ c.tiles → t.tile x = s.tile x) ∧
      (∀ k, k ≠ ringCore c.fn c.queue → t.core k = s.core k) ∧ t.dram = s.dram) ∧
  (∀ tag tile (s : State) c, s.ctx tag = some c → c.state = .running → tile ∈ c.tiles → ¬ tile ∈ c.started → kget c.startLeft tile = none →
    c.startsOf s.pkg tile = [] →
    ∃ t c', exec (.launchStart tag tile) s = .next t ∧ t.ctx tag = some c' ∧ c'.started = c.started ++ [tile] ∧
      (t.tile tile).array = [] ∧ (t.tile tile).acc = [] ∧ (t.tile tile).planes = [] ∧ (t.tile tile).tabs = c.tabs ∧ (t.tile tile).layouts = [] ∧
      (t.tile tile).scratchKiB = c.recBits 1 8 0 ∧ (t.tile tile).pred = [] ∧
      ∀ k ∈ c.coresOf tile, (t.core k).mwt = (if c.recBits 0 27 24 = 0 then 1 else c.recBits 0 27 24) ∧ (t.core k).sat = tag ∧
        (t.core k).ceil = c.ceil ∧ (t.core k).masks = 0#16 ∧ (t.core k).chans = [] ∧ (t.core k).credit = [] ∧ (t.core k).icache = [] ∧
        (t.core k).frames = (s.core k).frames ∧ (t.core k).inbox = (s.core k).inbox) ∧
  (∀ tag tile (s : State) c core level h args, s.ctx tag = some c → c.state = .running → tile ∈ c.tiles → ¬ tile ∈ c.started →
    kget c.startLeft tile = none → c.startsOf s.pkg tile = [(core, level, h, args)] → core ∈ c.coresOf tile →
    ∃ t c' e, exec (.launchStart tag tile) s = .next t ∧ t.ctx tag = some c' ∧ e.kind = .task ∧ e.handler = h ∧ e.level = level ∧
      e.args = args ∧ e.ltag = tag ∧ e.gov = none ∧
      (s.inboxRoom core level = true → t.core core = withEvent ((s.core core).launched tag c) e ∧ c'.started = c.started ++ [tile]) ∧
      (s.inboxRoom core level = false →
        t.core core = (s.core core).launched tag c ∧ c'.started = c.started ∧ kget c'.startLeft tile = some [(core, e)])) ∧
  (∀ tag tile (s : State) c core e, s.ctx tag = some c → c.state = .running → tile ∈ c.tiles → ¬ tile ∈ c.started →
    kget c.startLeft tile = some [(core, e)] → s.inboxRoom core e.level = true →
    ∃ t c', exec (.launchStart tag tile) s = .next t ∧ t.ctx tag = some c' ∧ t.core core = withEvent (s.core core) e ∧
      c'.started = c.started ++ [tile] ∧ t.tiles = s.tiles ∧ t.dram = s.dram)

/-- The entries that a launch writes to its completion queue: the one that counts lost entries (kind 5), when the ring has room again; those that are due, one
of which is lost when the ring is full and waits while it is not known whether it is; that of an
instance that has become quiescent (kind 3); the launch-end entry (kind 4) of a quiescent launch with no lost entry, whose tiles,
barrier units and channels are then free (13 R357; 15 R416, R418). -/
def Sys2Proof.Claims.LaunchesReportAndEnd : Prop :=
  (∀ tag (s : State) c, s.ctx tag = some c → c.cqPend = [] → c.cqLost ≠ 0 → s.cqRoom tag c = some true →
    ∃ t c', exec (.cqOverflowEntry tag) s = .next t ∧ t.ctx tag = some c' ∧ c'.cqLost = 0 ∧ c'.cqCount = c.cqCount + 1 ∧
      c'.failures = c.failures ∧ c'.state = c.state ∧ c'.cqPend = []) ∧
  (∀ tag (s : State) c e, s.ctx tag = some c → c.cqPend = [e] → c.cqLost = 0 →
    (s.cqRoom tag c = some true → ∃ t c', exec (.cqOverflowEntry tag) s = .next t ∧ t.ctx tag = some c' ∧ c'.cqPend = [] ∧ c'.cqCount = c.cqCount + 1 ∧
      c'.cqLost = 0) ∧
    (s.cqRoom tag c = some false → ∃ t c', exec (.cqOverflowEntry tag) s = .next t ∧ t.ctx tag = some c' ∧ c'.cqPend = [] ∧ c'.cqCount = c.cqCount ∧
      c'.cqLost = 1) ∧
    (s.cqRoom tag c = none → ∃ t c', exec (.cqOverflowEntry tag) s = .next t ∧ t.ctx tag = some c' ∧ c'.cqPend = [e] ∧ c'.cqCount = c.cqCount ∧
      c'.cqLost = 0)) ∧
  (∀ tag binding inst (s : State) c b, s.ctx tag = some c → (recBindings c.words)[binding]? = some b → b.report = true →
    inst % leavesOf ((recBindings c.words).drop (binding + 1)) = 0 →
    let cores := ((recLeaves s.pkg c.words).filter (fun x =>
      decide (inst ≤ x.2) && decide (x.2 < inst + leavesOf ((recBindings c.words).drop (binding + 1))))).map (·.1)
    cores ≠ [] → c.state = .running → ¬ (binding, inst) ∈ c.instDone → (∀ k ∈ cores, tileOf k ∈ c.started) →
    s.busyWith tag (fun k => cores.contains k) = false → s.busyElsewhere tag c (fun k => cores.contains k) = false →
    ∃ t c', exec (.instanceComplete tag binding inst) s = .next t ∧ t.ctx tag = some c' ∧ c'.instDone = c.instDone ++ [(binding, inst)] ∧
      c'.failures = c.failures ∧
      (c.cqPend = [] → c.cqLost = 0 → s.cqRoom tag c = some true → c'.cqCount = c.cqCount + 1 ∧ c'.cqPend = [] ∧ c'.cqLost = 0)) ∧
  (∀ tag (s : State) c, s.ctx tag = some c → (c.state = .running ∨ c.state = .ended) → s.quiescent tag c = true → c.cqLost = 0 → c.cqPend = [] →
    s.cqRoom tag c = some true →
    ∃ t, exec (.launchEnd tag) s = .next t ∧ t.ctx tag = none ∧
      (∀ x ∈ c.tiles, (s.tile x).launch = tag → (t.tile x).launch = 0 ∧ (t.tile x).planes = [] ∧ (t.tile x).tabs = [] ∧ (t.tile x).layouts = []) ∧
      (∀ d, d < 8 → ∀ u b, kget (t.die d).barriers u = some b → b.ltag ≠ tag) ∧
      (∀ k, ∀ x ∈ (t.core k).chans, x.2.ltag ≠ tag) ∧
      (∀ k ∈ c.foot, k ≠ cqCore tag → (s.core k).sat = tag →
        (t.core k).chans = [] ∧ (t.core k).masks = 0#16 ∧ (t.core k).credit = [] ∧ (t.core k).statuses = []))

/-- A copy job from its first segment to its status. -/
def Obligations.CopyJobsRun : Prop :=
  Sys2Proof.Claims.CopySegmentsReadThenWrite ∧ Sys2Proof.Claims.CopiesComplete

/-- A launch from its tiles to its launch-end entry. -/
def Obligations.LaunchesStartReportAndEnd : Prop :=
  Sys2Proof.Claims.LaunchesStart ∧ Sys2Proof.Claims.LaunchesReportAndEnd


/-! The host and system software: registers, invalidations, BAR2, interfaces, resets (13 R362, R363, R378 to R381; 14 R384 to R394; 15 R419). -/

namespace Sys2Proof.Claims

/-- The kinds and ranges of a record's invalidation (13 R380): what it names of a tenant's bytes. -/
def invalidates (kind tenant base len : Nat) (e : TlbEntry) : Prop :=
  kind = 2 ∨ kind = 1 ∧ e.tenant = tenant ∨ kind = 0 ∧ e.tenant = tenant ∧ e.base < base + len ∧ base < e.base + 2 ^ e.lg

/-- A message of a kind that programs never observe goes to or comes from the Governor of every compute die (11 R320). -/
def everyDie (t : State) (kind token : Nat) (far : Nat → Msg → Prop) : Prop :=
  ∀ d, d < 8 → ∃ m ∈ t.msgs, m.2.msg.kind = kind ∧ m.2.msg.ev = .token token ∧ far d m.2.msg

/-- What a read record of an invalidation does (13 R378 to R380): refused with kind 3 or a misaligned or empty range, otherwise it is sent to every die. -/
def loadsRecord (s : State) (i : Instr) (b : List Byte) (rest : List InvalJob) : Prop :=
  let kind := field (recWord b 0) 7 6
  let tenant := field (recWord b 0) 5 0
  let base := (recWord b 1).toNat % 2 ^ 57
  let len := (recWord b 2).toNat
  (kind = 3 ∨ kind = 0 ∧ (base % 65536 ≠ 0 ∨ len % 65536 ≠ 0 ∨ len = 0) →
    ∃ t, exec i s = .next t ∧ t.inval.refused = true ∧ t.inval.jobs = rest ∧ t.tiles = s.tiles ∧ t.dies = s.dies) ∧
  (kind ≠ 3 → (kind = 0 → base % 65536 = 0 ∧ len % 65536 = 0 ∧ len ≠ 0) →
    ∃ t k, exec i s = .next t ∧ t.inval.refused = false ∧ t.inval.jobs = rest ++ [k] ∧ k.loaded = true ∧ k.acked = false ∧ k.token = s.nextId ∧
      k.kind = kind ∧ k.tenant = tenant ∧ k.base = base ∧ k.len = len ∧ everyDie t 10 s.nextId (fun d m => msgTarget m = 512 * d) ∧
      t.tiles = s.tiles ∧ t.dies = s.dies ∧ t.dram = s.dram)

end Sys2Proof.Claims

/-- Host register accesses, each after the writes of its function before it: 1 written to 0x0208 submits the record whose address stands in
0x0200; a queue's base register keeps its value while the queue is enabled or the interface is locked, and its head register reads as its
head. An access that does not reach its function completes with Unsupported Request. A record that has been read, or that a Primrose call
gives, is sent to every die; one with kind 3 or a misaligned range is refused. Where it has arrived and no access of its tenant translated before it is
open, every translation of what it names is dropped, in the tiles and dies of the package, and every die acknowledges it; it is done when the
acknowledgements have come (14 R384, R385, R387 to R389, R394; 13 R378 to R381; 11 R320). -/
def Sys2Proof.Claims.InvalidationsComplete : Prop :=
  (∀ (v : Word) via (s : State), s.mgmtUp = true → v.getLsbD 0 = true →
    exec (.invalidationRequest (.register v)) s = exec (.registerWrite ⟨8, via⟩ 0x0208 v) s ∧
    ∃ t j, exec (.invalidationRequest (.register v)) s = .next t ∧ t.inval.jobs = s.inval.jobs ++ [j] ∧ j.addr = s.inval.addr ∧ j.loaded = false ∧
      t.cores = s.cores ∧ t.tiles = s.tiles ∧ t.dram = s.dram) ∧
  (∀ b (s : State), 3 ≤ s.boot.stage → loadsRecord s (.invalidationRequest (.call b)) b s.inval.jobs) ∧
  (∀ (v : Word) via (s : State), s.mgmtUp = true →
    ∃ t, exec (.registerWrite ⟨8, via⟩ 0x0200 v) s = .next t ∧ t.inval.addr = v.toNat ∧ t.inval.jobs = s.inval.jobs ∧ t.cores = s.cores ∧
      t.dram = s.dram) ∧
  (∀ fn q (v : Word) via (s : State), s.fnTakes fn via = true → s.hostOpen fn = false → q < 16 →
    (∃ t, exec (.registerWrite ⟨fn, via⟩ (0x1000 + 64 * q) v) s = .next t ∧ t.ctxs = s.ctxs ∧ t.dram = s.dram ∧
      (t.fn fn).queue q = (if ((s.fn fn).queue q).en = true ∨ (s.fn fn).tdi ≠ .unlocked then (s.fn fn).queue q
        else { (s.fn fn).queue q with loc := v.toNat % 2, base := field v 63 12 })) ∧
    exec (.counterRead ⟨fn, 0x1018 + 64 * q, via⟩) s = .next
      { s with egress := s.egress ++ [.hostReply (leBytes (BitVec.ofNat 64 ((s.fn fn).queue q).head : Word).toNat 8)] }) ∧
  (∀ fn off (v : Word) via (s : State), fn ≠ 8 → s.fnTakes fn via = false →
    exec (.registerWrite ⟨fn, via⟩ off v) s = .next { s with egress := s.egress ++ [.report 2 (BitVec.ofNat 64 fn)] } ∧
    exec (.counterRead ⟨fn, off, via⟩) s = .next { s with egress := s.egress ++ [.report 2 (BitVec.ofNat 64 fn)] }) ∧
  (∀ (s : State) j rest b, s.inval.jobs = j :: rest → j.loaded = false → j.addr % 32 = 0 →
    s.readPhys invalCore { policy := 4, home := 0, pa := j.addr % 2 ^ 52 } 32 = .ok b → loadsRecord s .invalidationComplete b rest) ∧
  (∀ (s : State) j rest, s.inval.jobs = j :: rest → (∀ x ∈ j :: rest, x.loaded = true) →
    (j.acked = false → s.underWay 10 (.token j.token) = false → s.translatedOpen j = false → j.kind ≤ 2 → ¬ j ∈ rest →
      ∃ t, exec .invalidationComplete s = .next t ∧ t.inval.jobs = { j with acked := true } :: rest ∧
        (∀ i e, e ∈ (t.tile i).utlb ↔ e ∈ (s.tile i).utlb ∧ ¬ invalidates j.kind j.tenant j.base j.len e) ∧
        (∀ d e, e ∈ (t.die d).tlb ↔ e ∈ (s.die d).tlb ∧ ¬ invalidates j.kind j.tenant j.base j.len e) ∧
        (∀ k, t.core k = { s.core k with rbuf := [] }) ∧ everyDie t 7 j.token (fun d m => m.src.core = 512 * d) ∧ t.dram = s.dram) ∧
    (j.acked = true → s.underWay 7 (.token j.token) = false →
      ∃ t, exec .invalidationComplete s = .next t ∧ t.inval.jobs = rest ∧ t.cores = s.cores ∧ t.tiles = s.tiles ∧ t.dies = s.dies ∧ t.dram = s.dram) ∧
    ((∀ x ∈ j :: rest, x.acked = false ∧ (s.underWay 10 (.token x.token) = true ∨ s.translatedOpen x = true) ∨
        x.acked = true ∧ s.underWay 7 (.token x.token) = true) → exec .invalidationComplete s = .next s))

/-- Accesses of the host through BAR2 (14 R387): a write becomes a store of the function's tenant at the homes of its lines, after every earlier
one; a read whose bytes stand in this package is answered with them. A page that cannot be reached discards the write and answers the
read with Unsupported Request, and so does a request that does not reach the function (14 R384, R394); one whose tables an `ahnd` handler holds waits
(07 R200). -/
def Sys2Proof.Claims.HostWindowAccesses : Prop :=
  (∀ fn off (data : List Byte) len via (s : State), ¬ (fn = 8 ∧ s.recovering = true) → s.fnTakes fn via = false →
    exec (.hostBar2Write ⟨fn, via⟩ off data) s = .next { s with egress := s.egress ++ [.report 2 (BitVec.ofNat 64 fn)] } ∧
    exec (.hostBar2Read ⟨fn, via⟩ off len) s = .next { s with egress := s.egress ++ [.report 2 (BitVec.ofNat 64 fn)] }) ∧
  (∀ fn off (data : List Byte) via (s : State) l, s.fnTakes fn via = true → off + data.length ≤ 2 ^ 36 → data ≠ [] →
    s.hostPlaces (hostCore fn) (s.fn fn).tenant .store (linePieces ((s.fn fn).window off) data.length (data.length / 64 + 2)) = .ok l →
    ∃ t o, exec (.hostBar2Write ⟨fn, via⟩ off data) s = .next t ∧ kget t.ops s.nextId = some o ∧ o.kind = .store ∧ o.ord = 2 ∧ o.core = hostCore fn ∧
      o.tenant = (s.fn fn).tenant ∧ o.elems.map (fun e => (e.loc, e.size)) = l.map (fun p => (Loc.global p.1.policy p.1.home p.1.pa, p.2)) ∧
      t.cores = s.cores ∧ t.dram = s.dram) ∧
  (∀ fn off (data : List Byte) via (s : State), s.fnTakes fn via = true → off + data.length ≤ 2 ^ 36 → data ≠ [] →
    s.hostPlaces (hostCore fn) (s.fn fn).tenant .store (linePieces ((s.fn fn).window off) data.length (data.length / 64 + 2)) = .error false →
    exec (.hostBar2Write ⟨fn, via⟩ off data) s = .next { s with egress := s.egress ++ [.report 10 (BitVec.ofNat 64 off)] }) ∧
  (∀ fn off (data : List Byte) via (s : State), s.fnTakes fn via = true → off + data.length ≤ 2 ^ 36 → data ≠ [] →
    s.hostPlaces (hostCore fn) (s.fn fn).tenant .store (linePieces ((s.fn fn).window off) data.length (data.length / 64 + 2)) = .error true →
    exec (.hostBar2Write ⟨fn, via⟩ off data) s = .next s) ∧
  (∀ fn off len via (s : State) b v l, s.fnTakes fn via = true → off + len ≤ 2 ^ 36 → s.hostOpen fn = false →
    s.hostPlaces (hostCore fn) (s.fn fn).tenant .load (linePieces ((s.fn fn).window off) len (len / 64 + 2)) = .ok l →
    s.engineRead (hostCore fn) (s.fn fn).tenant (linePieces ((s.fn fn).window off) len (len / 64 + 2)) = .ok b v →
    ∃ t, exec (.hostBar2Read ⟨fn, via⟩ off len) s = .next t ∧ t.egress = v.egress ++ [.hostReply b] ∧ t.dram = v.dram ∧ t.ops = v.ops) ∧
  (∀ fn off len via (s : State), s.fnTakes fn via = true → off + len ≤ 2 ^ 36 → s.hostOpen fn = false →
    s.hostPlaces (hostCore fn) (s.fn fn).tenant .load (linePieces ((s.fn fn).window off) len (len / 64 + 2)) = .error false →
    exec (.hostBar2Read ⟨fn, via⟩ off len) s = .next { s with egress := s.egress ++ [.report 2 (BitVec.ofNat 64 off)] })

/-- The tenant table (13 R362, R363): an entry that shares no router and no function with another valid one, of a tenant with no context and an
unlocked interface, stands in the table and binds its function, and the tenant's translations are invalidated; any other write changes
nothing and is reported. The model's choices (log entry 17): that the entry sets `wbase` of its function, and that it waits until no access translated for its
tenant is open, whether it destroys a tenant, as R363 says, or makes one. -/
def Sys2Proof.Claims.TenantEntriesAreGuarded : Prop :=
  (∀ n (e : TenantEntry) (s : State), n < 64 → 3 ≤ s.boot.stage → (∀ c ∈ s.ctxs, c.2.tenant ≠ n) → s.tenantOpen n = true → e.valid = true →
    1 ≤ e.width → 1 ≤ e.height → e.col0 + e.width ≤ 32 → e.row0 + e.height ≤ 16 → e.root % 32768 = 0 → isComputeFn e.function = true →
    (s.fn e.function).tdi = .unlocked →
    (∀ x ∈ s.tenants, x.1 ≠ n → x.2.valid = true → x.2.function ≠ e.function ∧ meshesMeet x.2 e = false) →
    let old : InvalJob := { addr := 0, loaded := true, tenant := n, kind := 1, base := 0, len := 0 }
    (s.translatedOpen old = true → exec (.tenantTableWrite n e) s = .next (s.dropTranslations old)) ∧
    (s.translatedOpen old = false → ∃ t, exec (.tenantTableWrite n e) s = .next t ∧ kget t.tenants n = some e ∧ (∀ k, k ≠ n → kget t.tenants k = kget s.tenants k) ∧
      (t.fn e.function).tenant = n ∧ (t.fn e.function).bound = true ∧ (t.fn e.function).wbase = e.wbase % 2 ^ 29 ∧
      everyDie t 10 s.nextId (fun d m => msgTarget m = 512 * d) ∧
      (∀ k, t.core k = { s.core k with rbuf := [] }) ∧ t.dram = s.dram ∧ t.ctxs = s.ctxs)) ∧
  (∀ n (e : TenantEntry) (s : State), (64 ≤ n ∨ s.boot.stage < 3 ∨ (∃ c ∈ s.ctxs, c.2.tenant = n) ∨ s.tenantOpen n = false ∨
      e.valid = true ∧ ∃ x ∈ s.tenants, x.1 ≠ n ∧ x.2.valid = true ∧ (x.2.function = e.function ∨ meshesMeet x.2 e = true)) →
    exec (.tenantTableWrite n e) s = .next { s with egress := s.egress ++ [.report 12 (BitVec.ofNat 64 n)] })

namespace Sys2Proof.Claims

/-- The state in which an interface has entered CONFIG_UNLOCKED, CONFIG_LOCKED or RUN, bound to a stream. -/
def withTdi (s : State) (fn : Nat) (tdi : Tdi) (ide : Option Nat) : State :=
  { s with fns := kset s.fns fn { s.fn fn with tdi := tdi, ide := ide } }

end Sys2Proof.Claims

/-- The interface states of 14 R394: LOCK_INTERFACE, START_INTERFACE and STOP_INTERFACE move between them; a configuration write to a locked or
running interface leads to ERROR, with its queues disabled; so does an integrity failure of the stream that it is bound to, which makes
the stream insecure. A key set in a session makes it secure (R393). -/
def Sys2Proof.Claims.InterfaceStatesChange : Prop :=
  (∀ fn (s : State), s.boot.done = true → isComputeFn fn = true →
    ((s.fn fn).tdi = .unlocked → exec (.lockInterface fn) s = .next (withTdi s fn .locked (s.fn fn).ide)) ∧
    ((s.fn fn).tdi = .locked → ∀ x, x < 16 → exec (.startInterface fn x) s = .next (withTdi s fn .run (some x))) ∧
    exec (.stopInterface fn) s = .next (withTdi s fn .unlocked none) ∧
    exec (.configurationRequest fn false) s = .next s ∧
    ((s.fn fn).locked = false → exec (.configurationRequest fn true) s = .next s) ∧
    ((s.fn fn).locked = true → (s.fn fn).bound = false → ∃ t, exec (.configurationRequest fn true) s = .next t ∧ (t.fn fn).tdi = .error ∧
      (∀ q, kget (s.fn fn).queues q ≠ none → ((t.fn fn).queue q).en = false) ∧ t.cores = s.cores ∧ t.dram = s.dram)) ∧
  (∀ x (s : State) fn, x < 16 → s.fns = [(fn, s.fn fn)] → (s.fn fn).ide = some x → (s.fn fn).locked = true → (s.fn fn).bound = false →
    ∃ t, exec (.ideIntegrityFailure x) s = .next t ∧ (t.fn fn).tdi = .error ∧ kget t.streams x = some { key := none, insecure := true } ∧
      t.cores = s.cores ∧ t.dram = s.dram) ∧
  (∀ fn x (key : Word) (s : State), (kget s.boot.session fn).isSome = true → x < 16 →
    exec (.ideKm fn x key) s = .next { s with streams := kset s.streams x { key := some key, insecure := false } })

/-- A compute die that is reset holds nothing of its cores, tiles and units, and stays in reset until it is ready; its ready queue and ranges
are empty, and no task, timer or inbox entry stands on its cores. Ready, its functions are back in CONFIG_UNLOCKED. A function-level
reset of a virtual function that is bound to no tenant sets its queues to their reset values; that of a physical one resets its die. The model's choice (log
entry 20): the queues of a die's functions take their reset values with the die. -/
def Obligations.ComputeDieResets : Prop :=
  (∀ d (s : State), d < 8 → s.boot.done = true → (s.die d).inReset = false →
    ∃ t, exec (.dieReset d) s = .next t ∧ (t.die d).inReset = true ∧ (t.die d).ready = [] ∧ (t.die d).ranges = [] ∧ (t.die d).barriers = [] ∧
      (t.die d).tlb = [] ∧ (t.die d).sgTlb = [] ∧ (∀ k, isCompute k = true → k / 512 = d → t.core k = Core.reset) ∧
      (∀ i, i / 64 = d → t.tile i = Tile.reset) ∧ ∀ f ∈ fnsOfDie d, (t.fn f).tdi ≠ .locked ∧ (t.fn f).tdi ≠ .run ∧ (t.fn f).queues = []) ∧
  (∀ d (s : State), d < 8 → (s.die d).inReset = true →
    ∃ t, exec (.dieReady d) s = .next t ∧ (t.die d).inReset = false ∧ (∀ f ∈ fnsOfDie d, (t.fn f).tdi = .unlocked ∧ (t.fn f).ide = none) ∧
      t.cores = s.cores ∧ t.tiles = s.tiles ∧ t.dram = s.dram) ∧
  (∀ f (s : State), s.boot.done = true → isComputeFn f = true → 16 ≤ f → (s.fn f).bound = false →
    ∃ t, exec (.functionLevelReset f) s = .next t ∧ (∀ q, (t.fn f).queue q = LaunchQueue.reset) ∧ t.cores = s.cores ∧ t.dram = s.dram) ∧
  (∀ f (s : State), s.boot.done = true → f < 8 → (s.die f).inReset = false → (s.fn f).locked = false →
    ∃ t, exec (.functionLevelReset f) s = .next t ∧ (t.die f).inReset = true ∧ (∀ k, isCompute k = true → k / 512 = f → t.core k = Core.reset) ∧
      ∀ q, (t.fn f).queue q = LaunchQueue.reset)

/-- Host registers, invalidations and BAR2. -/
def Obligations.InvalidationsAndHostAccesses : Prop :=
  Sys2Proof.Claims.InvalidationsComplete ∧ Sys2Proof.Claims.HostWindowAccesses

/-- The tenant table and the interface states. -/
def Obligations.TenantsAndInterfacesChange : Prop :=
  Sys2Proof.Claims.TenantEntriesAreGuarded ∧ Sys2Proof.Claims.InterfaceStatesChange


/-! Links to other packages and networks (14 R396 to R408). -/

namespace Sys2Proof.Claims

/-- What a message of acknowledgements from another package leaves at its arrival (11 R328): the words that the sender may count as taken. -/
def acksOf (m : Option Msg) : List Ack :=
  match m with
  | some m => [{ sender := msgTarget m, target := creditKey m.src.pkg (coreKey m.src.space m.src.core), words := Sys2Proof.Machine.wordCount m, job := endOfJob m,
                 token := 0, ltag := m.ltag }]
  | none => []

/-- A packet has left by a port of its package's mask that is up, as that port encodes it: the next in turn, or by each of them in the management class
(14 R396, R397, R400). -/
def hasLeft (s t : State) (p : ScalePacket) : Prop :=
  let up := s.upPorts p.peer
  (p.cls = 3 → t.egress = s.egress ++ up.map (fun port => .scale port (s.onPort port p))) ∧
    (p.cls ≠ 3 → up = [] → t.egress = s.egress) ∧
    (p.cls ≠ 3 → up ≠ [] → ∃ port ∈ up, t.egress = s.egress ++ [.scale port (s.onPort port p)] ∧ t.portTurn = (port + 1) % 18 ∧
      (∀ q ∈ up, s.portTurn ≤ q → s.portTurn ≤ port ∧ port ≤ q) ∧ ((∀ q ∈ up, q < s.portTurn) → ∀ q ∈ up, port ≤ q))

/-- No connection has packets that wait. -/
def noneWaits (s : State) : Prop := ∀ c ∈ s.conns, c.2.waiting = []

end Sys2Proof.Claims

/-- Scale-up connections: the next packet of a sequence is delivered and acknowledged, one further on is kept until the gap is filled and in the
relaxed class delivered at once, one of another epoch is discarded; an acknowledgement takes the packets below it; a packet that has waited
for 2 µs is sent again, and after 16 sends the connection fails (14 R397, R399). -/
def Sys2Proof.Claims.ScaleUpPacketsAreSequenced : Prop :=
  (∀ (p : ScalePacket) (s : State), s.linksUp = true → p.cls < 4 → p.epoch = (s.conn (connKey p.peer p.cls)).epoch →
    (s.conn (connKey p.peer p.cls)).stash = [] → (s.resident (s.connDie (connKey p.peer p.cls))).length < 2048 → p.mem = none → p.gang = none →
    (∀ m, p.msg = some m → m.kind = 7 ∧ m.dpkg = s.pkg ∧ ∀ g b, m.ev ≠ .collective g b) →
    let c := s.conn (connKey p.peer p.cls)
    (p.seq = c.expect → c.expect < 65536 → ∃ t, exec (.scaleupPacketReceive p) s = .next t ∧
      (t.conn (connKey p.peer p.cls)).expect = (c.expect + 1) % 65536 ∧
      t.egress = s.egress ++ [.scaleAck p.peer p.cls ((c.expect + 1) % 65536) []] ∧
      t.acks = s.acks ++ acksOf p.msg ∧ t.cores = s.cores ∧ t.dram = s.dram) ∧
    (0 < (p.seq + 65536 - c.expect % 65536) % 65536 → (p.seq + 65536 - c.expect % 65536) % 65536 < 256 →
      ∃ t, exec (.scaleupPacketReceive p) s = .next t ∧ (t.conn (connKey p.peer p.cls)).expect = c.expect ∧
        (t.conn (connKey p.peer p.cls)).stash = [p] ∧ t.acks = (if p.cls = 2 then s.acks ++ acksOf p.msg else s.acks) ∧ t.cores = s.cores ∧
        t.dram = s.dram)) ∧
  (∀ (p : ScalePacket) (s : State), p.epoch ≠ (s.conn (connKey p.peer p.cls)).epoch → exec (.scaleupPacketReceive p) s = .next s) ∧
  (∀ peer cls upTo (s : State), s.linksUp = true → cls < 4 → noneWaits s →
    ∃ t, exec (.scaleupAck peer cls upTo []) s = .next t ∧
      (t.conn (connKey peer cls)).unacked = (s.conn (connKey peer cls)).unacked.filter (fun x =>
        decide ((upTo + 65536 - x.packet.seq % 65536) % 65536 = 0) || decide (256 < (upTo + 65536 - x.packet.seq % 65536) % 65536)) ∧
      t.egress = s.egress ∧ t.cores = s.cores ∧ t.dram = s.dram) ∧
  (∀ peer cls seq (s : State) x, (s.conn (connKey peer cls)).unacked = [x] → x.packet.seq = seq → x.time + 2000 ≤ s.time →
    (x.count < 16 → noneWaits s → ∃ t, exec (.scaleupRetransmitTimeout peer cls seq) s = .next t ∧
      (t.conn (connKey peer cls)).unacked = [{ x with count := x.count + 1, time := s.time }] ∧ hasLeft s t x.packet ∧ t.cores = s.cores ∧
      t.dram = s.dram) ∧
    (16 ≤ x.count → ∃ t, exec (.scaleupRetransmitTimeout peer cls seq) s = .next t ∧ (t.conn (connKey peer cls)).failed = true ∧
      ((s.conn (connKey peer cls)).waiting = [] → x.packet.msg = none → (t.conn (connKey peer cls)).unacked = [])))

/-- Compression on the ports restores every byte and lets a payload grow by one byte for each block at most; an encoding that a link cannot read
is discarded (14 R400, R401). -/
def Sys2Proof.Claims.CompressionRestoresEveryByte : Prop :=
  (∀ b : List Byte, decodePayload b.length (encodePayload b) = some b ∧ (encodePayload b).length ≤ b.length + b.length / 256) ∧
  (∀ (s : State) port (p : ScalePacket), p.link = none → (∀ m, p.mem = some m → m.size = m.data.length) → offLink (s.onPort port p) = some p) ∧
  (∀ h w, h ≠ 0x00#8 → h ≠ 0x40#8 → h ≠ 0x80#8 → h ≠ 0x81#8 → decodeBlock (h :: w) = none) ∧
  (∀ (p : ScalePacket) (s : State), offLink p = none → exec (.scaleupPacketReceive p) s = .next s)

/-- Routes and ports: a package's port mask is written by Primrose, and 0 makes it unreachable; a port that is down sends nothing until it is up;
a restored connection starts in a new epoch (14 R396, R397, R399), and at number 0, which is the model's choice (log entry 25). -/
def Sys2Proof.Claims.RoutesAndPortsChange : Prop :=
  (∀ pkg mask (s : State), pkg < 1024 → 3 ≤ s.boot.stage → noneWaits s → (∀ cls, cls < 4 → (s.conn (connKey pkg cls)).unacked = []) →
    exec (.routeTableWrite pkg mask) s = .next { s with routes := kset s.routes pkg (mask % 2 ^ 18) }) ∧
  (∀ port (s : State), port < 18 → ∃ t, exec (.scaleupLinkDown port) s = .next t ∧ port ∈ t.portsDown ∧
    (∀ q, q ≠ port → (q ∈ t.portsDown ↔ q ∈ s.portsDown)) ∧ t.cores = s.cores ∧ t.conns = s.conns) ∧
  (∀ port (s : State), s.portsDown.Nodup → ∃ t, exec (.scaleupLinkUp port) s = .next t ∧ ¬ port ∈ t.portsDown ∧
    (∀ q, q ≠ port → (q ∈ t.portsDown ↔ q ∈ s.portsDown)) ∧ t.cores = s.cores ∧ t.conns = s.conns) ∧
  (∀ peer cls (s : State), s.linksUp = true → cls < 4 → peer < 1024 → (s.conn (connKey peer cls)).unacked = [] →
    noneWaits s →
    let c : Conn := { s.conn (connKey peer cls) with failed := false, epoch := (s.conn (connKey peer cls)).epoch + 1, nextSeq := 0, expect := 0, stash := [] }
    exec (.connectionRestore peer cls) s = .next { s with conns := kset s.conns (connKey peer cls) c })

namespace Sys2Proof.Claims

/-- A packet leaves by one of the two ports of its context's Sluice, by the path of its entropy value (14 R402). -/
def ueLeaves (s : State) (ctx endpoint : Nat) (p : UePacket) : Egress :=
  let ports := ((kget s.netCtxs ctx).map NetContext.portList).getD []
  let path := Config.entropy (if p.rod then uePairKey ctx endpoint else 2 ^ 64 + s.freeIx)
  .ue (ports.getD (path % ports.length) 0) path p

/-- The answer of a context to the endpoint that a packet came from. -/
def ueAnswerTo (s : State) (p : UePacket) (op off : Nat) (data : List Byte) : Egress :=
  ueLeaves s p.ctx p.peer { p with ctx := (((kget s.netCtxs p.ctx).bind (fun x => x.endpoints[p.peer]?)).map (·.ctx)).getD 0, op := op, off := off, data := data }

/-- A packet that its context takes: the interface of its tenant is not in ERROR, and the packet is of the pair as it was last reset (14 R407, R410). -/
def ueTakes (s : State) (p : UePacket) (x : NetContext) : Prop :=
  kget s.netCtxs p.ctx = some x ∧ s.ueShut x = false ∧ p.epoch = (s.uePair (uePairKey p.ctx p.peer)).peerEpoch

end Sys2Proof.Claims

/-- Ultra Ethernet packets: a duplicate changes no memory and is acknowledged; a WRITE whose key allows it is stored in its region and acknowledged,
one whose key does not is answered and changes no memory; a SEND without an entry is answered not ready; an allowed READ is answered with its bytes; the
answer of a refused access fails the sender's job with FAILED-XLATE; the data of a READ is counted as it arrives; a context whose interface is in ERROR takes
no packet (14 R402, R404 to R407, R410). The model's choices (log entry 24): a packet whose entry stands outside the package, or is held, is taken when it is
sent again; a refused or not-ready packet is not counted as received; the failure address of a refused access is its remote address; a pair that has been reset
tells it in its packets, which begin the numbers again; a packet that is not to be placed any more is counted without effect. -/
def Sys2Proof.Claims.UltraEthernetPackets : Prop :=
  (∀ (p : UePacket) (s : State) x, p.op < 2 → ueTakes s p x → (s.uePair (uePairKey p.ctx p.peer)).has p.psn = true →
    ∃ t bits, exec (.uePacketReceive p) s = .next t ∧
      t = { s with egress := s.egress ++ [.ueAck p.ctx p.peer p.epoch (s.uePair (uePairKey p.ctx p.peer)).cumul bits] }) ∧
  (∀ (p : UePacket) (s : State) x, p.op = 1 → p.rod = false → ueTakes s p x →
    (s.uePair (uePairKey p.ctx p.peer)).has p.psn = false → s.ueMsg p = none → s.tablesMissing x p = none → s.ueHeld x p = false →
    s.keyEntry x p true = none →
    ∃ t, exec (.uePacketReceive p) s = .next t ∧ t.egress = s.egress ++ [ueAnswerTo s p 3 0 []] ∧ t.dram = s.dram ∧ t.slices = s.slices ∧
      t.tiles = s.tiles ∧ t.uePairs = s.uePairs ∧ (∀ k, k ≠ ueTargetCore p.ctx → t.core k = s.core k)) ∧
  (∀ (p : UePacket) (s : State) x m q b v, p.op = 1 → p.rod = false → ueTakes s p x →
    (s.uePair (uePairKey p.ctx p.peer)).has p.psn = false → s.ueMsg p = none → s.tablesMissing x p = none → s.ueHeld x p = false →
    s.keyEntry x p true = some m →
    m.counter = 0#64 → p.len ≤ p.data.length → p.psn < 2 ^ 32 →
    s.runStores (ueTargetCore p.ctx) x.tenant [(m.base + BitVec.ofNat 64 p.off, p.data.take (m.size - p.off))] = (.ok [(q, b)], v) →
    q.policy < 3 → v.heldByHandler 0 (.global q.policy q.home q.pa) b.length = false → q.pa % 64 + b.length ≤ 64 → memWf v.dram = true →
    (∀ c, findLine (v.homeLines q.policy q.home) (q.pa / 64) = some c → c.data.length = 64) →
    (v.uePair (uePairKey p.ctx p.peer)).has p.psn = false → (v.uePair (uePairKey p.ctx p.peer)).seen = [] →
    ∃ t ack, exec (.uePacketReceive p) s = .next t ∧ storedAt v t q.policy q.home q.pa b.length (leValue b) ∧ t.egress = v.egress ++ [ack] ∧
      (t.uePair (uePairKey p.ctx p.peer)).has p.psn = true) ∧
  (∀ (p : UePacket) (s : State) x, p.op = 0 → p.rod = false → ueTakes s p x →
    (s.uePair (uePairKey p.ctx p.peer)).has p.psn = false → s.ueMsg p = none → s.tablesMissing x p = none → s.ueHeld x p = false →
    s.matchEntry x p = none →
    ∃ t, exec (.uePacketReceive p) s = .next t ∧ t.egress = s.egress ++ [ueAnswerTo s p 4 0 []] ∧ t.dram = s.dram ∧ t.slices = s.slices ∧
      t.tiles = s.tiles ∧ t.uePairs = s.uePairs) ∧
  (∀ (p : UePacket) (s : State) x, p.op < 2 → p.rod = false → ueTakes s p x → (s.uePair (uePairKey p.ctx p.peer)).has p.psn = false →
    (∀ q, s.tablesMissing x p = some q → exec (.uePacketReceive p) s = .next (s.requestBytes (ueTargetCore p.ctx) x.tenant q 8)) ∧
    (s.tablesMissing x p = none → s.ueHeld x p = true → exec (.uePacketReceive p) s = .next s)) ∧
  (∀ (p : UePacket) (s : State) x, p.op < 2 ∨ p.op = 5 → kget s.netCtxs p.ctx = some x →
    (s.ueShut x = true → p.epoch ≤ (s.uePair (uePairKey p.ctx p.peer)).peerEpoch → exec (.uePacketReceive p) s = .next s) ∧
    (p.epoch < (s.uePair (uePairKey p.ctx p.peer)).peerEpoch → exec (.uePacketReceive p) s = .next s)) ∧
  (∀ (p : UePacket) (s : State) x, p.op = 5 → kget s.netCtxs p.ctx = some x → s.ueShut x = false →
    (s.uePair (uePairKey p.ctx p.peer)).peerEpoch < p.epoch →
    ∃ t ack, exec (.uePacketReceive p) s = .next t ∧ (t.uePair (uePairKey p.ctx p.peer)).peerEpoch = p.epoch ∧
      (t.uePair (uePairKey p.ctx p.peer)).has p.psn = true ∧ t.egress = s.egress ++ [ack] ∧ t.dram = s.dram ∧ t.cores = s.cores) ∧
  (∀ (p : UePacket) (s : State) x id j, p.op = 3 → kget s.netCtxs p.ctx = some x → s.ueJobs = [(id, j)] → j.cmd.ctx = p.ctx →
    j.cmd.endpoint = p.peer → p.psn ∈ j.psns → j.status = none → p.epoch = (s.uePair (uePairKey p.ctx p.peer)).epoch →
    ∃ t j', exec (.uePacketReceive p) s = .next t ∧ kget t.ueJobs id = some j' ∧ j'.status = some 3 ∧ j'.failAddr = j.cmd.remote ∧ t.dram = s.dram ∧
      t.cores = s.cores) ∧
  (∀ (p : UePacket) (s : State) x m b v, ueTakes s p x → p.rod = false → p.len ≤ 4096 →
    s.tablesMissing x p = none → s.keyEntry x p false = some m →
    s.engineReadV (ueTargetCore p.ctx) x.tenant m.base p.len = .ok b v → kget v.netCtxs p.ctx = some x → b.length = p.len →
    ∃ t ack, exec (.ueReadRequest p) s = .next t ∧ t.egress = v.egress ++ [ack, ueAnswerTo v p 2 0 b] ∧ t.dram = v.dram) ∧
  (∀ (p : UePacket) (s : State) x, ueTakes s p x → p.rod = false → s.tablesMissing x p = none → s.ueHeld x p = false → s.keyEntry x p false = none →
    ∃ t, exec (.ueReadRequest p) s = .next t ∧ t.egress = s.egress ++ [ueAnswerTo s p 3 0 []] ∧ t.dram = s.dram ∧ t.uePairs = s.uePairs) ∧
  (∀ (p : UePacket) (s : State) id j l v, s.ueJobs = [(id, j)] → j.cmd.ctx = p.ctx → j.cmd.endpoint = p.peer → j.cmd.op = 2 → p.psn ∈ j.psns →
    j.status = none → p.epoch = (s.uePair (uePairKey p.ctx p.peer)).epoch →
    s.runStores (ueCore id) j.tenant [(j.cmd.src + BitVec.ofNat 64 p.off, p.data)] = (.ok l, v) → v.ueJobs = s.ueJobs →
    ∃ t j', exec (.ueReadResponse p) s = .next t ∧ kget t.ueJobs id = some j' ∧ p.off ∈ j'.arrived ∧ (∀ o ∈ j.arrived, o ∈ j'.arrived) ∧
      j'.status = none ∧ j'.psns = j.psns)

/-- The sender's side: an acknowledgement takes the packets that it shows as received, those of READs excepted, and one of a pair that has been reset since is
discarded; packets that wait for the congestion control leave as far as it lets them, one at least when nothing is under way; a packet without
acknowledgement after the timeout is sent again, 32 times at most, and then its job fails with FAILED-TIMEOUT and the pair is reset; a job whose packets have
all been acknowledged ends COMPLETED, a failed one with its status. A network context is written while its tenant's interface is unlocked (14 R402, R403, R407,
R408). That acknowledgements and packets name the resets of their pair is the model's choice (log entry 24). -/
def Sys2Proof.Claims.UltraEthernetSenders : Prop :=
  (∀ ctx ep epoch cumulative bitmap (s : State), epoch ≠ (s.uePair (uePairKey ctx ep)).epoch →
    exec (.ueAck ctx ep ⟨epoch, cumulative⟩ bitmap) s = .next s) ∧
  (∀ ctx ep cumulative (s : State),
    let x := s.uePair (uePairKey ctx ep)
    let left := x.pending.filter (fun p => p.1.op == 2 || !psnBefore p.1.psn cumulative)
    ∃ t, exec (.ueAck ctx ep ⟨x.epoch, cumulative⟩ 0#64) s = .next t ∧ t.cores = s.cores ∧ t.dram = s.dram ∧
      (t.uePair (uePairKey ctx ep)).pending.map (·.1) = left.map (·.1) ∧
      ((∀ p ∈ left, p.2.1 ≠ 0) → t.egress = s.egress ∧ (t.uePair (uePairKey ctx ep)).pending = left) ∧
      (∀ p, left.head? = some p → (∀ q ∈ left, q.2.1 = 0) →
        (p.1, 1, s.time) ∈ (t.uePair (uePairKey ctx ep)).pending ∧ s.egress.length < t.egress.length)) ∧
  (∀ ctx ep psn (s : State) p n time, (s.uePair (uePairKey ctx ep)).pending = [(p, n, time)] → p.psn = psn → time + s.policy.ueTimeout ≤ s.time →
    n ≠ 0 →
    (n < 32 → ∃ t, exec (.ueRetransmitTimeout ctx ep psn) s = .next t ∧ t.egress = s.egress ++ [ueLeaves s ctx ep p] ∧
      (t.uePair (uePairKey ctx ep)).pending = [(p, n + 1, s.time)] ∧ t.cores = s.cores ∧ t.dram = s.dram) ∧
    (32 ≤ n → ∃ t, exec (.ueRetransmitTimeout ctx ep psn) s = .next t ∧ (t.uePair (uePairKey ctx ep)).pending = [] ∧
      (t.uePair (uePairKey ctx ep)).nextPsn = 0 ∧ (t.uePair (uePairKey ctx ep)).epoch = (s.uePair (uePairKey ctx ep)).epoch + 1 ∧ t.cores = s.cores ∧
      t.dram = s.dram ∧
      ∀ id j, s.ueJobs = [(id, j)] → j.cmd.ctx = ctx → j.cmd.endpoint = ep → j.sentAll = true → j.status = none → psn ∈ j.psns →
        ∃ j', kget t.ueJobs id = some j' ∧ j'.status = some 7)) ∧
  (∀ id (s : State) j, kget s.ueJobs id = some j → s.parked j.ltag = false → j.sentAll = true → s.ueOrderedBefore id j = false →
    s.storesOpen id = false → (s.frameOf j.core j.task).isSome = true → j.core ≠ cqCore j.ltag →
    (j.status = none → j.succ = none → (∀ p ∈ (s.uePair (uePairKey j.cmd.ctx j.cmd.endpoint)).pending, ¬ p.1.psn ∈ j.psns) →
      ∃ t, exec (.ueJobCompletion id) s = .next t ∧ kget t.ueJobs id = none ∧ jobEnded s t j.core j.level j.task j.ident 3 1 ∧
        (j.cmd.count = false → t.dram = s.dram ∧ t.tiles = s.tiles)) ∧
    (∀ st, j.status = some st → 2 < st →
      ∃ t, exec (.ueJobCompletion id) s = .next t ∧ kget t.ueJobs id = none ∧
        ∃ y ∈ (t.core j.core).statuses, y.level = j.level ∧ y.engine = 3 ∧ y.job = j.ident ∧ y.status = st)) ∧
  (∀ n (x : NetContext) (s : State), n < 256 → s.tenantOpen x.tenant = true → (∀ y, kget s.netCtxs n = some y → s.tenantOpen y.tenant = true) →
    exec (.networkContextWrite n (some x)) s = .next { s with netCtxs := kset s.netCtxs n x }) ∧
  (∀ n (x : NetContext) (s : State), s.tenantOpen x.tenant = false →
    exec (.networkContextWrite n (some x)) s = .next { s with egress := s.egress ++ [.report 7 (BitVec.ofNat 64 n)] })

/-- The scale-up links. -/
def Obligations.ScaleUpConnections : Prop :=
  Sys2Proof.Claims.ScaleUpPacketsAreSequenced ∧ Sys2Proof.Claims.CompressionRestoresEveryByte ∧ Sys2Proof.Claims.RoutesAndPortsChange

/-- Ultra Ethernet at both ends. -/
def Obligations.UltraEthernetMoves : Prop :=
  Sys2Proof.Claims.UltraEthernetPackets ∧ Sys2Proof.Claims.UltraEthernetSenders


/-! Gangs and halted contexts (13 R364 to R373; 15 R422). -/

namespace Sys2Proof.Claims

/-- A context that is switched with its gang (13 R350: gang = 1). -/
def inGang (s : State) (tag : Nat) : Bool := ((s.ctx tag).map (fun c => c.recBits 0 18 18 == 1)).getD false

/-- The switch of a gang that Primrose has planned: what is held of an earlier time is forgotten, only contexts with gang = 1 take part, those
whose leats are full may come in as well, and failures to place another gang no longer count (13 R366, R367, R372; 11 R327). -/
def plannedSwitch (s t : State) (gang time : Nat) (incoming outgoing pkgs : List Nat) : Prop :=
  let g := t.gang gang
  g.planned = some time ∧ g.pkgs = pkgs ∧ g.outgoing = outgoing.filter (inGang s) ∧ g.stopped = false ∧
    g.ready = (s.gang gang).ready.filter (fun r => decide (time ≤ r.2)) ∧ g.go = (s.gang gang).go.filter (fun x => x == time) ∧
    g.placeFailures = (if (s.gang gang).incoming = g.incoming then (s.gang gang).placeFailures else 0) ∧
    (∀ x ∈ g.incoming, x ∈ incoming.filter (inGang s) ∨ ∃ c, (x, c) ∈ s.ctxs ∧ c.urgent = true) ∧
    ((∀ c ∈ s.ctxs, c.2.urgent = false) → ∀ x, incoming = [x] → inGang s x = true → g.incoming = [x]) ∧
    (∀ k, k ≠ gang → t.gang k = s.gang k) ∧ t.egress = s.egress ∧ t.conns = s.conns ∧ t.ctxs = s.ctxs ∧ t.cores = s.cores ∧ t.dram = s.dram

/-- Nothing of a stopped launch is under way in its engines and homes (13 R368 step 2). -/
def atRest (s : State) (tag : Nat) (c : Context) : Prop := s.quieted tag c = true

end Sys2Proof.Claims

/-- The agreement of 13 R367: a package that is ready by T − 10 µs sends READY to the lowest-numbered package of its gang, or holds it there; the
coordinator keeps a READY whenever it comes and sends GO to the other packages when it holds every one, by T − 5 µs; a GO counts by T − 1 µs. -/
def Sys2Proof.Claims.GangsAgree : Prop :=
  (∀ gang time incoming outgoing pkgs (s : State), (s.gang gang).stopped = false → s.boot.done = true →
    ∃ t, exec (.gangSwitchPreparation ⟨gang, time⟩ incoming outgoing pkgs false) s = .next t ∧ plannedSwitch s t gang time incoming outgoing pkgs ∧
      (time < s.time + 10000 → exec (.gangSwitchPreparation ⟨gang, time⟩ incoming outgoing pkgs true) s = .next t) ∧
      (s.time + 10000 ≤ time → pkgs.foldl min 1024 ≠ s.pkg →
        exec (.gangSwitchPreparation ⟨gang, time⟩ incoming outgoing pkgs true) s =
          .next (t.sendGang (pkgs.foldl min 1024) { ready := true, gang := gang, time := time })) ∧
      (s.time + 10000 ≤ time → pkgs.foldl min 1024 = s.pkg →
        exec (.gangSwitchPreparation ⟨gang, time⟩ incoming outgoing pkgs true) s = exec (.gangReady s.pkg ⟨gang, time⟩) t)) ∧
  (∀ gang p time (s : State), ¬ (p, time) ∈ (s.gang gang).ready →
    let g := s.gang gang
    (g.pkgs.foldl min 1024 = s.pkg → g.planned = some time → ¬ time ∈ g.go → (∀ q ∈ g.pkgs, q = p ∨ (q, time) ∈ g.ready) → s.time + 5000 ≤ time →
      ∃ t, t.gang gang = { g with ready := g.ready ++ [(p, time)], go := g.go ++ [time] } ∧ (∀ k, k ≠ gang → t.gang k = s.gang k) ∧
        t.egress = s.egress ∧ t.conns = s.conns ∧ t.cores = s.cores ∧
        exec (.gangReady p ⟨gang, time⟩) s = .next ((g.pkgs.filter (fun q => q != s.pkg)).foldl (fun u q =>
          u.sendGang q { ready := false, gang := gang, time := time }) t)) ∧
    ((g.planned ≠ some time ∨ ∃ q ∈ g.pkgs, q ≠ p ∧ ¬ (q, time) ∈ g.ready) →
      exec (.gangReady p ⟨gang, time⟩) s = .next { s with gangs := kset s.gangs gang { g with ready := g.ready ++ [(p, time)] } })) ∧
  (∀ gang time (s : State), (s.gang gang).planned = some time → ¬ time ∈ (s.gang gang).go →
    (s.time + 1000 ≤ time → exec (.gangGo ⟨gang, time⟩) s = .next
      { s with gangs := kset s.gangs gang { s.gang gang with go := (s.gang gang).go ++ [time] } }) ∧
    (time < s.time + 1000 → exec (.gangGo ⟨gang, time⟩) s = .next s))

/-- The switch at T (13 R368, R372), with GO when the gang has other packages: the outgoing launches stop at once and their contexts are saved,
their tiles and units free, once they are at rest; without GO the old gang goes on, the switch is tried again a quantum later and the failure
counted (15 R422); a gang that finds no place is tried again as well, and its region reserved after enough quanta. -/
def Sys2Proof.Claims.GangsSwitch : Prop :=
  (∀ gang time (s : State) tag c, (s.gang gang).planned = some time → time ≤ s.time → (s.gang gang).stopped = false →
    (time ∈ (s.gang gang).go ∨ ∀ p ∈ (s.gang gang).pkgs, p = s.pkg) → (s.gang gang).incoming = [] → (s.gang gang).outgoing = [tag] →
    (s.gang gang).reservedFor = [] → s.ctx tag = some c → c.state = .running → c.saved = none → s.flits = [] →
    (atRest s tag c → ∃ t c' v, exec (.gangSwitch ⟨gang, time⟩) s = .next t ∧ t.ctx tag = some c' ∧ c'.state = .out ∧ c'.saved = some v ∧
      (∀ k ∈ c.foot, kget v.cores k = some (s.core k) ∧ t.core k = Core.reset) ∧
      (∀ k, isCompute k = true → ¬ k ∈ c.foot → t.core k = s.core k) ∧
      (∀ x ∈ c.tiles, (s.tile x).launch = tag → kget v.tiles x = some (s.tile x) ∧ (t.tile x).launch = 0) ∧
      (∀ d, (∀ g ∈ (t.die d).ready, g.ev.ltag ≠ tag) ∧ (∀ r ∈ (t.die d).ranges, r.ltag ≠ tag) ∧ (∀ b ∈ (t.die d).barriers, b.2.ltag ≠ tag)) ∧
      (t.gang gang).planned = none ∧ (t.gang gang).stopped = false ∧ (t.gang gang).failures = 0 ∧ (t.gang gang).placeFailures = 0 ∧
      (∀ k, k ≠ gang → t.gang k = s.gang k) ∧ t.dram = s.dram) ∧
    (¬ atRest s tag c → ∃ t c', exec (.gangSwitch ⟨gang, time⟩) s = .next t ∧ t.ctx tag = some c' ∧ c'.state = .out ∧ c'.saved = none ∧ c'.foot = c.foot ∧
      (t.gang gang).stopped = true ∧ (t.gang gang).planned = some time ∧ t.cores = s.cores ∧ t.tiles = s.tiles ∧ t.dram = s.dram)) ∧
  (∀ gang time (s : State), (s.gang gang).planned = some time → time ≤ s.time → (s.gang gang).stopped = false →
    (¬ time ∈ (s.gang gang).go → (∃ p ∈ (s.gang gang).pkgs, p ≠ s.pkg) →
      ∃ t, exec (.gangSwitch ⟨gang, time⟩) s = .next t ∧ (t.gang gang).planned = some (time + s.policy.gangQuantum) ∧
        (t.gang gang).failures = (s.gang gang).failures + 1 ∧ (t.gang gang).placeFailures = 0 ∧ (t.gang gang).ready = (s.gang gang).ready.filter (fun r => decide (time < r.2)) ∧ (t.gang gang).go = [] ∧
        (∀ k, k ≠ gang → t.gang k = s.gang k) ∧ t.cores = s.cores ∧ t.ctxs = s.ctxs ∧ t.dram = s.dram ∧
        ((s.gang gang).failures + 1 = 8 → t.egress = s.egress ++ [.report 11 (BitVec.ofNat 64 time), .report 14 (BitVec.ofNat 64 time)]) ∧
        ((s.gang gang).failures + 1 ≠ 8 → t.egress = s.egress ++ [.report 11 (BitVec.ofNat 64 time)])) ∧
    (time ∈ (s.gang gang).go → s.placeableGang (s.gang gang) = false →
      ∃ t, exec (.gangSwitch ⟨gang, time⟩) s = .next t ∧ (t.gang gang).planned = some (time + s.policy.gangQuantum) ∧
        (t.gang gang).placeFailures = (s.gang gang).placeFailures + 1 ∧ (t.gang gang).failures = 0 ∧ t.cores = s.cores ∧ t.ctxs = s.ctxs ∧
        t.dram = s.dram ∧
        ((s.gang gang).placeFailures + 1 < s.policy.reserveAfter →
          t.tiles = s.tiles ∧ (t.gang gang).reservedFor = (s.gang gang).reservedFor) ∧
        (s.policy.reserveAfter ≤ (s.gang gang).placeFailures + 1 → (t.gang gang).reservedFor = (s.gang gang).incoming ∧
          ∀ tag ∈ (s.gang gang).incoming, ∀ c, s.ctx tag = some c → ∀ x ∈ c.tiles, (t.tile x).reserved = true)))

/-- A halted context is TRAPPED at once and saved when it is at rest; when its tiles and units are free it is put back and runs, each of its
cores with the frames, inbox and channels that it had, its operand latches empty (13 R364, R370; 01 R30). The model's choices (log entry 32): the compute cores
of a context that has been saved hold what reset leaves, and what it had on a core that other launches share goes above what stands there. -/
def Sys2Proof.Claims.HaltedContextsAreSavedAndGoOn : Prop :=
  (∀ tag (s : State) c, s.ctx tag = some c → c.state = .running → c.saved = none → s.flits = [] →
    (atRest s tag c → ∃ t c' v, exec (.contextHalt tag) s = .next t ∧ t.ctx tag = some c' ∧ c'.state = .trapped ∧ c'.saved = some v ∧
      (∀ k ∈ c.foot, kget v.cores k = some (s.core k) ∧ t.core k = Core.reset) ∧
      (∀ k, isCompute k = true → ¬ k ∈ c.foot → t.core k = s.core k) ∧ t.dram = s.dram) ∧
    (¬ atRest s tag c → ∃ t c', exec (.contextHalt tag) s = .next t ∧ t.ctx tag = some c' ∧ c'.state = .trapped ∧ c'.saved = none ∧
      t.cores = s.cores ∧ t.tiles = s.tiles ∧ t.dram = s.dram)) ∧
  (∀ tag (s : State) c v, s.ctx tag = some c → c.state = .trapped → c.saved = some v → c.leat = [] → v.tiles = [] → s.restorable v = true →
    (∀ k x f, v.cores = [(k, x)] → isCompute k = false → x.frames = [f] →
      ∃ t c' f', exec (.haltedContextResume tag) s = .next t ∧ t.ctx tag = some c' ∧ c'.state = .running ∧ c'.saved = none ∧
        (t.core k).frames.head? = some f' ∧ (t.core k).frames.length = (s.core k).frames.length + 1 ∧
        f' = { f with fsb := f'.fsb, spilledX := 0, slots := [] }) ∧
    ((∀ x ∈ v.cores, isCompute x.1 = true) →
    ∃ t c', exec (.haltedContextResume tag) s = .next t ∧ t.ctx tag = some c' ∧ c'.state = .running ∧ c'.saved = none ∧ c'.foot = c.foot ∧
      (∀ k x, v.cores = [(k, x)] → (t.core k).frames = x.frames ∧ (t.core k).inbox = x.inbox ∧ (t.core k).chans = x.chans ∧
        (t.core k).timers = x.timers ∧ (t.core k).latchA = none ∧ (t.core k).latchB = none ∧ (t.core k).latchC = none) ∧
      (∀ k, (∀ x ∈ v.cores, x.1 ≠ k) → t.core k = s.core k) ∧ t.dram = s.dram)) ∧
  (∀ tile (s : State) c, s.ctx (s.tile tile).launch = some c → (s.tile tile).reserved = true → c.recBits 0 19 19 = 1 → c.state = .running →
    (∀ g ∈ s.gangs, ¬ (s.tile tile).launch ∈ g.2.reservedFor) → s.tileBare c tile = true →
    ∃ t c', exec (.tileWithdrawal tile) s = .next t ∧ t.ctx (s.tile tile).launch = some c' ∧ c'.foot = c.foot.filter (fun k => k / 8 != tile) ∧
      (t.tile tile).launch = 0 ∧ (t.tile tile).reserved = true ∧ (∀ i, i ≠ tile → t.tile i = s.tile i) ∧ t.cores = s.cores ∧ t.dram = s.dram)

/-! Boot, identity, power, registers, soft errors, policies (15 R423 to R425; 16 R427 to R437). -/

namespace Sys2Proof.Claims

/-- The machine after a boot with an image: stage 5, the security version and, where the image asks for it, the fused minimum raised, four
digests measured, every SRAM clear (16 R427, R428, R431). -/
def bootedWith (s t : State) (i : BootImage) : Prop :=
  t.boot.stage = 5 ∧ t.boot.done = true ∧ t.boot.err = 0 ∧ t.boot.secver = i.secver.toNat ∧ t.boot.image = i.body ∧
    t.boot.fused = (if i.raise then max s.boot.fused i.secver.toNat else s.boot.fused) ∧
    t.boot.measured = [Config.romHash, sha256 (headerOf i ++ i.body), sha256 (leBytes i.secver.toNat 4 ++ leBytes t.boot.fused 4),
      sha256 (s.boot.fuses t.boot.fused)] ∧
    t.cores = [] ∧ t.tiles = [] ∧ t.slices = [] ∧ t.routers = [] ∧ (∀ d, (t.die d).ready = [] ∧ (t.die d).ranges = [] ∧ (t.die d).barriers = []) ∧
    t.dram = s.dram ∧ t.ctxs = s.ctxs

end Sys2Proof.Claims

/-- The boot (16 R427 to R429): with power good the image of slot A is accepted if it passes the checks of R428, that of slot B if only it does;
with neither, the code of slot A's failure stands in BOOTST, the host writes an image into the recovery window of function 8, and 1 written to RECGO has it
checked and taken. Failed training stops the boot in stage 3 with its code. The bytes that the third and fourth digest cover are the model's choice (log
entry 29). -/
def Sys2Proof.Claims.BootFollowsItsSteps : Prop :=
  (∀ a b (s : State) i, s.boot.stage = 0 → a = some i → imageError s.boot.fused a = 0 →
    (∃ t, exec (.powerGood a b true true) s = .next t ∧ bootedWith s t i) ∧
    (∃ t, exec (.powerGood a b false true) s = .next t ∧ t.boot.stage = 3 ∧ t.boot.err = 5 ∧ t.boot.done = s.boot.done) ∧
    (∃ t, exec (.powerGood a b true false) s = .next t ∧ t.boot.stage = 3 ∧ t.boot.err = 6 ∧ t.boot.done = s.boot.done)) ∧
  (∀ a b (s : State) i, s.boot.stage = 0 → imageError s.boot.fused a ≠ 0 → b = some i → imageError s.boot.fused b = 0 →
    ∃ t, exec (.powerGood a b true true) s = .next t ∧ bootedWith s t i) ∧
  (∀ a b d l (s : State), s.boot.stage = 0 → imageError s.boot.fused a ≠ 0 → imageError s.boot.fused b ≠ 0 →
    ∃ t, exec (.powerGood a b d l) s = .next t ∧ t.boot.stage = 1 ∧ t.boot.err = imageError s.boot.fused a ∧ t.boot.done = s.boot.done ∧ t.cores = s.cores) ∧
  (∀ (v : Word) (s : State), s.boot.stage = 1 → s.boot.err ≠ 0 →
    (∀ i, imageIn s.boot.window = some i → imageError s.boot.fused (some i) = 0 → v.getLsbD 0 = true → s.boot.dramOk = true → s.boot.linkOk = true →
      ∃ t, exec (.recgo v none) s = .next t ∧ bootedWith s t i) ∧
    ((∀ i, imageIn s.boot.window = some i → imageError s.boot.fused (some i) ≠ 0) → exec (.recgo v none) s = .next s) ∧
    (v.getLsbD 0 = false → exec (.recgo v none) s = .next s) ∧
    (∀ via, exec (.registerWrite ⟨8, via⟩ 0x0028 v) s = exec (.recgo v none) s) ∧
    (∀ off data via, off + data.length ≤ 2 ^ 25 →
      exec (.hostBar2Write ⟨8, via⟩ off data) s = .next { s with boot := { s.boot with window := memSetBytes s.boot.window off data } }) ∧
    (∀ off len via, exec (.hostBar2Read ⟨8, via⟩ off len) s = .next { s with egress := s.egress ++ [.hostReply (memGetBytes s.boot.window off len)] }) ∧
    (∀ i, (imageBytes i).length ≤ 2 ^ 25 → exec (.recgo v (some i)) s =
      exec (.recgo v none) { s with boot := { s.boot with window := memSetBytes s.boot.window 0 (imageBytes i) } })) ∧
  (∀ p (s : State), ∃ t, exec (.powerLoss p) s = .next t ∧ t.boot.stage = 0 ∧ t.boot.done = false ∧ t.boot.fused = s.boot.fused ∧
    t.boot.spares = s.boot.spares ∧ t.boot.rowRepair = s.boot.rowRepair ∧ t.boot.leaf = (if p then min (s.boot.leaf + 1) (2 ^ 20) else s.boot.leaf) ∧
    t.cores = [] ∧ t.tiles = [] ∧ t.ctxs = [] ∧ t.tenants = [] ∧ t.ops = [] ∧ t.pkg = s.pkg)

/-- Identity (16 R430, R431): a CHALLENGE, a KEY_EXCHANGE and a signed request for measurements each consume a leaf of the identity tree and are
answered with a signature; at the rate of the policy they answer Busy, and with every leaf spent UnspecifiedError; an unsigned request and
the certificate chain, which carries the identity key, consume none. A key exchange sets up a session of SPDM 1.3 with its secret. The bytes of digests and
signatures that the spec does not fix are the model's choice (log entries 3 and 29). -/
def Sys2Proof.Claims.IdentityLeavesAreConsumed : Prop :=
  (∀ fn (s : State), s.spdmUp fn = true → s.boot.spent = false → s.boot.leaf < 2 ^ 20 →
    (s.boot.signs.filter (fun t => decide (s.time < t + 3600000000000))).length < s.policy.signRate →
    (∃ t, exec (.challenge fn) s = .next t ∧ t.boot.leaf = s.boot.leaf + 1 ∧
      t.egress = s.egress ++ [.signature (leafSignature s.boot.leaf (s.digests fn))] ∧ t.cores = s.cores) ∧
    (∃ t, exec (.getMeasurements fn true) s = .next t ∧ t.boot.leaf = s.boot.leaf + 1 ∧ t.egress =
      s.egress ++ [.signature (leafSignature s.boot.leaf (s.digests fn)), .hostReply (s.digests fn)] ∧ t.cores = s.cores) ∧
    (∃ t, exec (.keyExchange fn) s = .next t ∧ t.boot.leaf = s.boot.leaf + 1 ∧
      kget t.boot.session fn = some { params := spdmParams, leaf := s.boot.leaf, secret := Config.exchangeSecret s.freeIx } ∧
      t.egress = s.egress ++ [.signature (leafSignature s.boot.leaf (s.digests fn)),
        .hostReply (beBytes (Config.exchangePoint s.freeIx).toNat 96 ++ beBytes (Config.exchangeMac s.freeIx).toNat 32)] ∧ t.cores = s.cores)) ∧
  (∀ fn (s : State), s.spdmUp fn = true → (s.boot.spent = true ∨ 2 ^ 20 ≤ s.boot.leaf) →
    exec (.challenge fn) s = .next { s with egress := s.egress ++ [.report 16 (BitVec.ofNat 64 fn)] }) ∧
  (∀ fn (s : State), s.spdmUp fn = true → s.boot.spent = false → s.boot.leaf < 2 ^ 20 →
    s.policy.signRate ≤ (s.boot.signs.filter (fun t => decide (s.time < t + 3600000000000))).length →
    exec (.challenge fn) s = .next { s with egress := s.egress ++ [.report 15 (BitVec.ofNat 64 fn)] }) ∧
  (∀ fn (s : State), s.spdmUp fn = true →
    exec (.getMeasurements fn false) s = .next { s with egress := s.egress ++ [.hostReply (s.digests fn)] } ∧
    exec (.getCertificate fn) s = .next
      { s with egress := s.egress ++ [.spdm spdmParams, .hostReply (Config.certHead ++ identityKey ++ Config.certTail)] })

/-- Power and temperature (16 R432, R433): every period the frequency step moves by one towards the cap, unless a Bedstone or Sluice die is hot;
a compute die is gated by one more level at TLIM and by one less below TLIM − 3 °C; a sample of 105 °C on a Bedstone or Sluice die
brings the step to 18, until that die has cooled below 100 °C. The caps that the host writes are clamped (R435), a read of a counter clears it (R436). -/
def Sys2Proof.Claims.PowerAndManagementRegisters : Prop :=
  (∀ watts (s : State), s.boot.done = true → (∀ d, d < 8 → (s.die d).temp < 110) →
    ∃ t, exec (.powerControlPeriod watts) s = .next t ∧ t.boot.fstep = (if s.boot.hot ≠ [] then 18
        else if s.boot.pcap < watts then min (s.boot.fstep + 1) 18 else if watts + 50 < s.boot.pcap then s.boot.fstep - 1 else s.boot.fstep) ∧
      (∀ d, d < 8 → (t.die d).gate = (if s.boot.tlim ≤ (s.die d).temp then min ((s.die d).gate + 1) 8
        else if (s.die d).temp + 3 < s.boot.tlim then (s.die d).gate - 1 else (s.die d).gate)) ∧ t.cores = s.cores ∧ t.dram = s.dram) ∧
  (∀ compute bedstone sluice (s : State), s.boot.done = true → compute.length = 8 → bedstone.length = 12 → sluice.length = 2 →
    (∀ x ∈ compute, x < 110) →
    ∃ t, exec (.temperatureSample compute bedstone sluice) s = .next t ∧ (∀ d, d < 8 → (t.die d).temp = compute.getD d 0) ∧
      (∀ i, i ∈ t.boot.hot ↔ i < 14 ∧ (105 ≤ (bedstone ++ sluice).getD i 0 ∨ i ∈ s.boot.hot ∧ 100 ≤ (bedstone ++ sluice).getD i 0)) ∧
      t.boot.fstep = (if t.boot.hot = [] then s.boot.fstep else 18) ∧ t.cores = s.cores ∧ t.dram = s.dram) ∧
  (∀ (v : Word) (s : State), s.mgmtUp = true →
    exec (.pcapWrite v) s = .next { s with boot := { s.boot with pcap := min (max (field v 11 0) 1200) 2400 } } ∧
    exec (.tlimWrite v) s = .next { s with boot := { s.boot with tlim := min (max (field v 7 0) 70) 100 } } ∧
    ∀ via, ∀ off ∈ [0x0400, 0x0408, 0x0410, 0x0418, 0x0420, 0x0428], ∃ t, exec (.counterRead ⟨8, off, via⟩) s = .next t ∧ kget t.boot.counters off = none ∧
      t.egress = s.egress ++ [.hostReply (leBytes (BitVec.ofNat 64 (kgetD s.boot.counters off 0)).toNat 8)] ∧ t.cores = s.cores ∧ t.dram = s.dram)

/-- Soft errors, repair, policies (15 R423 to R425): a correctable error is counted, for the row of DRAM as well, an uncorrectable one in a line of DRAM makes
the line bad and one in a line of a slice drops the line; a reset of a Bedstone die empties its slice and, by the model's choice (log entry 20), takes what its
keeper cores run. A policy takes its value or the nearest end of its range. -/
def Sys2Proof.Claims.ErrorsRepairsAndPolicies : Prop :=
  (∀ line (s : State), 4 ≤ s.boot.stage → findLine (kgetD s.slices (sliceOf (64 * line)) []) line = none →
    (∃ t, exec (.patrolScrub line (some .correctable)) s = .next t ∧
      kgetD t.boot.counters 0x0408 0 = min (kgetD s.boot.counters 0x0408 0 + 1) (2 ^ 64 - 1) ∧ kgetD t.boot.rowErrors (line / 64) [] = (kgetD s.boot.rowErrors (line / 64) []).filter (fun x => decide (s.time < x + 86400000000000)) ++ [s.time] ∧
      t.dram = s.dram ∧ t.badLines = s.badLines ∧ t.cores = s.cores) ∧
    (∃ t, exec (.patrolScrub line (some .uncorrectable)) s = .next t ∧ line ∈ t.badLines ∧ (∀ l, l ≠ line → (l ∈ t.badLines ↔ l ∈ s.badLines)) ∧
      t.dram = s.dram ∧ t.cores = s.cores) ∧
    exec (.patrolScrub line none) s = .next s) ∧
  (∀ line (s : State) c, 4 ≤ s.boot.stage → findLine (kgetD s.slices (sliceOf (64 * line)) []) line = some c →
    ∃ t, exec (.patrolScrub line (some .uncorrectable)) s = .next t ∧ findLine (kgetD t.slices (sliceOf (64 * line)) []) line = none ∧
      t.badLines = s.badLines ∧ (c.dirty = false → t.dram = s.dram ∧ t.cores = s.cores)) ∧
  (∀ d (s : State), d < 12 → 4 ≤ s.boot.stage →
    ∃ t, exec (.bedstoneDieReset d) s = .next t ∧ kget t.slices d = none ∧ (∀ k, keySpace k = 1 → keyId k / 16 = d → t.core k = Core.reset)) ∧
  (∀ v (s : State), 3 ≤ s.boot.stage →
    exec (.policySetting .stealRecords v) s = .next { s with policy := { s.policy with stealRecords := min v 16 } } ∧
    exec (.policySetting .stealInterval v) s = .next { s with policy := { s.policy with stealInterval := min (max v 100) 1000000 } } ∧
    exec (.policySetting .gangQuantum v) s = .next { s with policy := { s.policy with gangQuantum := min (max v 1000000) 1000000000 } } ∧
    exec (.policySetting .reservationAfter v) s = .next { s with policy := { s.policy with reserveAfter := min (max v 1) 64 } } ∧
    exec (.policySetting .collectiveLimit v) s = .next { s with policy := { s.policy with collLimit := min (max v (2 ^ 20)) (2 ^ 32) } } ∧
    exec (.policySetting .signRate v) s = .next { s with policy := { s.policy with signRate := min (max v 1) 3600 } } ∧
    exec (.policySetting .ueCongestion v) s = .next { s with policy := { s.policy with ueCongestion := BitVec.ofNat 64 v } } ∧
    exec (.policySetting .ueTimeout v) s = .next { s with policy := { s.policy with ueTimeout := min (max v 8000) 1000000 } })

/-- Gang switches, halted contexts, withdrawal. -/
def Obligations.GangsAndHaltedContexts : Prop :=
  Sys2Proof.Claims.GangsAgree ∧ Sys2Proof.Claims.GangsSwitch ∧ Sys2Proof.Claims.HaltedContextsAreSavedAndGoOn

/-- The boot, the loss of power, and the identity tree. -/
def Obligations.BootAndIdentity : Prop :=
  Sys2Proof.Claims.BootFollowsItsSteps ∧ Sys2Proof.Claims.IdentityLeavesAreConsumed

/-- Power, temperature, management registers, soft errors, repair, policies. -/
def Obligations.PowerRegistersErrorsAndPolicies : Prop :=
  Sys2Proof.Claims.PowerAndManagementRegisters ∧ Sys2Proof.Claims.ErrorsRepairsAndPolicies


/-! Decoding (03 R77 to R94), the step, reset, frames and invariants. -/

/-- Worked examples of the spec: the words that mbas emits decode to the instruction they are written for. -/
def Obligations.SpecExamplesDecode : Prop :=
  decode [0xF060#16, 0x652C#16] = .instr (.lea { a := 9#5, b := 12#5, imx := [0x060#10], rgx := none, qlx := none, pgx := false }) 2 ∧
  decode [0xF01F#16, 0x48A8#16] = .instr (.addi { a := 5#5, b := 8#5, imx := [31#10], rgx := none, qlx := none, pgx := false }) 2 ∧
  decode [0xF04D#16, 0xF179#16, 0xF2F7#16, 0x40B0#16] =
    .instr (.li { a := 5#5, b := 16#5, imx := [0x04D#10, 0x179#10, 0x2F7#10], rgx := none, qlx := none, pgx := false }) 4 ∧
  decode [0xF3FD#16, 0x88A6#16] = .instr (.bne { a := 5#5, b := 6#5, imx := [0x3FD#10], rgx := none, qlx := none, pgx := false }) 2 ∧
  decode [0xF001#16, 0xF805#16, 0x0829#16] =
    .instr (.getc { a := 1#5, b := 9#5, imx := [1#10], rgx := none, qlx := none, pgx := true }) 3 ∧
  decode [0xF00B#16, 0xF424#16, 0xFD80#16, 0xC8C0#16] =
    .instr (.vfma { a := 6#5, b := 0#5, imx := [11#10], rgx := some { c := 1#5, a5 := false, b5 := false, hold := 4#3 },
                    qlx := some { pred := 3#3, neg := false, scope := 0#3, ord := 0#2, flag := false }, pgx := false }) 4 ∧
  decode [0xF04A#16, 0xF520#16, 0xFC80#16, 0xF801#16, 0x6C43#16] =
    .instr (.vcmp { a := 2#5, b := 3#5, imx := [0x04A#10], rgx := some { c := 9#5, a5 := false, b5 := false, hold := 0#3 },
                    qlx := some { pred := 1#3, neg := false, scope := 0#3, ord := 0#2, flag := false }, pgx := true }) 5 ∧
  decode [0xF004#16, 0xF003#16, 0xF520#16, 0xF803#16, 0x4086#16] =
    .instr (.rstream { a := 4#5, b := 6#5, imx := [4#10, 3#10], rgx := some { c := 9#5, a5 := false, b5 := false, hold := 0#3 }, qlx := none,
                       pgx := true }) 5 ∧
  decode [0xF560#16, 0xF804#16, 0x4149#16] =
    .instr (.succ { a := 10#5, b := 9#5, imx := [], rgx := some { c := 11#5, a5 := false, b5 := false, hold := 0#3 }, qlx := none, pgx := true }) 3 ∧
  decode [0xF01F#16, 0xE7FF#16] = .instr (.wait { a := 31#5, b := 31#5, imx := [31#10], rgx := none, qlx := none, pgx := false }) 2

/-- Every bundle that fits in five words comes back from its words, with every field that it has, whatever follows it; and a decoded bundle
takes at most five words, the last of which is its instruction word, so that the words after it do not matter. -/
def Obligations.DecodingUndoesEncoding : Prop :=
  (∀ (i : Instr) op w rest, i.code? = some (op, w) → w.chainOk op = true →
    decode (encode i ++ rest) = .instr i (w.chainLength + 1) ∧ (encode i).length = w.chainLength + 1) ∧
  (∀ ws i n, decode ws = .instr i n → 1 ≤ n ∧ n ≤ 5 ∧ n ≤ ws.length ∧
    (∃ op w, i.code? = some (op, w) ∧ w.chainOk op = true ∧ w.chainLength + 1 = n) ∧ ∀ more, decode (ws.take n ++ more) = .instr i n)

namespace Sys2Proof.Claims

/-- Nothing comes before the next bundle of a core whose turn it is: no arrival passes its admission check, no fault is due, its tile is not
reserved, and its frame follows nothing. -/
def issuesNext (s : State) (k : Nat) (f : Frame) : Prop :=
  s.running = some f ∧ s.cur = k ∧ f.mig = none ∧ (s.core k).candidate = none ∧ s.stilled k = false ∧ s.raiseDue k = none ∧
    (s.tile (tileOf k)).reserved = false ∧ (s.core k).follow = .free

end Sys2Proof.Claims

/-- When a core's turn comes and the words at its program counter decode to an instruction, the step is that instruction's meaning in the state
after the fetch (v); the core follows and leads nothing. The words are those that a fetch of two bytes at each address gives. -/
def Obligations.StepRunsTheDecodedInstruction : Prop :=
  (∀ (s : State) k rest f i n v, s.sched = .issue k :: rest → issuesNext { s with sched := rest, cur := k } k f → f.pc % 2 = 0 →
    State.fetchBundle { s with sched := rest, cur := k } k (s.tenantOf f.ltag) f.pc [] 5 = (.instr i n, v) → (v.core k).follow = .free →
    step s = exec i v) ∧
  (∀ (s : State) k rest f, s.sched = .issue k :: rest → issuesNext { s with sched := rest, cur := k } k f → f.pc % 2 = 1 →
    step s = .next (trapped { s with sched := rest, cur := k } .misalign (BitVec.ofNat 64 f.pc))) ∧
  (∀ (s : State) k rest f bad v, s.sched = .issue k :: rest → issuesNext { s with sched := rest, cur := k } k f → f.pc % 2 = 0 →
    State.fetchBundle { s with sched := rest, cur := k } k (s.tenantOf f.ltag) f.pc [] 5 = (.bad bad, v) →
    step s = exec (.reservedEncoding bad) v) ∧
  (∀ (s : State) core tenant pc ws m b v, s.fetch16 core tenant (BitVec.ofNat 64 (pc + 2 * ws.length)) = (.ok b, v) →
    (∀ i n, decode (ws ++ [BitVec.ofNat 16 (leValue b)]) = .instr i n → s.fetchBundle core tenant pc ws (m + 1) = (.instr i n, v)) ∧
    (decode (ws ++ [BitVec.ofNat 16 (leValue b)]) = .more →
      s.fetchBundle core tenant pc ws (m + 1) = v.fetchBundle core tenant pc (ws ++ [BitVec.ofNat 16 (leValue b)]) m)) ∧
  (∀ (s : State) i rest, s.sched = .event i :: rest → step s = exec i { s with sched := rest })

/-- What reset leaves: boot stage 0 with nothing done (16 R427), PCAP 2400 W and TLIM 95 °C (R435), no launch on any core, tile or die, `mwt` 1 (01 R41,
R46), every interface CONFIG_UNLOCKED with its queues disabled (14 R389, R394), the policies of R425, no memory listed; the invariants hold. That
unwritten memory reads zero and that the time starts at 0 are the model's choices (log entries 2 and 4). -/
def Obligations.ResetState : Prop :=
  let s := State.reset
  s.boot.stage = 0 ∧ s.boot.done = false ∧ s.boot.err = 0 ∧ s.boot.pcap = 2400 ∧ s.boot.tlim = 95 ∧ s.boot.fstep = 0 ∧
    (∀ k, s.core k = Core.reset ∧ (s.core k).frames = [] ∧ (s.core k).inbox = [] ∧ (s.core k).mwt = 1) ∧
    (∀ t, (s.tile t).launch = 0 ∧ (s.tile t).lines = []) ∧ (∀ d, (s.die d).inReset = false ∧ (s.die d).ready = [] ∧ (s.die d).barriers = []) ∧
    (∀ f q, (s.fn f).tdi = .unlocked ∧ (s.fn f).bound = false ∧ ((s.fn f).queue q).en = false ∧ ((s.fn f).queue q).overflow = false) ∧
    s.ctxs = [] ∧ s.ops = [] ∧ s.copies = [] ∧ s.tenants = [] ∧ s.policy.stealRecords = 16 ∧ s.policy.gangQuantum = 10000000 ∧
    s.policy.reserveAfter = 4 ∧ s.policy.collLimit = 268435456 ∧ s.policy.signRate = 24 ∧ s.policy.connSpill = true ∧
    (∀ a, memGet s.dram a = 0#8) ∧ s.time = 0 ∧ MemoryCanonical s ∧ TenantsApart s

/-- Every step keeps the canonical form of memory, and keeps the tenants apart: no two valid tenants share a tile or a function (13 R363),
whatever the host, the other packages, the management and the programs do. -/
def Obligations.EveryStepKeepsMemoryAndTenants : Prop :=
  ∀ s t, MemoryCanonical s → TenantsApart s → step s = .next t → MemoryCanonical t ∧ TenantsApart t

namespace Sys2Proof.Claims

/-- The scalar instructions with one result and no other effect: their destination is register a. -/
def scalarOps : List ((Bundle → Instr) × Op) :=
  arithmetic.map (fun r => (r.1, r.2.1)) ++ otherTwoSource.map (fun r => (r.1, r.2.1)) ++ oneSource.map (fun r => (r.1, r.2.1)) ++
    immediate.map (fun r => (r.1, r.2.1)) ++ [(.sel, .sel), (.sext, .sext), (.zext, .zext), (.li, .li), (.rdtime, .rdtime)]

/-- Nothing but the program counter and the registers of the frame has changed on the running core, and nothing at all elsewhere: no byte
of memory at any home or in any tile, no other core, no tile, die, operation, message or context. -/
def elsewhereSame (s t : State) : Prop :=
  (∀ k, k ≠ s.cur → t.core k = s.core k) ∧ (∀ policy home pa n, t.readHome policy home pa n = s.readHome policy home pa n) ∧
    (∀ tile a, memGet (t.tile tile).array a = memGet (s.tile tile).array a) ∧ (∀ a, memGet t.dram a = memGet s.dram a) ∧ t.tiles = s.tiles ∧
    t.dies = s.dies ∧ t.slices = s.slices ∧ t.ops = s.ops ∧ t.msgs = s.msgs ∧ t.ctxs = s.ctxs ∧ t.tenants = s.tenants ∧ t.fns = s.fns ∧
    t.boot = s.boot ∧ t.time = s.time

/-- The core's own registers other than its frames. -/
def coreSame (c d : Core) : Prop :=
  d.inbox = c.inbox ∧ d.chans = c.chans ∧ d.cseq = c.cseq ∧ d.cpring = c.cpring ∧ d.cpsel = c.cpsel ∧ d.mwt = c.mwt ∧ d.sat = c.sat ∧
    d.ceil = c.ceil ∧ d.latchA = c.latchA ∧ d.latchB = c.latchB ∧ d.latchC = c.latchC ∧ d.masks = c.masks ∧ d.timers = c.timers ∧
    d.timerArms = c.timerArms ∧ d.pushes = c.pushes ∧ d.credit = c.credit ∧ d.statuses = c.statuses ∧ d.icache = c.icache ∧ d.follow = c.follow

end Sys2Proof.Claims

/-- The frame of the scalar instructions with one result: whenever one answers a next state in which it has had its effect, only register a and the
program counter of the running frame differ; the frame of the branches: only the program counter, and for `call` x7 and for `loop`
register a. -/
def Obligations.ScalarBundlesChangeNothingElse : Prop :=
  ∀ row ∈ (scalarOps.map (fun r => (r.1, r.2, fun (w : Bundle) => [fieldA w])) ++
      [((Instr.b : Bundle → Instr), Op.b, fun _ => []), (.bz, .bz, fun _ => []), (.bnz, .bnz, fun _ => []), (.beq, .beq, fun _ => []),
       (.bne, .bne, fun _ => []), (.blt, .blt, fun _ => []), (.bge, .bge, fun _ => []), (.bltn, .bltn, fun _ => []), (.ret, .ret, fun _ => []),
       (.jr, .jr, fun _ => []), (.call, .call, fun _ => [7]), (.loop, .loop, fun w => [fieldA w])]),
    ∀ w s f t, Ready s row.2.1 w f → Enabled f w → exec (row.1 w) s = .next t →
      elsewhereSame s t ∧ coreSame (s.core s.cur) (t.core s.cur) ∧
        ∃ g, (t.core s.cur).frames = g :: (s.core s.cur).frames.tail ∧ (∀ n, ¬ n ∈ row.2.2 w → g.xGet n = f.xGet n) ∧ g.v = f.v ∧ g.k = f.k ∧
          g.lv = f.lv ∧ g.thr = f.thr ∧ g.item = f.item ∧ g.wins = f.wins ∧ g.exc = f.exc ∧ g.claims = f.claims ∧ g.pending = f.pending ∧
          g.acb = f.acb ∧ g.arows = f.arows ∧ g.fsb = f.fsb ∧ g.fscr = f.fscr ∧ g.task = f.task ∧ g.level = f.level ∧ g.kind = f.kind

/-- No step of the machine stops: whatever it holds, as long as nothing but steps of the table without an encoding stands in its schedule, a
next state follows; and an encoded instruction answers one whenever a frame runs. (What the spec makes of every case is a trap, a wait or
an effect; no instruction of the model is refused.) -/
def Obligations.EveryStepAnswersANextState : Prop :=
  (∀ (i : Instr) s, (i.code?.isSome = true → s.running.isSome = true) → ∃ t, exec i s = .next t) ∧
  (∀ s : State, (∀ i, .event i ∈ s.sched → i.code? = none) → ∃ t, step s = .next t)

end
end

