-- ==== Sys2Proof/Laws/Tables.lean ====
section
/-! SUPPORT. Laws of keyed tables: what a read gives after a write or a removal, at the same key and at another. -/

namespace Sys2Proof.Machine

variable {α : Type}

@[simp] theorem kget_kset_same (m : KMap α) (k : Nat) (v : α) : kget (kset m k v) k = some v := by
  induction m with
  | nil => simp [kset, kget]
  | cons p rest ih =>
    obtain ⟨j, u⟩ := p
    simp only [kset]
    split
    · simp [kget]
    · split
      · simp [kget]
      · rename_i h; simpa [kget, h] using ih

theorem kget_kset_other (m : KMap α) {k j : Nat} (v : α) (h : j ≠ k) : kget (kset m k v) j = kget m j := by
  induction m with
  | nil => simp [kset, kget, Ne.symm h]
  | cons p rest ih =>
    obtain ⟨i, u⟩ := p
    simp only [kset]
    split
    · simp [kget, Ne.symm h]
    · split
      · rename_i h1 h2; subst h2; simp [kget, Ne.symm h]
      · simp [kget, ih]

@[simp] theorem kgetD_kset_same (m : KMap α) (k : Nat) (v d : α) : kgetD (kset m k v) k d = v := by simp [kgetD]

theorem kgetD_kset_other (m : KMap α) {k j : Nat} (v d : α) (h : j ≠ k) : kgetD (kset m k v) j d = kgetD m j d := by
  simp [kgetD, kget_kset_other m v h]

@[simp] theorem kset_kset_same (m : KMap α) (k : Nat) (u v : α) : kset (kset m k u) k v = kset m k v := by
  induction m with
  | nil => simp [kset]
  | cons p rest ih =>
    obtain ⟨j, x⟩ := p
    simp only [kset]
    split
    · simp [kset]
    · split
      · simp [kset]
      · rename_i h1 h2; simp [kset, h1, h2, ih]

@[simp] theorem kget_kdel_same (m : KMap α) (k : Nat) : kget (kdel m k) k = none := by
  induction m with
  | nil => rfl
  | cons p rest ih =>
    obtain ⟨j, x⟩ := p
    simp only [kdel]
    split
    · exact ih
    · rename_i h; simpa [kget, h] using ih

theorem kget_kdel_other (m : KMap α) {k j : Nat} (h : j ≠ k) : kget (kdel m k) j = kget m j := by
  induction m with
  | nil => rfl
  | cons p rest ih =>
    obtain ⟨i, x⟩ := p
    simp only [kdel]
    split
    · rename_i h1; subst h1; simp [kget, Ne.symm h, ih]
    · simp [kget, ih]

end Sys2Proof.Machine
end

