-- ==== Sys2Proof/Laws/State.lean ====
section
/-! SUPPORT. What the basic updates of the state leave: one lemma for each field and each update, so that no proof unfolds a record
update; the reads of the tables that an update changes; the registers of a frame. -/

namespace Sys2Proof.Machine

/-! `setCore`. -/
@[simp] theorem setCore_sched (s : State) (k : Nat) (c : Core) : (s.setCore k c).sched = s.sched := rfl
@[simp] theorem setCore_cur (s : State) (k : Nat) (c : Core) : (s.setCore k c).cur = s.cur := rfl
@[simp] theorem setCore_nextId (s : State) (k : Nat) (c : Core) : (s.setCore k c).nextId = s.nextId := rfl
@[simp] theorem setCore_freeIx (s : State) (k : Nat) (c : Core) : (s.setCore k c).freeIx = s.freeIx := rfl
@[simp] theorem setCore_egress (s : State) (k : Nat) (c : Core) : (s.setCore k c).egress = s.egress := rfl
@[simp] theorem setCore_pkg (s : State) (k : Nat) (c : Core) : (s.setCore k c).pkg = s.pkg := rfl
@[simp] theorem setCore_time (s : State) (k : Nat) (c : Core) : (s.setCore k c).time = s.time := rfl
@[simp] theorem setCore_subNs (s : State) (k : Nat) (c : Core) : (s.setCore k c).subNs = s.subNs := rfl
@[simp] theorem setCore_cycle (s : State) (k : Nat) (c : Core) : (s.setCore k c).cycle = s.cycle := rfl
@[simp] theorem setCore_uses (s : State) (k : Nat) (c : Core) : (s.setCore k c).uses = s.uses := rfl
@[simp] theorem setCore_rels (s : State) (k : Nat) (c : Core) : (s.setCore k c).rels = s.rels := rfl
@[simp] theorem setCore_foreseen (s : State) (k : Nat) (c : Core) : (s.setCore k c).foreseen = s.foreseen := rfl
@[simp] theorem setCore_aheads (s : State) (k : Nat) (c : Core) : (s.setCore k c).aheads = s.aheads := rfl
@[simp] theorem setCore_tiles (s : State) (k : Nat) (c : Core) : (s.setCore k c).tiles = s.tiles := rfl
@[simp] theorem setCore_dies (s : State) (k : Nat) (c : Core) : (s.setCore k c).dies = s.dies := rfl
@[simp] theorem setCore_slices (s : State) (k : Nat) (c : Core) : (s.setCore k c).slices = s.slices := rfl
@[simp] theorem setCore_dram (s : State) (k : Nat) (c : Core) : (s.setCore k c).dram = s.dram := rfl
@[simp] theorem setCore_badLines (s : State) (k : Nat) (c : Core) : (s.setCore k c).badLines = s.badLines := rfl
@[simp] theorem setCore_ops (s : State) (k : Nat) (c : Core) : (s.setCore k c).ops = s.ops := rfl
@[simp] theorem setCore_msgs (s : State) (k : Nat) (c : Core) : (s.setCore k c).msgs = s.msgs := rfl
@[simp] theorem setCore_voids (s : State) (k : Nat) (c : Core) : (s.setCore k c).voids = s.voids := rfl
@[simp] theorem setCore_given (s : State) (k : Nat) (c : Core) : (s.setCore k c).given = s.given := rfl
@[simp] theorem setCore_flits (s : State) (k : Nat) (c : Core) : (s.setCore k c).flits = s.flits := rfl
@[simp] theorem setCore_routers (s : State) (k : Nat) (c : Core) : (s.setCore k c).routers = s.routers := rfl
@[simp] theorem setCore_packs (s : State) (k : Nat) (c : Core) : (s.setCore k c).packs = s.packs := rfl
@[simp] theorem setCore_notices (s : State) (k : Nat) (c : Core) : (s.setCore k c).notices = s.notices := rfl
@[simp] theorem setCore_acks (s : State) (k : Nat) (c : Core) : (s.setCore k c).acks = s.acks := rfl
@[simp] theorem setCore_retired (s : State) (k : Nat) (c : Core) : (s.setCore k c).retired = s.retired := rfl
@[simp] theorem setCore_copies (s : State) (k : Nat) (c : Core) : (s.setCore k c).copies = s.copies := rfl
@[simp] theorem setCore_colls (s : State) (k : Nat) (c : Core) : (s.setCore k c).colls = s.colls := rfl
@[simp] theorem setCore_ctxs (s : State) (k : Nat) (c : Core) : (s.setCore k c).ctxs = s.ctxs := rfl
@[simp] theorem setCore_lastTag (s : State) (k : Nat) (c : Core) : (s.setCore k c).lastTag = s.lastTag := rfl
@[simp] theorem setCore_acceptSeq (s : State) (k : Nat) (c : Core) : (s.setCore k c).acceptSeq = s.acceptSeq := rfl
@[simp] theorem setCore_tenants (s : State) (k : Nat) (c : Core) : (s.setCore k c).tenants = s.tenants := rfl
@[simp] theorem setCore_fns (s : State) (k : Nat) (c : Core) : (s.setCore k c).fns = s.fns := rfl
@[simp] theorem setCore_streams (s : State) (k : Nat) (c : Core) : (s.setCore k c).streams = s.streams := rfl
@[simp] theorem setCore_inval (s : State) (k : Nat) (c : Core) : (s.setCore k c).inval = s.inval := rfl
@[simp] theorem setCore_routes (s : State) (k : Nat) (c : Core) : (s.setCore k c).routes = s.routes := rfl
@[simp] theorem setCore_conns (s : State) (k : Nat) (c : Core) : (s.setCore k c).conns = s.conns := rfl
@[simp] theorem setCore_portsDown (s : State) (k : Nat) (c : Core) : (s.setCore k c).portsDown = s.portsDown := rfl
@[simp] theorem setCore_portTurn (s : State) (k : Nat) (c : Core) : (s.setCore k c).portTurn = s.portTurn := rfl
@[simp] theorem setCore_netCtxs (s : State) (k : Nat) (c : Core) : (s.setCore k c).netCtxs = s.netCtxs := rfl
@[simp] theorem setCore_uePairs (s : State) (k : Nat) (c : Core) : (s.setCore k c).uePairs = s.uePairs := rfl
@[simp] theorem setCore_ueJobs (s : State) (k : Nat) (c : Core) : (s.setCore k c).ueJobs = s.ueJobs := rfl
@[simp] theorem setCore_ueMsgs (s : State) (k : Nat) (c : Core) : (s.setCore k c).ueMsgs = s.ueMsgs := rfl
@[simp] theorem setCore_gangs (s : State) (k : Nat) (c : Core) : (s.setCore k c).gangs = s.gangs := rfl
@[simp] theorem setCore_boot (s : State) (k : Nat) (c : Core) : (s.setCore k c).boot = s.boot := rfl
@[simp] theorem setCore_policy (s : State) (k : Nat) (c : Core) : (s.setCore k c).policy = s.policy := rfl

/-! `modCore`. -/
@[simp] theorem modCore_sched (s : State) (k : Nat) (g : Core → Core) : (s.modCore k g).sched = s.sched := rfl
@[simp] theorem modCore_cur (s : State) (k : Nat) (g : Core → Core) : (s.modCore k g).cur = s.cur := rfl
@[simp] theorem modCore_nextId (s : State) (k : Nat) (g : Core → Core) : (s.modCore k g).nextId = s.nextId := rfl
@[simp] theorem modCore_freeIx (s : State) (k : Nat) (g : Core → Core) : (s.modCore k g).freeIx = s.freeIx := rfl
@[simp] theorem modCore_egress (s : State) (k : Nat) (g : Core → Core) : (s.modCore k g).egress = s.egress := rfl
@[simp] theorem modCore_pkg (s : State) (k : Nat) (g : Core → Core) : (s.modCore k g).pkg = s.pkg := rfl
@[simp] theorem modCore_time (s : State) (k : Nat) (g : Core → Core) : (s.modCore k g).time = s.time := rfl
@[simp] theorem modCore_subNs (s : State) (k : Nat) (g : Core → Core) : (s.modCore k g).subNs = s.subNs := rfl
@[simp] theorem modCore_cycle (s : State) (k : Nat) (g : Core → Core) : (s.modCore k g).cycle = s.cycle := rfl
@[simp] theorem modCore_uses (s : State) (k : Nat) (g : Core → Core) : (s.modCore k g).uses = s.uses := rfl
@[simp] theorem modCore_rels (s : State) (k : Nat) (g : Core → Core) : (s.modCore k g).rels = s.rels := rfl
@[simp] theorem modCore_foreseen (s : State) (k : Nat) (g : Core → Core) : (s.modCore k g).foreseen = s.foreseen := rfl
@[simp] theorem modCore_aheads (s : State) (k : Nat) (g : Core → Core) : (s.modCore k g).aheads = s.aheads := rfl
@[simp] theorem modCore_tiles (s : State) (k : Nat) (g : Core → Core) : (s.modCore k g).tiles = s.tiles := rfl
@[simp] theorem modCore_dies (s : State) (k : Nat) (g : Core → Core) : (s.modCore k g).dies = s.dies := rfl
@[simp] theorem modCore_slices (s : State) (k : Nat) (g : Core → Core) : (s.modCore k g).slices = s.slices := rfl
@[simp] theorem modCore_dram (s : State) (k : Nat) (g : Core → Core) : (s.modCore k g).dram = s.dram := rfl
@[simp] theorem modCore_badLines (s : State) (k : Nat) (g : Core → Core) : (s.modCore k g).badLines = s.badLines := rfl
@[simp] theorem modCore_ops (s : State) (k : Nat) (g : Core → Core) : (s.modCore k g).ops = s.ops := rfl
@[simp] theorem modCore_msgs (s : State) (k : Nat) (g : Core → Core) : (s.modCore k g).msgs = s.msgs := rfl
@[simp] theorem modCore_voids (s : State) (k : Nat) (g : Core → Core) : (s.modCore k g).voids = s.voids := rfl
@[simp] theorem modCore_given (s : State) (k : Nat) (g : Core → Core) : (s.modCore k g).given = s.given := rfl
@[simp] theorem modCore_flits (s : State) (k : Nat) (g : Core → Core) : (s.modCore k g).flits = s.flits := rfl
@[simp] theorem modCore_routers (s : State) (k : Nat) (g : Core → Core) : (s.modCore k g).routers = s.routers := rfl
@[simp] theorem modCore_packs (s : State) (k : Nat) (g : Core → Core) : (s.modCore k g).packs = s.packs := rfl
@[simp] theorem modCore_notices (s : State) (k : Nat) (g : Core → Core) : (s.modCore k g).notices = s.notices := rfl
@[simp] theorem modCore_acks (s : State) (k : Nat) (g : Core → Core) : (s.modCore k g).acks = s.acks := rfl
@[simp] theorem modCore_retired (s : State) (k : Nat) (g : Core → Core) : (s.modCore k g).retired = s.retired := rfl
@[simp] theorem modCore_copies (s : State) (k : Nat) (g : Core → Core) : (s.modCore k g).copies = s.copies := rfl
@[simp] theorem modCore_colls (s : State) (k : Nat) (g : Core → Core) : (s.modCore k g).colls = s.colls := rfl
@[simp] theorem modCore_ctxs (s : State) (k : Nat) (g : Core → Core) : (s.modCore k g).ctxs = s.ctxs := rfl
@[simp] theorem modCore_lastTag (s : State) (k : Nat) (g : Core → Core) : (s.modCore k g).lastTag = s.lastTag := rfl
@[simp] theorem modCore_acceptSeq (s : State) (k : Nat) (g : Core → Core) : (s.modCore k g).acceptSeq = s.acceptSeq := rfl
@[simp] theorem modCore_tenants (s : State) (k : Nat) (g : Core → Core) : (s.modCore k g).tenants = s.tenants := rfl
@[simp] theorem modCore_fns (s : State) (k : Nat) (g : Core → Core) : (s.modCore k g).fns = s.fns := rfl
@[simp] theorem modCore_streams (s : State) (k : Nat) (g : Core → Core) : (s.modCore k g).streams = s.streams := rfl
@[simp] theorem modCore_inval (s : State) (k : Nat) (g : Core → Core) : (s.modCore k g).inval = s.inval := rfl
@[simp] theorem modCore_routes (s : State) (k : Nat) (g : Core → Core) : (s.modCore k g).routes = s.routes := rfl
@[simp] theorem modCore_conns (s : State) (k : Nat) (g : Core → Core) : (s.modCore k g).conns = s.conns := rfl
@[simp] theorem modCore_portsDown (s : State) (k : Nat) (g : Core → Core) : (s.modCore k g).portsDown = s.portsDown := rfl
@[simp] theorem modCore_portTurn (s : State) (k : Nat) (g : Core → Core) : (s.modCore k g).portTurn = s.portTurn := rfl
@[simp] theorem modCore_netCtxs (s : State) (k : Nat) (g : Core → Core) : (s.modCore k g).netCtxs = s.netCtxs := rfl
@[simp] theorem modCore_uePairs (s : State) (k : Nat) (g : Core → Core) : (s.modCore k g).uePairs = s.uePairs := rfl
@[simp] theorem modCore_ueJobs (s : State) (k : Nat) (g : Core → Core) : (s.modCore k g).ueJobs = s.ueJobs := rfl
@[simp] theorem modCore_ueMsgs (s : State) (k : Nat) (g : Core → Core) : (s.modCore k g).ueMsgs = s.ueMsgs := rfl
@[simp] theorem modCore_gangs (s : State) (k : Nat) (g : Core → Core) : (s.modCore k g).gangs = s.gangs := rfl
@[simp] theorem modCore_boot (s : State) (k : Nat) (g : Core → Core) : (s.modCore k g).boot = s.boot := rfl
@[simp] theorem modCore_policy (s : State) (k : Nat) (g : Core → Core) : (s.modCore k g).policy = s.policy := rfl

/-! `modTop`. -/
@[simp] theorem modTop_sched (s : State) (k : Nat) (g : Frame → Frame) : (s.modTop k g).sched = s.sched := rfl
@[simp] theorem modTop_cur (s : State) (k : Nat) (g : Frame → Frame) : (s.modTop k g).cur = s.cur := rfl
@[simp] theorem modTop_nextId (s : State) (k : Nat) (g : Frame → Frame) : (s.modTop k g).nextId = s.nextId := rfl
@[simp] theorem modTop_freeIx (s : State) (k : Nat) (g : Frame → Frame) : (s.modTop k g).freeIx = s.freeIx := rfl
@[simp] theorem modTop_egress (s : State) (k : Nat) (g : Frame → Frame) : (s.modTop k g).egress = s.egress := rfl
@[simp] theorem modTop_pkg (s : State) (k : Nat) (g : Frame → Frame) : (s.modTop k g).pkg = s.pkg := rfl
@[simp] theorem modTop_time (s : State) (k : Nat) (g : Frame → Frame) : (s.modTop k g).time = s.time := rfl
@[simp] theorem modTop_subNs (s : State) (k : Nat) (g : Frame → Frame) : (s.modTop k g).subNs = s.subNs := rfl
@[simp] theorem modTop_cycle (s : State) (k : Nat) (g : Frame → Frame) : (s.modTop k g).cycle = s.cycle := rfl
@[simp] theorem modTop_uses (s : State) (k : Nat) (g : Frame → Frame) : (s.modTop k g).uses = s.uses := rfl
@[simp] theorem modTop_rels (s : State) (k : Nat) (g : Frame → Frame) : (s.modTop k g).rels = s.rels := rfl
@[simp] theorem modTop_foreseen (s : State) (k : Nat) (g : Frame → Frame) : (s.modTop k g).foreseen = s.foreseen := rfl
@[simp] theorem modTop_aheads (s : State) (k : Nat) (g : Frame → Frame) : (s.modTop k g).aheads = s.aheads := rfl
@[simp] theorem modTop_tiles (s : State) (k : Nat) (g : Frame → Frame) : (s.modTop k g).tiles = s.tiles := rfl
@[simp] theorem modTop_dies (s : State) (k : Nat) (g : Frame → Frame) : (s.modTop k g).dies = s.dies := rfl
@[simp] theorem modTop_slices (s : State) (k : Nat) (g : Frame → Frame) : (s.modTop k g).slices = s.slices := rfl
@[simp] theorem modTop_dram (s : State) (k : Nat) (g : Frame → Frame) : (s.modTop k g).dram = s.dram := rfl
@[simp] theorem modTop_badLines (s : State) (k : Nat) (g : Frame → Frame) : (s.modTop k g).badLines = s.badLines := rfl
@[simp] theorem modTop_ops (s : State) (k : Nat) (g : Frame → Frame) : (s.modTop k g).ops = s.ops := rfl
@[simp] theorem modTop_msgs (s : State) (k : Nat) (g : Frame → Frame) : (s.modTop k g).msgs = s.msgs := rfl
@[simp] theorem modTop_voids (s : State) (k : Nat) (g : Frame → Frame) : (s.modTop k g).voids = s.voids := rfl
@[simp] theorem modTop_given (s : State) (k : Nat) (g : Frame → Frame) : (s.modTop k g).given = s.given := rfl
@[simp] theorem modTop_flits (s : State) (k : Nat) (g : Frame → Frame) : (s.modTop k g).flits = s.flits := rfl
@[simp] theorem modTop_routers (s : State) (k : Nat) (g : Frame → Frame) : (s.modTop k g).routers = s.routers := rfl
@[simp] theorem modTop_packs (s : State) (k : Nat) (g : Frame → Frame) : (s.modTop k g).packs = s.packs := rfl
@[simp] theorem modTop_notices (s : State) (k : Nat) (g : Frame → Frame) : (s.modTop k g).notices = s.notices := rfl
@[simp] theorem modTop_acks (s : State) (k : Nat) (g : Frame → Frame) : (s.modTop k g).acks = s.acks := rfl
@[simp] theorem modTop_retired (s : State) (k : Nat) (g : Frame → Frame) : (s.modTop k g).retired = s.retired := rfl
@[simp] theorem modTop_copies (s : State) (k : Nat) (g : Frame → Frame) : (s.modTop k g).copies = s.copies := rfl
@[simp] theorem modTop_colls (s : State) (k : Nat) (g : Frame → Frame) : (s.modTop k g).colls = s.colls := rfl
@[simp] theorem modTop_ctxs (s : State) (k : Nat) (g : Frame → Frame) : (s.modTop k g).ctxs = s.ctxs := rfl
@[simp] theorem modTop_lastTag (s : State) (k : Nat) (g : Frame → Frame) : (s.modTop k g).lastTag = s.lastTag := rfl
@[simp] theorem modTop_acceptSeq (s : State) (k : Nat) (g : Frame → Frame) : (s.modTop k g).acceptSeq = s.acceptSeq := rfl
@[simp] theorem modTop_tenants (s : State) (k : Nat) (g : Frame → Frame) : (s.modTop k g).tenants = s.tenants := rfl
@[simp] theorem modTop_fns (s : State) (k : Nat) (g : Frame → Frame) : (s.modTop k g).fns = s.fns := rfl
@[simp] theorem modTop_streams (s : State) (k : Nat) (g : Frame → Frame) : (s.modTop k g).streams = s.streams := rfl
@[simp] theorem modTop_inval (s : State) (k : Nat) (g : Frame → Frame) : (s.modTop k g).inval = s.inval := rfl
@[simp] theorem modTop_routes (s : State) (k : Nat) (g : Frame → Frame) : (s.modTop k g).routes = s.routes := rfl
@[simp] theorem modTop_conns (s : State) (k : Nat) (g : Frame → Frame) : (s.modTop k g).conns = s.conns := rfl
@[simp] theorem modTop_portsDown (s : State) (k : Nat) (g : Frame → Frame) : (s.modTop k g).portsDown = s.portsDown := rfl
@[simp] theorem modTop_portTurn (s : State) (k : Nat) (g : Frame → Frame) : (s.modTop k g).portTurn = s.portTurn := rfl
@[simp] theorem modTop_netCtxs (s : State) (k : Nat) (g : Frame → Frame) : (s.modTop k g).netCtxs = s.netCtxs := rfl
@[simp] theorem modTop_uePairs (s : State) (k : Nat) (g : Frame → Frame) : (s.modTop k g).uePairs = s.uePairs := rfl
@[simp] theorem modTop_ueJobs (s : State) (k : Nat) (g : Frame → Frame) : (s.modTop k g).ueJobs = s.ueJobs := rfl
@[simp] theorem modTop_ueMsgs (s : State) (k : Nat) (g : Frame → Frame) : (s.modTop k g).ueMsgs = s.ueMsgs := rfl
@[simp] theorem modTop_gangs (s : State) (k : Nat) (g : Frame → Frame) : (s.modTop k g).gangs = s.gangs := rfl
@[simp] theorem modTop_boot (s : State) (k : Nat) (g : Frame → Frame) : (s.modTop k g).boot = s.boot := rfl
@[simp] theorem modTop_policy (s : State) (k : Nat) (g : Frame → Frame) : (s.modTop k g).policy = s.policy := rfl

/-! `modTask`. -/
@[simp] theorem modTask_sched (s : State) (k t : Nat) (g : Frame → Frame) : (s.modTask k t g).sched = s.sched := rfl
@[simp] theorem modTask_cur (s : State) (k t : Nat) (g : Frame → Frame) : (s.modTask k t g).cur = s.cur := rfl
@[simp] theorem modTask_nextId (s : State) (k t : Nat) (g : Frame → Frame) : (s.modTask k t g).nextId = s.nextId := rfl
@[simp] theorem modTask_freeIx (s : State) (k t : Nat) (g : Frame → Frame) : (s.modTask k t g).freeIx = s.freeIx := rfl
@[simp] theorem modTask_egress (s : State) (k t : Nat) (g : Frame → Frame) : (s.modTask k t g).egress = s.egress := rfl
@[simp] theorem modTask_pkg (s : State) (k t : Nat) (g : Frame → Frame) : (s.modTask k t g).pkg = s.pkg := rfl
@[simp] theorem modTask_time (s : State) (k t : Nat) (g : Frame → Frame) : (s.modTask k t g).time = s.time := rfl
@[simp] theorem modTask_subNs (s : State) (k t : Nat) (g : Frame → Frame) : (s.modTask k t g).subNs = s.subNs := rfl
@[simp] theorem modTask_cycle (s : State) (k t : Nat) (g : Frame → Frame) : (s.modTask k t g).cycle = s.cycle := rfl
@[simp] theorem modTask_uses (s : State) (k t : Nat) (g : Frame → Frame) : (s.modTask k t g).uses = s.uses := rfl
@[simp] theorem modTask_rels (s : State) (k t : Nat) (g : Frame → Frame) : (s.modTask k t g).rels = s.rels := rfl
@[simp] theorem modTask_foreseen (s : State) (k t : Nat) (g : Frame → Frame) : (s.modTask k t g).foreseen = s.foreseen := rfl
@[simp] theorem modTask_aheads (s : State) (k t : Nat) (g : Frame → Frame) : (s.modTask k t g).aheads = s.aheads := rfl
@[simp] theorem modTask_tiles (s : State) (k t : Nat) (g : Frame → Frame) : (s.modTask k t g).tiles = s.tiles := rfl
@[simp] theorem modTask_dies (s : State) (k t : Nat) (g : Frame → Frame) : (s.modTask k t g).dies = s.dies := rfl
@[simp] theorem modTask_slices (s : State) (k t : Nat) (g : Frame → Frame) : (s.modTask k t g).slices = s.slices := rfl
@[simp] theorem modTask_dram (s : State) (k t : Nat) (g : Frame → Frame) : (s.modTask k t g).dram = s.dram := rfl
@[simp] theorem modTask_badLines (s : State) (k t : Nat) (g : Frame → Frame) : (s.modTask k t g).badLines = s.badLines := rfl
@[simp] theorem modTask_ops (s : State) (k t : Nat) (g : Frame → Frame) : (s.modTask k t g).ops = s.ops := rfl
@[simp] theorem modTask_msgs (s : State) (k t : Nat) (g : Frame → Frame) : (s.modTask k t g).msgs = s.msgs := rfl
@[simp] theorem modTask_voids (s : State) (k t : Nat) (g : Frame → Frame) : (s.modTask k t g).voids = s.voids := rfl
@[simp] theorem modTask_given (s : State) (k t : Nat) (g : Frame → Frame) : (s.modTask k t g).given = s.given := rfl
@[simp] theorem modTask_flits (s : State) (k t : Nat) (g : Frame → Frame) : (s.modTask k t g).flits = s.flits := rfl
@[simp] theorem modTask_routers (s : State) (k t : Nat) (g : Frame → Frame) : (s.modTask k t g).routers = s.routers := rfl
@[simp] theorem modTask_packs (s : State) (k t : Nat) (g : Frame → Frame) : (s.modTask k t g).packs = s.packs := rfl
@[simp] theorem modTask_notices (s : State) (k t : Nat) (g : Frame → Frame) : (s.modTask k t g).notices = s.notices := rfl
@[simp] theorem modTask_acks (s : State) (k t : Nat) (g : Frame → Frame) : (s.modTask k t g).acks = s.acks := rfl
@[simp] theorem modTask_retired (s : State) (k t : Nat) (g : Frame → Frame) : (s.modTask k t g).retired = s.retired := rfl
@[simp] theorem modTask_copies (s : State) (k t : Nat) (g : Frame → Frame) : (s.modTask k t g).copies = s.copies := rfl
@[simp] theorem modTask_colls (s : State) (k t : Nat) (g : Frame → Frame) : (s.modTask k t g).colls = s.colls := rfl
@[simp] theorem modTask_ctxs (s : State) (k t : Nat) (g : Frame → Frame) : (s.modTask k t g).ctxs = s.ctxs := rfl
@[simp] theorem modTask_lastTag (s : State) (k t : Nat) (g : Frame → Frame) : (s.modTask k t g).lastTag = s.lastTag := rfl
@[simp] theorem modTask_acceptSeq (s : State) (k t : Nat) (g : Frame → Frame) : (s.modTask k t g).acceptSeq = s.acceptSeq := rfl
@[simp] theorem modTask_tenants (s : State) (k t : Nat) (g : Frame → Frame) : (s.modTask k t g).tenants = s.tenants := rfl
@[simp] theorem modTask_fns (s : State) (k t : Nat) (g : Frame → Frame) : (s.modTask k t g).fns = s.fns := rfl
@[simp] theorem modTask_streams (s : State) (k t : Nat) (g : Frame → Frame) : (s.modTask k t g).streams = s.streams := rfl
@[simp] theorem modTask_inval (s : State) (k t : Nat) (g : Frame → Frame) : (s.modTask k t g).inval = s.inval := rfl
@[simp] theorem modTask_routes (s : State) (k t : Nat) (g : Frame → Frame) : (s.modTask k t g).routes = s.routes := rfl
@[simp] theorem modTask_conns (s : State) (k t : Nat) (g : Frame → Frame) : (s.modTask k t g).conns = s.conns := rfl
@[simp] theorem modTask_portsDown (s : State) (k t : Nat) (g : Frame → Frame) : (s.modTask k t g).portsDown = s.portsDown := rfl
@[simp] theorem modTask_portTurn (s : State) (k t : Nat) (g : Frame → Frame) : (s.modTask k t g).portTurn = s.portTurn := rfl
@[simp] theorem modTask_netCtxs (s : State) (k t : Nat) (g : Frame → Frame) : (s.modTask k t g).netCtxs = s.netCtxs := rfl
@[simp] theorem modTask_uePairs (s : State) (k t : Nat) (g : Frame → Frame) : (s.modTask k t g).uePairs = s.uePairs := rfl
@[simp] theorem modTask_ueJobs (s : State) (k t : Nat) (g : Frame → Frame) : (s.modTask k t g).ueJobs = s.ueJobs := rfl
@[simp] theorem modTask_ueMsgs (s : State) (k t : Nat) (g : Frame → Frame) : (s.modTask k t g).ueMsgs = s.ueMsgs := rfl
@[simp] theorem modTask_gangs (s : State) (k t : Nat) (g : Frame → Frame) : (s.modTask k t g).gangs = s.gangs := rfl
@[simp] theorem modTask_boot (s : State) (k t : Nat) (g : Frame → Frame) : (s.modTask k t g).boot = s.boot := rfl
@[simp] theorem modTask_policy (s : State) (k t : Nat) (g : Frame → Frame) : (s.modTask k t g).policy = s.policy := rfl

/-! `setTile`. -/
@[simp] theorem setTile_sched (s : State) (k : Nat) (x : Tile) : (s.setTile k x).sched = s.sched := rfl
@[simp] theorem setTile_cur (s : State) (k : Nat) (x : Tile) : (s.setTile k x).cur = s.cur := rfl
@[simp] theorem setTile_nextId (s : State) (k : Nat) (x : Tile) : (s.setTile k x).nextId = s.nextId := rfl
@[simp] theorem setTile_freeIx (s : State) (k : Nat) (x : Tile) : (s.setTile k x).freeIx = s.freeIx := rfl
@[simp] theorem setTile_egress (s : State) (k : Nat) (x : Tile) : (s.setTile k x).egress = s.egress := rfl
@[simp] theorem setTile_pkg (s : State) (k : Nat) (x : Tile) : (s.setTile k x).pkg = s.pkg := rfl
@[simp] theorem setTile_time (s : State) (k : Nat) (x : Tile) : (s.setTile k x).time = s.time := rfl
@[simp] theorem setTile_subNs (s : State) (k : Nat) (x : Tile) : (s.setTile k x).subNs = s.subNs := rfl
@[simp] theorem setTile_cycle (s : State) (k : Nat) (x : Tile) : (s.setTile k x).cycle = s.cycle := rfl
@[simp] theorem setTile_uses (s : State) (k : Nat) (x : Tile) : (s.setTile k x).uses = s.uses := rfl
@[simp] theorem setTile_rels (s : State) (k : Nat) (x : Tile) : (s.setTile k x).rels = s.rels := rfl
@[simp] theorem setTile_foreseen (s : State) (k : Nat) (x : Tile) : (s.setTile k x).foreseen = s.foreseen := rfl
@[simp] theorem setTile_aheads (s : State) (k : Nat) (x : Tile) : (s.setTile k x).aheads = s.aheads := rfl
@[simp] theorem setTile_cores (s : State) (k : Nat) (x : Tile) : (s.setTile k x).cores = s.cores := rfl
@[simp] theorem setTile_dies (s : State) (k : Nat) (x : Tile) : (s.setTile k x).dies = s.dies := rfl
@[simp] theorem setTile_slices (s : State) (k : Nat) (x : Tile) : (s.setTile k x).slices = s.slices := rfl
@[simp] theorem setTile_dram (s : State) (k : Nat) (x : Tile) : (s.setTile k x).dram = s.dram := rfl
@[simp] theorem setTile_badLines (s : State) (k : Nat) (x : Tile) : (s.setTile k x).badLines = s.badLines := rfl
@[simp] theorem setTile_ops (s : State) (k : Nat) (x : Tile) : (s.setTile k x).ops = s.ops := rfl
@[simp] theorem setTile_msgs (s : State) (k : Nat) (x : Tile) : (s.setTile k x).msgs = s.msgs := rfl
@[simp] theorem setTile_voids (s : State) (k : Nat) (x : Tile) : (s.setTile k x).voids = s.voids := rfl
@[simp] theorem setTile_given (s : State) (k : Nat) (x : Tile) : (s.setTile k x).given = s.given := rfl
@[simp] theorem setTile_flits (s : State) (k : Nat) (x : Tile) : (s.setTile k x).flits = s.flits := rfl
@[simp] theorem setTile_routers (s : State) (k : Nat) (x : Tile) : (s.setTile k x).routers = s.routers := rfl
@[simp] theorem setTile_packs (s : State) (k : Nat) (x : Tile) : (s.setTile k x).packs = s.packs := rfl
@[simp] theorem setTile_notices (s : State) (k : Nat) (x : Tile) : (s.setTile k x).notices = s.notices := rfl
@[simp] theorem setTile_acks (s : State) (k : Nat) (x : Tile) : (s.setTile k x).acks = s.acks := rfl
@[simp] theorem setTile_retired (s : State) (k : Nat) (x : Tile) : (s.setTile k x).retired = s.retired := rfl
@[simp] theorem setTile_copies (s : State) (k : Nat) (x : Tile) : (s.setTile k x).copies = s.copies := rfl
@[simp] theorem setTile_colls (s : State) (k : Nat) (x : Tile) : (s.setTile k x).colls = s.colls := rfl
@[simp] theorem setTile_ctxs (s : State) (k : Nat) (x : Tile) : (s.setTile k x).ctxs = s.ctxs := rfl
@[simp] theorem setTile_lastTag (s : State) (k : Nat) (x : Tile) : (s.setTile k x).lastTag = s.lastTag := rfl
@[simp] theorem setTile_acceptSeq (s : State) (k : Nat) (x : Tile) : (s.setTile k x).acceptSeq = s.acceptSeq := rfl
@[simp] theorem setTile_tenants (s : State) (k : Nat) (x : Tile) : (s.setTile k x).tenants = s.tenants := rfl
@[simp] theorem setTile_fns (s : State) (k : Nat) (x : Tile) : (s.setTile k x).fns = s.fns := rfl
@[simp] theorem setTile_streams (s : State) (k : Nat) (x : Tile) : (s.setTile k x).streams = s.streams := rfl
@[simp] theorem setTile_inval (s : State) (k : Nat) (x : Tile) : (s.setTile k x).inval = s.inval := rfl
@[simp] theorem setTile_routes (s : State) (k : Nat) (x : Tile) : (s.setTile k x).routes = s.routes := rfl
@[simp] theorem setTile_conns (s : State) (k : Nat) (x : Tile) : (s.setTile k x).conns = s.conns := rfl
@[simp] theorem setTile_portsDown (s : State) (k : Nat) (x : Tile) : (s.setTile k x).portsDown = s.portsDown := rfl
@[simp] theorem setTile_portTurn (s : State) (k : Nat) (x : Tile) : (s.setTile k x).portTurn = s.portTurn := rfl
@[simp] theorem setTile_netCtxs (s : State) (k : Nat) (x : Tile) : (s.setTile k x).netCtxs = s.netCtxs := rfl
@[simp] theorem setTile_uePairs (s : State) (k : Nat) (x : Tile) : (s.setTile k x).uePairs = s.uePairs := rfl
@[simp] theorem setTile_ueJobs (s : State) (k : Nat) (x : Tile) : (s.setTile k x).ueJobs = s.ueJobs := rfl
@[simp] theorem setTile_ueMsgs (s : State) (k : Nat) (x : Tile) : (s.setTile k x).ueMsgs = s.ueMsgs := rfl
@[simp] theorem setTile_gangs (s : State) (k : Nat) (x : Tile) : (s.setTile k x).gangs = s.gangs := rfl
@[simp] theorem setTile_boot (s : State) (k : Nat) (x : Tile) : (s.setTile k x).boot = s.boot := rfl
@[simp] theorem setTile_policy (s : State) (k : Nat) (x : Tile) : (s.setTile k x).policy = s.policy := rfl

/-! `modTile`. -/
@[simp] theorem modTile_sched (s : State) (k : Nat) (g : Tile → Tile) : (s.modTile k g).sched = s.sched := rfl
@[simp] theorem modTile_cur (s : State) (k : Nat) (g : Tile → Tile) : (s.modTile k g).cur = s.cur := rfl
@[simp] theorem modTile_nextId (s : State) (k : Nat) (g : Tile → Tile) : (s.modTile k g).nextId = s.nextId := rfl
@[simp] theorem modTile_freeIx (s : State) (k : Nat) (g : Tile → Tile) : (s.modTile k g).freeIx = s.freeIx := rfl
@[simp] theorem modTile_egress (s : State) (k : Nat) (g : Tile → Tile) : (s.modTile k g).egress = s.egress := rfl
@[simp] theorem modTile_pkg (s : State) (k : Nat) (g : Tile → Tile) : (s.modTile k g).pkg = s.pkg := rfl
@[simp] theorem modTile_time (s : State) (k : Nat) (g : Tile → Tile) : (s.modTile k g).time = s.time := rfl
@[simp] theorem modTile_subNs (s : State) (k : Nat) (g : Tile → Tile) : (s.modTile k g).subNs = s.subNs := rfl
@[simp] theorem modTile_cycle (s : State) (k : Nat) (g : Tile → Tile) : (s.modTile k g).cycle = s.cycle := rfl
@[simp] theorem modTile_uses (s : State) (k : Nat) (g : Tile → Tile) : (s.modTile k g).uses = s.uses := rfl
@[simp] theorem modTile_rels (s : State) (k : Nat) (g : Tile → Tile) : (s.modTile k g).rels = s.rels := rfl
@[simp] theorem modTile_foreseen (s : State) (k : Nat) (g : Tile → Tile) : (s.modTile k g).foreseen = s.foreseen := rfl
@[simp] theorem modTile_aheads (s : State) (k : Nat) (g : Tile → Tile) : (s.modTile k g).aheads = s.aheads := rfl
@[simp] theorem modTile_cores (s : State) (k : Nat) (g : Tile → Tile) : (s.modTile k g).cores = s.cores := rfl
@[simp] theorem modTile_dies (s : State) (k : Nat) (g : Tile → Tile) : (s.modTile k g).dies = s.dies := rfl
@[simp] theorem modTile_slices (s : State) (k : Nat) (g : Tile → Tile) : (s.modTile k g).slices = s.slices := rfl
@[simp] theorem modTile_dram (s : State) (k : Nat) (g : Tile → Tile) : (s.modTile k g).dram = s.dram := rfl
@[simp] theorem modTile_badLines (s : State) (k : Nat) (g : Tile → Tile) : (s.modTile k g).badLines = s.badLines := rfl
@[simp] theorem modTile_ops (s : State) (k : Nat) (g : Tile → Tile) : (s.modTile k g).ops = s.ops := rfl
@[simp] theorem modTile_msgs (s : State) (k : Nat) (g : Tile → Tile) : (s.modTile k g).msgs = s.msgs := rfl
@[simp] theorem modTile_voids (s : State) (k : Nat) (g : Tile → Tile) : (s.modTile k g).voids = s.voids := rfl
@[simp] theorem modTile_given (s : State) (k : Nat) (g : Tile → Tile) : (s.modTile k g).given = s.given := rfl
@[simp] theorem modTile_flits (s : State) (k : Nat) (g : Tile → Tile) : (s.modTile k g).flits = s.flits := rfl
@[simp] theorem modTile_routers (s : State) (k : Nat) (g : Tile → Tile) : (s.modTile k g).routers = s.routers := rfl
@[simp] theorem modTile_packs (s : State) (k : Nat) (g : Tile → Tile) : (s.modTile k g).packs = s.packs := rfl
@[simp] theorem modTile_notices (s : State) (k : Nat) (g : Tile → Tile) : (s.modTile k g).notices = s.notices := rfl
@[simp] theorem modTile_acks (s : State) (k : Nat) (g : Tile → Tile) : (s.modTile k g).acks = s.acks := rfl
@[simp] theorem modTile_retired (s : State) (k : Nat) (g : Tile → Tile) : (s.modTile k g).retired = s.retired := rfl
@[simp] theorem modTile_copies (s : State) (k : Nat) (g : Tile → Tile) : (s.modTile k g).copies = s.copies := rfl
@[simp] theorem modTile_colls (s : State) (k : Nat) (g : Tile → Tile) : (s.modTile k g).colls = s.colls := rfl
@[simp] theorem modTile_ctxs (s : State) (k : Nat) (g : Tile → Tile) : (s.modTile k g).ctxs = s.ctxs := rfl
@[simp] theorem modTile_lastTag (s : State) (k : Nat) (g : Tile → Tile) : (s.modTile k g).lastTag = s.lastTag := rfl
@[simp] theorem modTile_acceptSeq (s : State) (k : Nat) (g : Tile → Tile) : (s.modTile k g).acceptSeq = s.acceptSeq := rfl
@[simp] theorem modTile_tenants (s : State) (k : Nat) (g : Tile → Tile) : (s.modTile k g).tenants = s.tenants := rfl
@[simp] theorem modTile_fns (s : State) (k : Nat) (g : Tile → Tile) : (s.modTile k g).fns = s.fns := rfl
@[simp] theorem modTile_streams (s : State) (k : Nat) (g : Tile → Tile) : (s.modTile k g).streams = s.streams := rfl
@[simp] theorem modTile_inval (s : State) (k : Nat) (g : Tile → Tile) : (s.modTile k g).inval = s.inval := rfl
@[simp] theorem modTile_routes (s : State) (k : Nat) (g : Tile → Tile) : (s.modTile k g).routes = s.routes := rfl
@[simp] theorem modTile_conns (s : State) (k : Nat) (g : Tile → Tile) : (s.modTile k g).conns = s.conns := rfl
@[simp] theorem modTile_portsDown (s : State) (k : Nat) (g : Tile → Tile) : (s.modTile k g).portsDown = s.portsDown := rfl
@[simp] theorem modTile_portTurn (s : State) (k : Nat) (g : Tile → Tile) : (s.modTile k g).portTurn = s.portTurn := rfl
@[simp] theorem modTile_netCtxs (s : State) (k : Nat) (g : Tile → Tile) : (s.modTile k g).netCtxs = s.netCtxs := rfl
@[simp] theorem modTile_uePairs (s : State) (k : Nat) (g : Tile → Tile) : (s.modTile k g).uePairs = s.uePairs := rfl
@[simp] theorem modTile_ueJobs (s : State) (k : Nat) (g : Tile → Tile) : (s.modTile k g).ueJobs = s.ueJobs := rfl
@[simp] theorem modTile_ueMsgs (s : State) (k : Nat) (g : Tile → Tile) : (s.modTile k g).ueMsgs = s.ueMsgs := rfl
@[simp] theorem modTile_gangs (s : State) (k : Nat) (g : Tile → Tile) : (s.modTile k g).gangs = s.gangs := rfl
@[simp] theorem modTile_boot (s : State) (k : Nat) (g : Tile → Tile) : (s.modTile k g).boot = s.boot := rfl
@[simp] theorem modTile_policy (s : State) (k : Nat) (g : Tile → Tile) : (s.modTile k g).policy = s.policy := rfl

/-! `setDie`. -/
@[simp] theorem setDie_sched (s : State) (k : Nat) (x : Die) : (s.setDie k x).sched = s.sched := rfl
@[simp] theorem setDie_cur (s : State) (k : Nat) (x : Die) : (s.setDie k x).cur = s.cur := rfl
@[simp] theorem setDie_nextId (s : State) (k : Nat) (x : Die) : (s.setDie k x).nextId = s.nextId := rfl
@[simp] theorem setDie_freeIx (s : State) (k : Nat) (x : Die) : (s.setDie k x).freeIx = s.freeIx := rfl
@[simp] theorem setDie_egress (s : State) (k : Nat) (x : Die) : (s.setDie k x).egress = s.egress := rfl
@[simp] theorem setDie_pkg (s : State) (k : Nat) (x : Die) : (s.setDie k x).pkg = s.pkg := rfl
@[simp] theorem setDie_time (s : State) (k : Nat) (x : Die) : (s.setDie k x).time = s.time := rfl
@[simp] theorem setDie_subNs (s : State) (k : Nat) (x : Die) : (s.setDie k x).subNs = s.subNs := rfl
@[simp] theorem setDie_cycle (s : State) (k : Nat) (x : Die) : (s.setDie k x).cycle = s.cycle := rfl
@[simp] theorem setDie_uses (s : State) (k : Nat) (x : Die) : (s.setDie k x).uses = s.uses := rfl
@[simp] theorem setDie_rels (s : State) (k : Nat) (x : Die) : (s.setDie k x).rels = s.rels := rfl
@[simp] theorem setDie_foreseen (s : State) (k : Nat) (x : Die) : (s.setDie k x).foreseen = s.foreseen := rfl
@[simp] theorem setDie_aheads (s : State) (k : Nat) (x : Die) : (s.setDie k x).aheads = s.aheads := rfl
@[simp] theorem setDie_cores (s : State) (k : Nat) (x : Die) : (s.setDie k x).cores = s.cores := rfl
@[simp] theorem setDie_tiles (s : State) (k : Nat) (x : Die) : (s.setDie k x).tiles = s.tiles := rfl
@[simp] theorem setDie_slices (s : State) (k : Nat) (x : Die) : (s.setDie k x).slices = s.slices := rfl
@[simp] theorem setDie_dram (s : State) (k : Nat) (x : Die) : (s.setDie k x).dram = s.dram := rfl
@[simp] theorem setDie_badLines (s : State) (k : Nat) (x : Die) : (s.setDie k x).badLines = s.badLines := rfl
@[simp] theorem setDie_ops (s : State) (k : Nat) (x : Die) : (s.setDie k x).ops = s.ops := rfl
@[simp] theorem setDie_msgs (s : State) (k : Nat) (x : Die) : (s.setDie k x).msgs = s.msgs := rfl
@[simp] theorem setDie_voids (s : State) (k : Nat) (x : Die) : (s.setDie k x).voids = s.voids := rfl
@[simp] theorem setDie_given (s : State) (k : Nat) (x : Die) : (s.setDie k x).given = s.given := rfl
@[simp] theorem setDie_flits (s : State) (k : Nat) (x : Die) : (s.setDie k x).flits = s.flits := rfl
@[simp] theorem setDie_routers (s : State) (k : Nat) (x : Die) : (s.setDie k x).routers = s.routers := rfl
@[simp] theorem setDie_packs (s : State) (k : Nat) (x : Die) : (s.setDie k x).packs = s.packs := rfl
@[simp] theorem setDie_notices (s : State) (k : Nat) (x : Die) : (s.setDie k x).notices = s.notices := rfl
@[simp] theorem setDie_acks (s : State) (k : Nat) (x : Die) : (s.setDie k x).acks = s.acks := rfl
@[simp] theorem setDie_retired (s : State) (k : Nat) (x : Die) : (s.setDie k x).retired = s.retired := rfl
@[simp] theorem setDie_copies (s : State) (k : Nat) (x : Die) : (s.setDie k x).copies = s.copies := rfl
@[simp] theorem setDie_colls (s : State) (k : Nat) (x : Die) : (s.setDie k x).colls = s.colls := rfl
@[simp] theorem setDie_ctxs (s : State) (k : Nat) (x : Die) : (s.setDie k x).ctxs = s.ctxs := rfl
@[simp] theorem setDie_lastTag (s : State) (k : Nat) (x : Die) : (s.setDie k x).lastTag = s.lastTag := rfl
@[simp] theorem setDie_acceptSeq (s : State) (k : Nat) (x : Die) : (s.setDie k x).acceptSeq = s.acceptSeq := rfl
@[simp] theorem setDie_tenants (s : State) (k : Nat) (x : Die) : (s.setDie k x).tenants = s.tenants := rfl
@[simp] theorem setDie_fns (s : State) (k : Nat) (x : Die) : (s.setDie k x).fns = s.fns := rfl
@[simp] theorem setDie_streams (s : State) (k : Nat) (x : Die) : (s.setDie k x).streams = s.streams := rfl
@[simp] theorem setDie_inval (s : State) (k : Nat) (x : Die) : (s.setDie k x).inval = s.inval := rfl
@[simp] theorem setDie_routes (s : State) (k : Nat) (x : Die) : (s.setDie k x).routes = s.routes := rfl
@[simp] theorem setDie_conns (s : State) (k : Nat) (x : Die) : (s.setDie k x).conns = s.conns := rfl
@[simp] theorem setDie_portsDown (s : State) (k : Nat) (x : Die) : (s.setDie k x).portsDown = s.portsDown := rfl
@[simp] theorem setDie_portTurn (s : State) (k : Nat) (x : Die) : (s.setDie k x).portTurn = s.portTurn := rfl
@[simp] theorem setDie_netCtxs (s : State) (k : Nat) (x : Die) : (s.setDie k x).netCtxs = s.netCtxs := rfl
@[simp] theorem setDie_uePairs (s : State) (k : Nat) (x : Die) : (s.setDie k x).uePairs = s.uePairs := rfl
@[simp] theorem setDie_ueJobs (s : State) (k : Nat) (x : Die) : (s.setDie k x).ueJobs = s.ueJobs := rfl
@[simp] theorem setDie_ueMsgs (s : State) (k : Nat) (x : Die) : (s.setDie k x).ueMsgs = s.ueMsgs := rfl
@[simp] theorem setDie_gangs (s : State) (k : Nat) (x : Die) : (s.setDie k x).gangs = s.gangs := rfl
@[simp] theorem setDie_boot (s : State) (k : Nat) (x : Die) : (s.setDie k x).boot = s.boot := rfl
@[simp] theorem setDie_policy (s : State) (k : Nat) (x : Die) : (s.setDie k x).policy = s.policy := rfl

/-! `modDie`. -/
@[simp] theorem modDie_sched (s : State) (k : Nat) (g : Die → Die) : (s.modDie k g).sched = s.sched := rfl
@[simp] theorem modDie_cur (s : State) (k : Nat) (g : Die → Die) : (s.modDie k g).cur = s.cur := rfl
@[simp] theorem modDie_nextId (s : State) (k : Nat) (g : Die → Die) : (s.modDie k g).nextId = s.nextId := rfl
@[simp] theorem modDie_freeIx (s : State) (k : Nat) (g : Die → Die) : (s.modDie k g).freeIx = s.freeIx := rfl
@[simp] theorem modDie_egress (s : State) (k : Nat) (g : Die → Die) : (s.modDie k g).egress = s.egress := rfl
@[simp] theorem modDie_pkg (s : State) (k : Nat) (g : Die → Die) : (s.modDie k g).pkg = s.pkg := rfl
@[simp] theorem modDie_time (s : State) (k : Nat) (g : Die → Die) : (s.modDie k g).time = s.time := rfl
@[simp] theorem modDie_subNs (s : State) (k : Nat) (g : Die → Die) : (s.modDie k g).subNs = s.subNs := rfl
@[simp] theorem modDie_cycle (s : State) (k : Nat) (g : Die → Die) : (s.modDie k g).cycle = s.cycle := rfl
@[simp] theorem modDie_uses (s : State) (k : Nat) (g : Die → Die) : (s.modDie k g).uses = s.uses := rfl
@[simp] theorem modDie_rels (s : State) (k : Nat) (g : Die → Die) : (s.modDie k g).rels = s.rels := rfl
@[simp] theorem modDie_foreseen (s : State) (k : Nat) (g : Die → Die) : (s.modDie k g).foreseen = s.foreseen := rfl
@[simp] theorem modDie_aheads (s : State) (k : Nat) (g : Die → Die) : (s.modDie k g).aheads = s.aheads := rfl
@[simp] theorem modDie_cores (s : State) (k : Nat) (g : Die → Die) : (s.modDie k g).cores = s.cores := rfl
@[simp] theorem modDie_tiles (s : State) (k : Nat) (g : Die → Die) : (s.modDie k g).tiles = s.tiles := rfl
@[simp] theorem modDie_slices (s : State) (k : Nat) (g : Die → Die) : (s.modDie k g).slices = s.slices := rfl
@[simp] theorem modDie_dram (s : State) (k : Nat) (g : Die → Die) : (s.modDie k g).dram = s.dram := rfl
@[simp] theorem modDie_badLines (s : State) (k : Nat) (g : Die → Die) : (s.modDie k g).badLines = s.badLines := rfl
@[simp] theorem modDie_ops (s : State) (k : Nat) (g : Die → Die) : (s.modDie k g).ops = s.ops := rfl
@[simp] theorem modDie_msgs (s : State) (k : Nat) (g : Die → Die) : (s.modDie k g).msgs = s.msgs := rfl
@[simp] theorem modDie_voids (s : State) (k : Nat) (g : Die → Die) : (s.modDie k g).voids = s.voids := rfl
@[simp] theorem modDie_given (s : State) (k : Nat) (g : Die → Die) : (s.modDie k g).given = s.given := rfl
@[simp] theorem modDie_flits (s : State) (k : Nat) (g : Die → Die) : (s.modDie k g).flits = s.flits := rfl
@[simp] theorem modDie_routers (s : State) (k : Nat) (g : Die → Die) : (s.modDie k g).routers = s.routers := rfl
@[simp] theorem modDie_packs (s : State) (k : Nat) (g : Die → Die) : (s.modDie k g).packs = s.packs := rfl
@[simp] theorem modDie_notices (s : State) (k : Nat) (g : Die → Die) : (s.modDie k g).notices = s.notices := rfl
@[simp] theorem modDie_acks (s : State) (k : Nat) (g : Die → Die) : (s.modDie k g).acks = s.acks := rfl
@[simp] theorem modDie_retired (s : State) (k : Nat) (g : Die → Die) : (s.modDie k g).retired = s.retired := rfl
@[simp] theorem modDie_copies (s : State) (k : Nat) (g : Die → Die) : (s.modDie k g).copies = s.copies := rfl
@[simp] theorem modDie_colls (s : State) (k : Nat) (g : Die → Die) : (s.modDie k g).colls = s.colls := rfl
@[simp] theorem modDie_ctxs (s : State) (k : Nat) (g : Die → Die) : (s.modDie k g).ctxs = s.ctxs := rfl
@[simp] theorem modDie_lastTag (s : State) (k : Nat) (g : Die → Die) : (s.modDie k g).lastTag = s.lastTag := rfl
@[simp] theorem modDie_acceptSeq (s : State) (k : Nat) (g : Die → Die) : (s.modDie k g).acceptSeq = s.acceptSeq := rfl
@[simp] theorem modDie_tenants (s : State) (k : Nat) (g : Die → Die) : (s.modDie k g).tenants = s.tenants := rfl
@[simp] theorem modDie_fns (s : State) (k : Nat) (g : Die → Die) : (s.modDie k g).fns = s.fns := rfl
@[simp] theorem modDie_streams (s : State) (k : Nat) (g : Die → Die) : (s.modDie k g).streams = s.streams := rfl
@[simp] theorem modDie_inval (s : State) (k : Nat) (g : Die → Die) : (s.modDie k g).inval = s.inval := rfl
@[simp] theorem modDie_routes (s : State) (k : Nat) (g : Die → Die) : (s.modDie k g).routes = s.routes := rfl
@[simp] theorem modDie_conns (s : State) (k : Nat) (g : Die → Die) : (s.modDie k g).conns = s.conns := rfl
@[simp] theorem modDie_portsDown (s : State) (k : Nat) (g : Die → Die) : (s.modDie k g).portsDown = s.portsDown := rfl
@[simp] theorem modDie_portTurn (s : State) (k : Nat) (g : Die → Die) : (s.modDie k g).portTurn = s.portTurn := rfl
@[simp] theorem modDie_netCtxs (s : State) (k : Nat) (g : Die → Die) : (s.modDie k g).netCtxs = s.netCtxs := rfl
@[simp] theorem modDie_uePairs (s : State) (k : Nat) (g : Die → Die) : (s.modDie k g).uePairs = s.uePairs := rfl
@[simp] theorem modDie_ueJobs (s : State) (k : Nat) (g : Die → Die) : (s.modDie k g).ueJobs = s.ueJobs := rfl
@[simp] theorem modDie_ueMsgs (s : State) (k : Nat) (g : Die → Die) : (s.modDie k g).ueMsgs = s.ueMsgs := rfl
@[simp] theorem modDie_gangs (s : State) (k : Nat) (g : Die → Die) : (s.modDie k g).gangs = s.gangs := rfl
@[simp] theorem modDie_boot (s : State) (k : Nat) (g : Die → Die) : (s.modDie k g).boot = s.boot := rfl
@[simp] theorem modDie_policy (s : State) (k : Nat) (g : Die → Die) : (s.modDie k g).policy = s.policy := rfl

/-! `modRouter`. -/
@[simp] theorem modRouter_sched (s : State) (k : Nat) (g : Router → Router) : (s.modRouter k g).sched = s.sched := rfl
@[simp] theorem modRouter_cur (s : State) (k : Nat) (g : Router → Router) : (s.modRouter k g).cur = s.cur := rfl
@[simp] theorem modRouter_nextId (s : State) (k : Nat) (g : Router → Router) : (s.modRouter k g).nextId = s.nextId := rfl
@[simp] theorem modRouter_freeIx (s : State) (k : Nat) (g : Router → Router) : (s.modRouter k g).freeIx = s.freeIx := rfl
@[simp] theorem modRouter_egress (s : State) (k : Nat) (g : Router → Router) : (s.modRouter k g).egress = s.egress := rfl
@[simp] theorem modRouter_pkg (s : State) (k : Nat) (g : Router → Router) : (s.modRouter k g).pkg = s.pkg := rfl
@[simp] theorem modRouter_time (s : State) (k : Nat) (g : Router → Router) : (s.modRouter k g).time = s.time := rfl
@[simp] theorem modRouter_subNs (s : State) (k : Nat) (g : Router → Router) : (s.modRouter k g).subNs = s.subNs := rfl
@[simp] theorem modRouter_cycle (s : State) (k : Nat) (g : Router → Router) : (s.modRouter k g).cycle = s.cycle := rfl
@[simp] theorem modRouter_uses (s : State) (k : Nat) (g : Router → Router) : (s.modRouter k g).uses = s.uses := rfl
@[simp] theorem modRouter_rels (s : State) (k : Nat) (g : Router → Router) : (s.modRouter k g).rels = s.rels := rfl
@[simp] theorem modRouter_foreseen (s : State) (k : Nat) (g : Router → Router) : (s.modRouter k g).foreseen = s.foreseen := rfl
@[simp] theorem modRouter_aheads (s : State) (k : Nat) (g : Router → Router) : (s.modRouter k g).aheads = s.aheads := rfl
@[simp] theorem modRouter_cores (s : State) (k : Nat) (g : Router → Router) : (s.modRouter k g).cores = s.cores := rfl
@[simp] theorem modRouter_tiles (s : State) (k : Nat) (g : Router → Router) : (s.modRouter k g).tiles = s.tiles := rfl
@[simp] theorem modRouter_dies (s : State) (k : Nat) (g : Router → Router) : (s.modRouter k g).dies = s.dies := rfl
@[simp] theorem modRouter_slices (s : State) (k : Nat) (g : Router → Router) : (s.modRouter k g).slices = s.slices := rfl
@[simp] theorem modRouter_dram (s : State) (k : Nat) (g : Router → Router) : (s.modRouter k g).dram = s.dram := rfl
@[simp] theorem modRouter_badLines (s : State) (k : Nat) (g : Router → Router) : (s.modRouter k g).badLines = s.badLines := rfl
@[simp] theorem modRouter_ops (s : State) (k : Nat) (g : Router → Router) : (s.modRouter k g).ops = s.ops := rfl
@[simp] theorem modRouter_msgs (s : State) (k : Nat) (g : Router → Router) : (s.modRouter k g).msgs = s.msgs := rfl
@[simp] theorem modRouter_voids (s : State) (k : Nat) (g : Router → Router) : (s.modRouter k g).voids = s.voids := rfl
@[simp] theorem modRouter_given (s : State) (k : Nat) (g : Router → Router) : (s.modRouter k g).given = s.given := rfl
@[simp] theorem modRouter_flits (s : State) (k : Nat) (g : Router → Router) : (s.modRouter k g).flits = s.flits := rfl
@[simp] theorem modRouter_packs (s : State) (k : Nat) (g : Router → Router) : (s.modRouter k g).packs = s.packs := rfl
@[simp] theorem modRouter_notices (s : State) (k : Nat) (g : Router → Router) : (s.modRouter k g).notices = s.notices := rfl
@[simp] theorem modRouter_acks (s : State) (k : Nat) (g : Router → Router) : (s.modRouter k g).acks = s.acks := rfl
@[simp] theorem modRouter_retired (s : State) (k : Nat) (g : Router → Router) : (s.modRouter k g).retired = s.retired := rfl
@[simp] theorem modRouter_copies (s : State) (k : Nat) (g : Router → Router) : (s.modRouter k g).copies = s.copies := rfl
@[simp] theorem modRouter_colls (s : State) (k : Nat) (g : Router → Router) : (s.modRouter k g).colls = s.colls := rfl
@[simp] theorem modRouter_ctxs (s : State) (k : Nat) (g : Router → Router) : (s.modRouter k g).ctxs = s.ctxs := rfl
@[simp] theorem modRouter_lastTag (s : State) (k : Nat) (g : Router → Router) : (s.modRouter k g).lastTag = s.lastTag := rfl
@[simp] theorem modRouter_acceptSeq (s : State) (k : Nat) (g : Router → Router) : (s.modRouter k g).acceptSeq = s.acceptSeq := rfl
@[simp] theorem modRouter_tenants (s : State) (k : Nat) (g : Router → Router) : (s.modRouter k g).tenants = s.tenants := rfl
@[simp] theorem modRouter_fns (s : State) (k : Nat) (g : Router → Router) : (s.modRouter k g).fns = s.fns := rfl
@[simp] theorem modRouter_streams (s : State) (k : Nat) (g : Router → Router) : (s.modRouter k g).streams = s.streams := rfl
@[simp] theorem modRouter_inval (s : State) (k : Nat) (g : Router → Router) : (s.modRouter k g).inval = s.inval := rfl
@[simp] theorem modRouter_routes (s : State) (k : Nat) (g : Router → Router) : (s.modRouter k g).routes = s.routes := rfl
@[simp] theorem modRouter_conns (s : State) (k : Nat) (g : Router → Router) : (s.modRouter k g).conns = s.conns := rfl
@[simp] theorem modRouter_portsDown (s : State) (k : Nat) (g : Router → Router) : (s.modRouter k g).portsDown = s.portsDown := rfl
@[simp] theorem modRouter_portTurn (s : State) (k : Nat) (g : Router → Router) : (s.modRouter k g).portTurn = s.portTurn := rfl
@[simp] theorem modRouter_netCtxs (s : State) (k : Nat) (g : Router → Router) : (s.modRouter k g).netCtxs = s.netCtxs := rfl
@[simp] theorem modRouter_uePairs (s : State) (k : Nat) (g : Router → Router) : (s.modRouter k g).uePairs = s.uePairs := rfl
@[simp] theorem modRouter_ueJobs (s : State) (k : Nat) (g : Router → Router) : (s.modRouter k g).ueJobs = s.ueJobs := rfl
@[simp] theorem modRouter_ueMsgs (s : State) (k : Nat) (g : Router → Router) : (s.modRouter k g).ueMsgs = s.ueMsgs := rfl
@[simp] theorem modRouter_gangs (s : State) (k : Nat) (g : Router → Router) : (s.modRouter k g).gangs = s.gangs := rfl
@[simp] theorem modRouter_boot (s : State) (k : Nat) (g : Router → Router) : (s.modRouter k g).boot = s.boot := rfl
@[simp] theorem modRouter_policy (s : State) (k : Nat) (g : Router → Router) : (s.modRouter k g).policy = s.policy := rfl

/-! `modFn`. -/
@[simp] theorem modFn_sched (s : State) (k : Nat) (g : PcieFn → PcieFn) : (s.modFn k g).sched = s.sched := rfl
@[simp] theorem modFn_cur (s : State) (k : Nat) (g : PcieFn → PcieFn) : (s.modFn k g).cur = s.cur := rfl
@[simp] theorem modFn_nextId (s : State) (k : Nat) (g : PcieFn → PcieFn) : (s.modFn k g).nextId = s.nextId := rfl
@[simp] theorem modFn_freeIx (s : State) (k : Nat) (g : PcieFn → PcieFn) : (s.modFn k g).freeIx = s.freeIx := rfl
@[simp] theorem modFn_egress (s : State) (k : Nat) (g : PcieFn → PcieFn) : (s.modFn k g).egress = s.egress := rfl
@[simp] theorem modFn_pkg (s : State) (k : Nat) (g : PcieFn → PcieFn) : (s.modFn k g).pkg = s.pkg := rfl
@[simp] theorem modFn_time (s : State) (k : Nat) (g : PcieFn → PcieFn) : (s.modFn k g).time = s.time := rfl
@[simp] theorem modFn_subNs (s : State) (k : Nat) (g : PcieFn → PcieFn) : (s.modFn k g).subNs = s.subNs := rfl
@[simp] theorem modFn_cycle (s : State) (k : Nat) (g : PcieFn → PcieFn) : (s.modFn k g).cycle = s.cycle := rfl
@[simp] theorem modFn_uses (s : State) (k : Nat) (g : PcieFn → PcieFn) : (s.modFn k g).uses = s.uses := rfl
@[simp] theorem modFn_rels (s : State) (k : Nat) (g : PcieFn → PcieFn) : (s.modFn k g).rels = s.rels := rfl
@[simp] theorem modFn_foreseen (s : State) (k : Nat) (g : PcieFn → PcieFn) : (s.modFn k g).foreseen = s.foreseen := rfl
@[simp] theorem modFn_aheads (s : State) (k : Nat) (g : PcieFn → PcieFn) : (s.modFn k g).aheads = s.aheads := rfl
@[simp] theorem modFn_cores (s : State) (k : Nat) (g : PcieFn → PcieFn) : (s.modFn k g).cores = s.cores := rfl
@[simp] theorem modFn_tiles (s : State) (k : Nat) (g : PcieFn → PcieFn) : (s.modFn k g).tiles = s.tiles := rfl
@[simp] theorem modFn_dies (s : State) (k : Nat) (g : PcieFn → PcieFn) : (s.modFn k g).dies = s.dies := rfl
@[simp] theorem modFn_slices (s : State) (k : Nat) (g : PcieFn → PcieFn) : (s.modFn k g).slices = s.slices := rfl
@[simp] theorem modFn_dram (s : State) (k : Nat) (g : PcieFn → PcieFn) : (s.modFn k g).dram = s.dram := rfl
@[simp] theorem modFn_badLines (s : State) (k : Nat) (g : PcieFn → PcieFn) : (s.modFn k g).badLines = s.badLines := rfl
@[simp] theorem modFn_ops (s : State) (k : Nat) (g : PcieFn → PcieFn) : (s.modFn k g).ops = s.ops := rfl
@[simp] theorem modFn_msgs (s : State) (k : Nat) (g : PcieFn → PcieFn) : (s.modFn k g).msgs = s.msgs := rfl
@[simp] theorem modFn_voids (s : State) (k : Nat) (g : PcieFn → PcieFn) : (s.modFn k g).voids = s.voids := rfl
@[simp] theorem modFn_given (s : State) (k : Nat) (g : PcieFn → PcieFn) : (s.modFn k g).given = s.given := rfl
@[simp] theorem modFn_flits (s : State) (k : Nat) (g : PcieFn → PcieFn) : (s.modFn k g).flits = s.flits := rfl
@[simp] theorem modFn_routers (s : State) (k : Nat) (g : PcieFn → PcieFn) : (s.modFn k g).routers = s.routers := rfl
@[simp] theorem modFn_packs (s : State) (k : Nat) (g : PcieFn → PcieFn) : (s.modFn k g).packs = s.packs := rfl
@[simp] theorem modFn_notices (s : State) (k : Nat) (g : PcieFn → PcieFn) : (s.modFn k g).notices = s.notices := rfl
@[simp] theorem modFn_acks (s : State) (k : Nat) (g : PcieFn → PcieFn) : (s.modFn k g).acks = s.acks := rfl
@[simp] theorem modFn_retired (s : State) (k : Nat) (g : PcieFn → PcieFn) : (s.modFn k g).retired = s.retired := rfl
@[simp] theorem modFn_copies (s : State) (k : Nat) (g : PcieFn → PcieFn) : (s.modFn k g).copies = s.copies := rfl
@[simp] theorem modFn_colls (s : State) (k : Nat) (g : PcieFn → PcieFn) : (s.modFn k g).colls = s.colls := rfl
@[simp] theorem modFn_ctxs (s : State) (k : Nat) (g : PcieFn → PcieFn) : (s.modFn k g).ctxs = s.ctxs := rfl
@[simp] theorem modFn_lastTag (s : State) (k : Nat) (g : PcieFn → PcieFn) : (s.modFn k g).lastTag = s.lastTag := rfl
@[simp] theorem modFn_acceptSeq (s : State) (k : Nat) (g : PcieFn → PcieFn) : (s.modFn k g).acceptSeq = s.acceptSeq := rfl
@[simp] theorem modFn_tenants (s : State) (k : Nat) (g : PcieFn → PcieFn) : (s.modFn k g).tenants = s.tenants := rfl
@[simp] theorem modFn_streams (s : State) (k : Nat) (g : PcieFn → PcieFn) : (s.modFn k g).streams = s.streams := rfl
@[simp] theorem modFn_inval (s : State) (k : Nat) (g : PcieFn → PcieFn) : (s.modFn k g).inval = s.inval := rfl
@[simp] theorem modFn_routes (s : State) (k : Nat) (g : PcieFn → PcieFn) : (s.modFn k g).routes = s.routes := rfl
@[simp] theorem modFn_conns (s : State) (k : Nat) (g : PcieFn → PcieFn) : (s.modFn k g).conns = s.conns := rfl
@[simp] theorem modFn_portsDown (s : State) (k : Nat) (g : PcieFn → PcieFn) : (s.modFn k g).portsDown = s.portsDown := rfl
@[simp] theorem modFn_portTurn (s : State) (k : Nat) (g : PcieFn → PcieFn) : (s.modFn k g).portTurn = s.portTurn := rfl
@[simp] theorem modFn_netCtxs (s : State) (k : Nat) (g : PcieFn → PcieFn) : (s.modFn k g).netCtxs = s.netCtxs := rfl
@[simp] theorem modFn_uePairs (s : State) (k : Nat) (g : PcieFn → PcieFn) : (s.modFn k g).uePairs = s.uePairs := rfl
@[simp] theorem modFn_ueJobs (s : State) (k : Nat) (g : PcieFn → PcieFn) : (s.modFn k g).ueJobs = s.ueJobs := rfl
@[simp] theorem modFn_ueMsgs (s : State) (k : Nat) (g : PcieFn → PcieFn) : (s.modFn k g).ueMsgs = s.ueMsgs := rfl
@[simp] theorem modFn_gangs (s : State) (k : Nat) (g : PcieFn → PcieFn) : (s.modFn k g).gangs = s.gangs := rfl
@[simp] theorem modFn_boot (s : State) (k : Nat) (g : PcieFn → PcieFn) : (s.modFn k g).boot = s.boot := rfl
@[simp] theorem modFn_policy (s : State) (k : Nat) (g : PcieFn → PcieFn) : (s.modFn k g).policy = s.policy := rfl

/-! `fresh`. -/
@[simp] theorem fresh_sched (s : State)  : (s.fresh.2).sched = s.sched := rfl
@[simp] theorem fresh_cur (s : State)  : (s.fresh.2).cur = s.cur := rfl
@[simp] theorem fresh_freeIx (s : State)  : (s.fresh.2).freeIx = s.freeIx := rfl
@[simp] theorem fresh_egress (s : State)  : (s.fresh.2).egress = s.egress := rfl
@[simp] theorem fresh_pkg (s : State)  : (s.fresh.2).pkg = s.pkg := rfl
@[simp] theorem fresh_time (s : State)  : (s.fresh.2).time = s.time := rfl
@[simp] theorem fresh_subNs (s : State)  : (s.fresh.2).subNs = s.subNs := rfl
@[simp] theorem fresh_cycle (s : State)  : (s.fresh.2).cycle = s.cycle := rfl
@[simp] theorem fresh_uses (s : State)  : (s.fresh.2).uses = s.uses := rfl
@[simp] theorem fresh_rels (s : State)  : (s.fresh.2).rels = s.rels := rfl
@[simp] theorem fresh_foreseen (s : State)  : (s.fresh.2).foreseen = s.foreseen := rfl
@[simp] theorem fresh_aheads (s : State)  : (s.fresh.2).aheads = s.aheads := rfl
@[simp] theorem fresh_cores (s : State)  : (s.fresh.2).cores = s.cores := rfl
@[simp] theorem fresh_tiles (s : State)  : (s.fresh.2).tiles = s.tiles := rfl
@[simp] theorem fresh_dies (s : State)  : (s.fresh.2).dies = s.dies := rfl
@[simp] theorem fresh_slices (s : State)  : (s.fresh.2).slices = s.slices := rfl
@[simp] theorem fresh_dram (s : State)  : (s.fresh.2).dram = s.dram := rfl
@[simp] theorem fresh_badLines (s : State)  : (s.fresh.2).badLines = s.badLines := rfl
@[simp] theorem fresh_ops (s : State)  : (s.fresh.2).ops = s.ops := rfl
@[simp] theorem fresh_msgs (s : State)  : (s.fresh.2).msgs = s.msgs := rfl
@[simp] theorem fresh_voids (s : State)  : (s.fresh.2).voids = s.voids := rfl
@[simp] theorem fresh_given (s : State)  : (s.fresh.2).given = s.given := rfl
@[simp] theorem fresh_flits (s : State)  : (s.fresh.2).flits = s.flits := rfl
@[simp] theorem fresh_routers (s : State)  : (s.fresh.2).routers = s.routers := rfl
@[simp] theorem fresh_packs (s : State)  : (s.fresh.2).packs = s.packs := rfl
@[simp] theorem fresh_notices (s : State)  : (s.fresh.2).notices = s.notices := rfl
@[simp] theorem fresh_acks (s : State)  : (s.fresh.2).acks = s.acks := rfl
@[simp] theorem fresh_retired (s : State)  : (s.fresh.2).retired = s.retired := rfl
@[simp] theorem fresh_copies (s : State)  : (s.fresh.2).copies = s.copies := rfl
@[simp] theorem fresh_colls (s : State)  : (s.fresh.2).colls = s.colls := rfl
@[simp] theorem fresh_ctxs (s : State)  : (s.fresh.2).ctxs = s.ctxs := rfl
@[simp] theorem fresh_lastTag (s : State)  : (s.fresh.2).lastTag = s.lastTag := rfl
@[simp] theorem fresh_acceptSeq (s : State)  : (s.fresh.2).acceptSeq = s.acceptSeq := rfl
@[simp] theorem fresh_tenants (s : State)  : (s.fresh.2).tenants = s.tenants := rfl
@[simp] theorem fresh_fns (s : State)  : (s.fresh.2).fns = s.fns := rfl
@[simp] theorem fresh_streams (s : State)  : (s.fresh.2).streams = s.streams := rfl
@[simp] theorem fresh_inval (s : State)  : (s.fresh.2).inval = s.inval := rfl
@[simp] theorem fresh_routes (s : State)  : (s.fresh.2).routes = s.routes := rfl
@[simp] theorem fresh_conns (s : State)  : (s.fresh.2).conns = s.conns := rfl
@[simp] theorem fresh_portsDown (s : State)  : (s.fresh.2).portsDown = s.portsDown := rfl
@[simp] theorem fresh_portTurn (s : State)  : (s.fresh.2).portTurn = s.portTurn := rfl
@[simp] theorem fresh_netCtxs (s : State)  : (s.fresh.2).netCtxs = s.netCtxs := rfl
@[simp] theorem fresh_uePairs (s : State)  : (s.fresh.2).uePairs = s.uePairs := rfl
@[simp] theorem fresh_ueJobs (s : State)  : (s.fresh.2).ueJobs = s.ueJobs := rfl
@[simp] theorem fresh_ueMsgs (s : State)  : (s.fresh.2).ueMsgs = s.ueMsgs := rfl
@[simp] theorem fresh_gangs (s : State)  : (s.fresh.2).gangs = s.gangs := rfl
@[simp] theorem fresh_boot (s : State)  : (s.fresh.2).boot = s.boot := rfl
@[simp] theorem fresh_policy (s : State)  : (s.fresh.2).policy = s.policy := rfl

/-! `draw`. -/
@[simp] theorem draw_sched (s : State)  : (s.draw.2).sched = s.sched := rfl
@[simp] theorem draw_cur (s : State)  : (s.draw.2).cur = s.cur := rfl
@[simp] theorem draw_nextId (s : State)  : (s.draw.2).nextId = s.nextId := rfl
@[simp] theorem draw_egress (s : State)  : (s.draw.2).egress = s.egress := rfl
@[simp] theorem draw_pkg (s : State)  : (s.draw.2).pkg = s.pkg := rfl
@[simp] theorem draw_time (s : State)  : (s.draw.2).time = s.time := rfl
@[simp] theorem draw_subNs (s : State)  : (s.draw.2).subNs = s.subNs := rfl
@[simp] theorem draw_cycle (s : State)  : (s.draw.2).cycle = s.cycle := rfl
@[simp] theorem draw_uses (s : State)  : (s.draw.2).uses = s.uses := rfl
@[simp] theorem draw_rels (s : State)  : (s.draw.2).rels = s.rels := rfl
@[simp] theorem draw_foreseen (s : State)  : (s.draw.2).foreseen = s.foreseen := rfl
@[simp] theorem draw_aheads (s : State)  : (s.draw.2).aheads = s.aheads := rfl
@[simp] theorem draw_cores (s : State)  : (s.draw.2).cores = s.cores := rfl
@[simp] theorem draw_tiles (s : State)  : (s.draw.2).tiles = s.tiles := rfl
@[simp] theorem draw_dies (s : State)  : (s.draw.2).dies = s.dies := rfl
@[simp] theorem draw_slices (s : State)  : (s.draw.2).slices = s.slices := rfl
@[simp] theorem draw_dram (s : State)  : (s.draw.2).dram = s.dram := rfl
@[simp] theorem draw_badLines (s : State)  : (s.draw.2).badLines = s.badLines := rfl
@[simp] theorem draw_ops (s : State)  : (s.draw.2).ops = s.ops := rfl
@[simp] theorem draw_msgs (s : State)  : (s.draw.2).msgs = s.msgs := rfl
@[simp] theorem draw_voids (s : State)  : (s.draw.2).voids = s.voids := rfl
@[simp] theorem draw_given (s : State)  : (s.draw.2).given = s.given := rfl
@[simp] theorem draw_flits (s : State)  : (s.draw.2).flits = s.flits := rfl
@[simp] theorem draw_routers (s : State)  : (s.draw.2).routers = s.routers := rfl
@[simp] theorem draw_packs (s : State)  : (s.draw.2).packs = s.packs := rfl
@[simp] theorem draw_notices (s : State)  : (s.draw.2).notices = s.notices := rfl
@[simp] theorem draw_acks (s : State)  : (s.draw.2).acks = s.acks := rfl
@[simp] theorem draw_retired (s : State)  : (s.draw.2).retired = s.retired := rfl
@[simp] theorem draw_copies (s : State)  : (s.draw.2).copies = s.copies := rfl
@[simp] theorem draw_colls (s : State)  : (s.draw.2).colls = s.colls := rfl
@[simp] theorem draw_ctxs (s : State)  : (s.draw.2).ctxs = s.ctxs := rfl
@[simp] theorem draw_lastTag (s : State)  : (s.draw.2).lastTag = s.lastTag := rfl
@[simp] theorem draw_acceptSeq (s : State)  : (s.draw.2).acceptSeq = s.acceptSeq := rfl
@[simp] theorem draw_tenants (s : State)  : (s.draw.2).tenants = s.tenants := rfl
@[simp] theorem draw_fns (s : State)  : (s.draw.2).fns = s.fns := rfl
@[simp] theorem draw_streams (s : State)  : (s.draw.2).streams = s.streams := rfl
@[simp] theorem draw_inval (s : State)  : (s.draw.2).inval = s.inval := rfl
@[simp] theorem draw_routes (s : State)  : (s.draw.2).routes = s.routes := rfl
@[simp] theorem draw_conns (s : State)  : (s.draw.2).conns = s.conns := rfl
@[simp] theorem draw_portsDown (s : State)  : (s.draw.2).portsDown = s.portsDown := rfl
@[simp] theorem draw_portTurn (s : State)  : (s.draw.2).portTurn = s.portTurn := rfl
@[simp] theorem draw_netCtxs (s : State)  : (s.draw.2).netCtxs = s.netCtxs := rfl
@[simp] theorem draw_uePairs (s : State)  : (s.draw.2).uePairs = s.uePairs := rfl
@[simp] theorem draw_ueJobs (s : State)  : (s.draw.2).ueJobs = s.ueJobs := rfl
@[simp] theorem draw_ueMsgs (s : State)  : (s.draw.2).ueMsgs = s.ueMsgs := rfl
@[simp] theorem draw_gangs (s : State)  : (s.draw.2).gangs = s.gangs := rfl
@[simp] theorem draw_boot (s : State)  : (s.draw.2).boot = s.boot := rfl
@[simp] theorem draw_policy (s : State)  : (s.draw.2).policy = s.policy := rfl

/-! `emit`. -/
@[simp] theorem emit_sched (s : State) (e : Egress) : (s.emit e).sched = s.sched := rfl
@[simp] theorem emit_cur (s : State) (e : Egress) : (s.emit e).cur = s.cur := rfl
@[simp] theorem emit_nextId (s : State) (e : Egress) : (s.emit e).nextId = s.nextId := rfl
@[simp] theorem emit_freeIx (s : State) (e : Egress) : (s.emit e).freeIx = s.freeIx := rfl
@[simp] theorem emit_pkg (s : State) (e : Egress) : (s.emit e).pkg = s.pkg := rfl
@[simp] theorem emit_time (s : State) (e : Egress) : (s.emit e).time = s.time := rfl
@[simp] theorem emit_subNs (s : State) (e : Egress) : (s.emit e).subNs = s.subNs := rfl
@[simp] theorem emit_cycle (s : State) (e : Egress) : (s.emit e).cycle = s.cycle := rfl
@[simp] theorem emit_uses (s : State) (e : Egress) : (s.emit e).uses = s.uses := rfl
@[simp] theorem emit_rels (s : State) (e : Egress) : (s.emit e).rels = s.rels := rfl
@[simp] theorem emit_foreseen (s : State) (e : Egress) : (s.emit e).foreseen = s.foreseen := rfl
@[simp] theorem emit_aheads (s : State) (e : Egress) : (s.emit e).aheads = s.aheads := rfl
@[simp] theorem emit_cores (s : State) (e : Egress) : (s.emit e).cores = s.cores := rfl
@[simp] theorem emit_tiles (s : State) (e : Egress) : (s.emit e).tiles = s.tiles := rfl
@[simp] theorem emit_dies (s : State) (e : Egress) : (s.emit e).dies = s.dies := rfl
@[simp] theorem emit_slices (s : State) (e : Egress) : (s.emit e).slices = s.slices := rfl
@[simp] theorem emit_dram (s : State) (e : Egress) : (s.emit e).dram = s.dram := rfl
@[simp] theorem emit_badLines (s : State) (e : Egress) : (s.emit e).badLines = s.badLines := rfl
@[simp] theorem emit_ops (s : State) (e : Egress) : (s.emit e).ops = s.ops := rfl
@[simp] theorem emit_msgs (s : State) (e : Egress) : (s.emit e).msgs = s.msgs := rfl
@[simp] theorem emit_voids (s : State) (e : Egress) : (s.emit e).voids = s.voids := rfl
@[simp] theorem emit_given (s : State) (e : Egress) : (s.emit e).given = s.given := rfl
@[simp] theorem emit_flits (s : State) (e : Egress) : (s.emit e).flits = s.flits := rfl
@[simp] theorem emit_routers (s : State) (e : Egress) : (s.emit e).routers = s.routers := rfl
@[simp] theorem emit_packs (s : State) (e : Egress) : (s.emit e).packs = s.packs := rfl
@[simp] theorem emit_notices (s : State) (e : Egress) : (s.emit e).notices = s.notices := rfl
@[simp] theorem emit_acks (s : State) (e : Egress) : (s.emit e).acks = s.acks := rfl
@[simp] theorem emit_retired (s : State) (e : Egress) : (s.emit e).retired = s.retired := rfl
@[simp] theorem emit_copies (s : State) (e : Egress) : (s.emit e).copies = s.copies := rfl
@[simp] theorem emit_colls (s : State) (e : Egress) : (s.emit e).colls = s.colls := rfl
@[simp] theorem emit_ctxs (s : State) (e : Egress) : (s.emit e).ctxs = s.ctxs := rfl
@[simp] theorem emit_lastTag (s : State) (e : Egress) : (s.emit e).lastTag = s.lastTag := rfl
@[simp] theorem emit_acceptSeq (s : State) (e : Egress) : (s.emit e).acceptSeq = s.acceptSeq := rfl
@[simp] theorem emit_tenants (s : State) (e : Egress) : (s.emit e).tenants = s.tenants := rfl
@[simp] theorem emit_fns (s : State) (e : Egress) : (s.emit e).fns = s.fns := rfl
@[simp] theorem emit_streams (s : State) (e : Egress) : (s.emit e).streams = s.streams := rfl
@[simp] theorem emit_inval (s : State) (e : Egress) : (s.emit e).inval = s.inval := rfl
@[simp] theorem emit_routes (s : State) (e : Egress) : (s.emit e).routes = s.routes := rfl
@[simp] theorem emit_conns (s : State) (e : Egress) : (s.emit e).conns = s.conns := rfl
@[simp] theorem emit_portsDown (s : State) (e : Egress) : (s.emit e).portsDown = s.portsDown := rfl
@[simp] theorem emit_portTurn (s : State) (e : Egress) : (s.emit e).portTurn = s.portTurn := rfl
@[simp] theorem emit_netCtxs (s : State) (e : Egress) : (s.emit e).netCtxs = s.netCtxs := rfl
@[simp] theorem emit_uePairs (s : State) (e : Egress) : (s.emit e).uePairs = s.uePairs := rfl
@[simp] theorem emit_ueJobs (s : State) (e : Egress) : (s.emit e).ueJobs = s.ueJobs := rfl
@[simp] theorem emit_ueMsgs (s : State) (e : Egress) : (s.emit e).ueMsgs = s.ueMsgs := rfl
@[simp] theorem emit_gangs (s : State) (e : Egress) : (s.emit e).gangs = s.gangs := rfl
@[simp] theorem emit_boot (s : State) (e : Egress) : (s.emit e).boot = s.boot := rfl
@[simp] theorem emit_policy (s : State) (e : Egress) : (s.emit e).policy = s.policy := rfl

/-! `goTo`. -/
@[simp] theorem goTo_sched (s : State) (k pc : Nat) : (s.goTo k pc).sched = s.sched := rfl
@[simp] theorem goTo_cur (s : State) (k pc : Nat) : (s.goTo k pc).cur = s.cur := rfl
@[simp] theorem goTo_nextId (s : State) (k pc : Nat) : (s.goTo k pc).nextId = s.nextId := rfl
@[simp] theorem goTo_freeIx (s : State) (k pc : Nat) : (s.goTo k pc).freeIx = s.freeIx := rfl
@[simp] theorem goTo_egress (s : State) (k pc : Nat) : (s.goTo k pc).egress = s.egress := rfl
@[simp] theorem goTo_pkg (s : State) (k pc : Nat) : (s.goTo k pc).pkg = s.pkg := rfl
@[simp] theorem goTo_time (s : State) (k pc : Nat) : (s.goTo k pc).time = s.time := rfl
@[simp] theorem goTo_subNs (s : State) (k pc : Nat) : (s.goTo k pc).subNs = s.subNs := rfl
@[simp] theorem goTo_cycle (s : State) (k pc : Nat) : (s.goTo k pc).cycle = s.cycle := rfl
@[simp] theorem goTo_uses (s : State) (k pc : Nat) : (s.goTo k pc).uses = s.uses := rfl
@[simp] theorem goTo_rels (s : State) (k pc : Nat) : (s.goTo k pc).rels = s.rels := rfl
@[simp] theorem goTo_foreseen (s : State) (k pc : Nat) : (s.goTo k pc).foreseen = s.foreseen := rfl
@[simp] theorem goTo_aheads (s : State) (k pc : Nat) : (s.goTo k pc).aheads = s.aheads := rfl
@[simp] theorem goTo_tiles (s : State) (k pc : Nat) : (s.goTo k pc).tiles = s.tiles := rfl
@[simp] theorem goTo_dies (s : State) (k pc : Nat) : (s.goTo k pc).dies = s.dies := rfl
@[simp] theorem goTo_slices (s : State) (k pc : Nat) : (s.goTo k pc).slices = s.slices := rfl
@[simp] theorem goTo_dram (s : State) (k pc : Nat) : (s.goTo k pc).dram = s.dram := rfl
@[simp] theorem goTo_badLines (s : State) (k pc : Nat) : (s.goTo k pc).badLines = s.badLines := rfl
@[simp] theorem goTo_ops (s : State) (k pc : Nat) : (s.goTo k pc).ops = s.ops := rfl
@[simp] theorem goTo_msgs (s : State) (k pc : Nat) : (s.goTo k pc).msgs = s.msgs := rfl
@[simp] theorem goTo_voids (s : State) (k pc : Nat) : (s.goTo k pc).voids = s.voids := rfl
@[simp] theorem goTo_given (s : State) (k pc : Nat) : (s.goTo k pc).given = s.given := rfl
@[simp] theorem goTo_flits (s : State) (k pc : Nat) : (s.goTo k pc).flits = s.flits := rfl
@[simp] theorem goTo_routers (s : State) (k pc : Nat) : (s.goTo k pc).routers = s.routers := rfl
@[simp] theorem goTo_packs (s : State) (k pc : Nat) : (s.goTo k pc).packs = s.packs := rfl
@[simp] theorem goTo_notices (s : State) (k pc : Nat) : (s.goTo k pc).notices = s.notices := rfl
@[simp] theorem goTo_acks (s : State) (k pc : Nat) : (s.goTo k pc).acks = s.acks := rfl
@[simp] theorem goTo_retired (s : State) (k pc : Nat) : (s.goTo k pc).retired = s.retired := rfl
@[simp] theorem goTo_copies (s : State) (k pc : Nat) : (s.goTo k pc).copies = s.copies := rfl
@[simp] theorem goTo_colls (s : State) (k pc : Nat) : (s.goTo k pc).colls = s.colls := rfl
@[simp] theorem goTo_ctxs (s : State) (k pc : Nat) : (s.goTo k pc).ctxs = s.ctxs := rfl
@[simp] theorem goTo_lastTag (s : State) (k pc : Nat) : (s.goTo k pc).lastTag = s.lastTag := rfl
@[simp] theorem goTo_acceptSeq (s : State) (k pc : Nat) : (s.goTo k pc).acceptSeq = s.acceptSeq := rfl
@[simp] theorem goTo_tenants (s : State) (k pc : Nat) : (s.goTo k pc).tenants = s.tenants := rfl
@[simp] theorem goTo_fns (s : State) (k pc : Nat) : (s.goTo k pc).fns = s.fns := rfl
@[simp] theorem goTo_streams (s : State) (k pc : Nat) : (s.goTo k pc).streams = s.streams := rfl
@[simp] theorem goTo_inval (s : State) (k pc : Nat) : (s.goTo k pc).inval = s.inval := rfl
@[simp] theorem goTo_routes (s : State) (k pc : Nat) : (s.goTo k pc).routes = s.routes := rfl
@[simp] theorem goTo_conns (s : State) (k pc : Nat) : (s.goTo k pc).conns = s.conns := rfl
@[simp] theorem goTo_portsDown (s : State) (k pc : Nat) : (s.goTo k pc).portsDown = s.portsDown := rfl
@[simp] theorem goTo_portTurn (s : State) (k pc : Nat) : (s.goTo k pc).portTurn = s.portTurn := rfl
@[simp] theorem goTo_netCtxs (s : State) (k pc : Nat) : (s.goTo k pc).netCtxs = s.netCtxs := rfl
@[simp] theorem goTo_uePairs (s : State) (k pc : Nat) : (s.goTo k pc).uePairs = s.uePairs := rfl
@[simp] theorem goTo_ueJobs (s : State) (k pc : Nat) : (s.goTo k pc).ueJobs = s.ueJobs := rfl
@[simp] theorem goTo_ueMsgs (s : State) (k pc : Nat) : (s.goTo k pc).ueMsgs = s.ueMsgs := rfl
@[simp] theorem goTo_gangs (s : State) (k pc : Nat) : (s.goTo k pc).gangs = s.gangs := rfl
@[simp] theorem goTo_boot (s : State) (k pc : Nat) : (s.goTo k pc).boot = s.boot := rfl
@[simp] theorem goTo_policy (s : State) (k pc : Nat) : (s.goTo k pc).policy = s.policy := rfl

/-! `advance`. -/
@[simp] theorem advance_sched (s : State) (c : Ctx) : (s.advance c).sched = s.sched := rfl
@[simp] theorem advance_cur (s : State) (c : Ctx) : (s.advance c).cur = s.cur := rfl
@[simp] theorem advance_nextId (s : State) (c : Ctx) : (s.advance c).nextId = s.nextId := rfl
@[simp] theorem advance_freeIx (s : State) (c : Ctx) : (s.advance c).freeIx = s.freeIx := rfl
@[simp] theorem advance_egress (s : State) (c : Ctx) : (s.advance c).egress = s.egress := rfl
@[simp] theorem advance_pkg (s : State) (c : Ctx) : (s.advance c).pkg = s.pkg := rfl
@[simp] theorem advance_time (s : State) (c : Ctx) : (s.advance c).time = s.time := rfl
@[simp] theorem advance_subNs (s : State) (c : Ctx) : (s.advance c).subNs = s.subNs := rfl
@[simp] theorem advance_cycle (s : State) (c : Ctx) : (s.advance c).cycle = s.cycle := rfl
@[simp] theorem advance_uses (s : State) (c : Ctx) : (s.advance c).uses = s.uses := rfl
@[simp] theorem advance_rels (s : State) (c : Ctx) : (s.advance c).rels = s.rels := rfl
@[simp] theorem advance_foreseen (s : State) (c : Ctx) : (s.advance c).foreseen = s.foreseen := rfl
@[simp] theorem advance_aheads (s : State) (c : Ctx) : (s.advance c).aheads = s.aheads := rfl
@[simp] theorem advance_tiles (s : State) (c : Ctx) : (s.advance c).tiles = s.tiles := rfl
@[simp] theorem advance_dies (s : State) (c : Ctx) : (s.advance c).dies = s.dies := rfl
@[simp] theorem advance_slices (s : State) (c : Ctx) : (s.advance c).slices = s.slices := rfl
@[simp] theorem advance_dram (s : State) (c : Ctx) : (s.advance c).dram = s.dram := rfl
@[simp] theorem advance_badLines (s : State) (c : Ctx) : (s.advance c).badLines = s.badLines := rfl
@[simp] theorem advance_ops (s : State) (c : Ctx) : (s.advance c).ops = s.ops := rfl
@[simp] theorem advance_msgs (s : State) (c : Ctx) : (s.advance c).msgs = s.msgs := rfl
@[simp] theorem advance_voids (s : State) (c : Ctx) : (s.advance c).voids = s.voids := rfl
@[simp] theorem advance_given (s : State) (c : Ctx) : (s.advance c).given = s.given := rfl
@[simp] theorem advance_flits (s : State) (c : Ctx) : (s.advance c).flits = s.flits := rfl
@[simp] theorem advance_routers (s : State) (c : Ctx) : (s.advance c).routers = s.routers := rfl
@[simp] theorem advance_packs (s : State) (c : Ctx) : (s.advance c).packs = s.packs := rfl
@[simp] theorem advance_notices (s : State) (c : Ctx) : (s.advance c).notices = s.notices := rfl
@[simp] theorem advance_acks (s : State) (c : Ctx) : (s.advance c).acks = s.acks := rfl
@[simp] theorem advance_retired (s : State) (c : Ctx) : (s.advance c).retired = s.retired := rfl
@[simp] theorem advance_copies (s : State) (c : Ctx) : (s.advance c).copies = s.copies := rfl
@[simp] theorem advance_colls (s : State) (c : Ctx) : (s.advance c).colls = s.colls := rfl
@[simp] theorem advance_ctxs (s : State) (c : Ctx) : (s.advance c).ctxs = s.ctxs := rfl
@[simp] theorem advance_lastTag (s : State) (c : Ctx) : (s.advance c).lastTag = s.lastTag := rfl
@[simp] theorem advance_acceptSeq (s : State) (c : Ctx) : (s.advance c).acceptSeq = s.acceptSeq := rfl
@[simp] theorem advance_tenants (s : State) (c : Ctx) : (s.advance c).tenants = s.tenants := rfl
@[simp] theorem advance_fns (s : State) (c : Ctx) : (s.advance c).fns = s.fns := rfl
@[simp] theorem advance_streams (s : State) (c : Ctx) : (s.advance c).streams = s.streams := rfl
@[simp] theorem advance_inval (s : State) (c : Ctx) : (s.advance c).inval = s.inval := rfl
@[simp] theorem advance_routes (s : State) (c : Ctx) : (s.advance c).routes = s.routes := rfl
@[simp] theorem advance_conns (s : State) (c : Ctx) : (s.advance c).conns = s.conns := rfl
@[simp] theorem advance_portsDown (s : State) (c : Ctx) : (s.advance c).portsDown = s.portsDown := rfl
@[simp] theorem advance_portTurn (s : State) (c : Ctx) : (s.advance c).portTurn = s.portTurn := rfl
@[simp] theorem advance_netCtxs (s : State) (c : Ctx) : (s.advance c).netCtxs = s.netCtxs := rfl
@[simp] theorem advance_uePairs (s : State) (c : Ctx) : (s.advance c).uePairs = s.uePairs := rfl
@[simp] theorem advance_ueJobs (s : State) (c : Ctx) : (s.advance c).ueJobs = s.ueJobs := rfl
@[simp] theorem advance_ueMsgs (s : State) (c : Ctx) : (s.advance c).ueMsgs = s.ueMsgs := rfl
@[simp] theorem advance_gangs (s : State) (c : Ctx) : (s.advance c).gangs = s.gangs := rfl
@[simp] theorem advance_boot (s : State) (c : Ctx) : (s.advance c).boot = s.boot := rfl
@[simp] theorem advance_policy (s : State) (c : Ctx) : (s.advance c).policy = s.policy := rfl

/-! `writeX`. -/
@[simp] theorem writeX_sched (s : State) (c : Ctx) (n : Nat) (v : Word) : (s.writeX c n v).sched = s.sched := rfl
@[simp] theorem writeX_cur (s : State) (c : Ctx) (n : Nat) (v : Word) : (s.writeX c n v).cur = s.cur := rfl
@[simp] theorem writeX_nextId (s : State) (c : Ctx) (n : Nat) (v : Word) : (s.writeX c n v).nextId = s.nextId := rfl
@[simp] theorem writeX_freeIx (s : State) (c : Ctx) (n : Nat) (v : Word) : (s.writeX c n v).freeIx = s.freeIx := rfl
@[simp] theorem writeX_egress (s : State) (c : Ctx) (n : Nat) (v : Word) : (s.writeX c n v).egress = s.egress := rfl
@[simp] theorem writeX_pkg (s : State) (c : Ctx) (n : Nat) (v : Word) : (s.writeX c n v).pkg = s.pkg := rfl
@[simp] theorem writeX_time (s : State) (c : Ctx) (n : Nat) (v : Word) : (s.writeX c n v).time = s.time := rfl
@[simp] theorem writeX_subNs (s : State) (c : Ctx) (n : Nat) (v : Word) : (s.writeX c n v).subNs = s.subNs := rfl
@[simp] theorem writeX_cycle (s : State) (c : Ctx) (n : Nat) (v : Word) : (s.writeX c n v).cycle = s.cycle := rfl
@[simp] theorem writeX_uses (s : State) (c : Ctx) (n : Nat) (v : Word) : (s.writeX c n v).uses = s.uses := rfl
@[simp] theorem writeX_rels (s : State) (c : Ctx) (n : Nat) (v : Word) : (s.writeX c n v).rels = s.rels := rfl
@[simp] theorem writeX_foreseen (s : State) (c : Ctx) (n : Nat) (v : Word) : (s.writeX c n v).foreseen = s.foreseen := rfl
@[simp] theorem writeX_aheads (s : State) (c : Ctx) (n : Nat) (v : Word) : (s.writeX c n v).aheads = s.aheads := rfl
@[simp] theorem writeX_tiles (s : State) (c : Ctx) (n : Nat) (v : Word) : (s.writeX c n v).tiles = s.tiles := rfl
@[simp] theorem writeX_dies (s : State) (c : Ctx) (n : Nat) (v : Word) : (s.writeX c n v).dies = s.dies := rfl
@[simp] theorem writeX_slices (s : State) (c : Ctx) (n : Nat) (v : Word) : (s.writeX c n v).slices = s.slices := rfl
@[simp] theorem writeX_dram (s : State) (c : Ctx) (n : Nat) (v : Word) : (s.writeX c n v).dram = s.dram := rfl
@[simp] theorem writeX_badLines (s : State) (c : Ctx) (n : Nat) (v : Word) : (s.writeX c n v).badLines = s.badLines := rfl
@[simp] theorem writeX_ops (s : State) (c : Ctx) (n : Nat) (v : Word) : (s.writeX c n v).ops = s.ops := rfl
@[simp] theorem writeX_msgs (s : State) (c : Ctx) (n : Nat) (v : Word) : (s.writeX c n v).msgs = s.msgs := rfl
@[simp] theorem writeX_voids (s : State) (c : Ctx) (n : Nat) (v : Word) : (s.writeX c n v).voids = s.voids := rfl
@[simp] theorem writeX_given (s : State) (c : Ctx) (n : Nat) (v : Word) : (s.writeX c n v).given = s.given := rfl
@[simp] theorem writeX_flits (s : State) (c : Ctx) (n : Nat) (v : Word) : (s.writeX c n v).flits = s.flits := rfl
@[simp] theorem writeX_routers (s : State) (c : Ctx) (n : Nat) (v : Word) : (s.writeX c n v).routers = s.routers := rfl
@[simp] theorem writeX_packs (s : State) (c : Ctx) (n : Nat) (v : Word) : (s.writeX c n v).packs = s.packs := rfl
@[simp] theorem writeX_notices (s : State) (c : Ctx) (n : Nat) (v : Word) : (s.writeX c n v).notices = s.notices := rfl
@[simp] theorem writeX_acks (s : State) (c : Ctx) (n : Nat) (v : Word) : (s.writeX c n v).acks = s.acks := rfl
@[simp] theorem writeX_retired (s : State) (c : Ctx) (n : Nat) (v : Word) : (s.writeX c n v).retired = s.retired := rfl
@[simp] theorem writeX_copies (s : State) (c : Ctx) (n : Nat) (v : Word) : (s.writeX c n v).copies = s.copies := rfl
@[simp] theorem writeX_colls (s : State) (c : Ctx) (n : Nat) (v : Word) : (s.writeX c n v).colls = s.colls := rfl
@[simp] theorem writeX_ctxs (s : State) (c : Ctx) (n : Nat) (v : Word) : (s.writeX c n v).ctxs = s.ctxs := rfl
@[simp] theorem writeX_lastTag (s : State) (c : Ctx) (n : Nat) (v : Word) : (s.writeX c n v).lastTag = s.lastTag := rfl
@[simp] theorem writeX_acceptSeq (s : State) (c : Ctx) (n : Nat) (v : Word) : (s.writeX c n v).acceptSeq = s.acceptSeq := rfl
@[simp] theorem writeX_tenants (s : State) (c : Ctx) (n : Nat) (v : Word) : (s.writeX c n v).tenants = s.tenants := rfl
@[simp] theorem writeX_fns (s : State) (c : Ctx) (n : Nat) (v : Word) : (s.writeX c n v).fns = s.fns := rfl
@[simp] theorem writeX_streams (s : State) (c : Ctx) (n : Nat) (v : Word) : (s.writeX c n v).streams = s.streams := rfl
@[simp] theorem writeX_inval (s : State) (c : Ctx) (n : Nat) (v : Word) : (s.writeX c n v).inval = s.inval := rfl
@[simp] theorem writeX_routes (s : State) (c : Ctx) (n : Nat) (v : Word) : (s.writeX c n v).routes = s.routes := rfl
@[simp] theorem writeX_conns (s : State) (c : Ctx) (n : Nat) (v : Word) : (s.writeX c n v).conns = s.conns := rfl
@[simp] theorem writeX_portsDown (s : State) (c : Ctx) (n : Nat) (v : Word) : (s.writeX c n v).portsDown = s.portsDown := rfl
@[simp] theorem writeX_portTurn (s : State) (c : Ctx) (n : Nat) (v : Word) : (s.writeX c n v).portTurn = s.portTurn := rfl
@[simp] theorem writeX_netCtxs (s : State) (c : Ctx) (n : Nat) (v : Word) : (s.writeX c n v).netCtxs = s.netCtxs := rfl
@[simp] theorem writeX_uePairs (s : State) (c : Ctx) (n : Nat) (v : Word) : (s.writeX c n v).uePairs = s.uePairs := rfl
@[simp] theorem writeX_ueJobs (s : State) (c : Ctx) (n : Nat) (v : Word) : (s.writeX c n v).ueJobs = s.ueJobs := rfl
@[simp] theorem writeX_ueMsgs (s : State) (c : Ctx) (n : Nat) (v : Word) : (s.writeX c n v).ueMsgs = s.ueMsgs := rfl
@[simp] theorem writeX_gangs (s : State) (c : Ctx) (n : Nat) (v : Word) : (s.writeX c n v).gangs = s.gangs := rfl
@[simp] theorem writeX_boot (s : State) (c : Ctx) (n : Nat) (v : Word) : (s.writeX c n v).boot = s.boot := rfl
@[simp] theorem writeX_policy (s : State) (c : Ctx) (n : Nat) (v : Word) : (s.writeX c n v).policy = s.policy := rfl

/-! `dropOp`. -/
@[simp] theorem dropOp_sched (s : State) (i : Nat) : (s.dropOp i).sched = s.sched := rfl
@[simp] theorem dropOp_cur (s : State) (i : Nat) : (s.dropOp i).cur = s.cur := rfl
@[simp] theorem dropOp_nextId (s : State) (i : Nat) : (s.dropOp i).nextId = s.nextId := rfl
@[simp] theorem dropOp_freeIx (s : State) (i : Nat) : (s.dropOp i).freeIx = s.freeIx := rfl
@[simp] theorem dropOp_egress (s : State) (i : Nat) : (s.dropOp i).egress = s.egress := rfl
@[simp] theorem dropOp_pkg (s : State) (i : Nat) : (s.dropOp i).pkg = s.pkg := rfl
@[simp] theorem dropOp_time (s : State) (i : Nat) : (s.dropOp i).time = s.time := rfl
@[simp] theorem dropOp_subNs (s : State) (i : Nat) : (s.dropOp i).subNs = s.subNs := rfl
@[simp] theorem dropOp_cycle (s : State) (i : Nat) : (s.dropOp i).cycle = s.cycle := rfl
@[simp] theorem dropOp_uses (s : State) (i : Nat) : (s.dropOp i).uses = s.uses := rfl
@[simp] theorem dropOp_rels (s : State) (i : Nat) : (s.dropOp i).rels = s.rels := rfl
@[simp] theorem dropOp_foreseen (s : State) (i : Nat) : (s.dropOp i).foreseen = s.foreseen := rfl
@[simp] theorem dropOp_aheads (s : State) (i : Nat) : (s.dropOp i).aheads = s.aheads := rfl
@[simp] theorem dropOp_cores (s : State) (i : Nat) : (s.dropOp i).cores = s.cores := rfl
@[simp] theorem dropOp_tiles (s : State) (i : Nat) : (s.dropOp i).tiles = s.tiles := rfl
@[simp] theorem dropOp_dies (s : State) (i : Nat) : (s.dropOp i).dies = s.dies := rfl
@[simp] theorem dropOp_slices (s : State) (i : Nat) : (s.dropOp i).slices = s.slices := rfl
@[simp] theorem dropOp_dram (s : State) (i : Nat) : (s.dropOp i).dram = s.dram := rfl
@[simp] theorem dropOp_badLines (s : State) (i : Nat) : (s.dropOp i).badLines = s.badLines := rfl
@[simp] theorem dropOp_msgs (s : State) (i : Nat) : (s.dropOp i).msgs = s.msgs := rfl
@[simp] theorem dropOp_voids (s : State) (i : Nat) : (s.dropOp i).voids = s.voids := rfl
@[simp] theorem dropOp_given (s : State) (i : Nat) : (s.dropOp i).given = s.given := rfl
@[simp] theorem dropOp_flits (s : State) (i : Nat) : (s.dropOp i).flits = s.flits := rfl
@[simp] theorem dropOp_routers (s : State) (i : Nat) : (s.dropOp i).routers = s.routers := rfl
@[simp] theorem dropOp_packs (s : State) (i : Nat) : (s.dropOp i).packs = s.packs := rfl
@[simp] theorem dropOp_notices (s : State) (i : Nat) : (s.dropOp i).notices = s.notices := rfl
@[simp] theorem dropOp_acks (s : State) (i : Nat) : (s.dropOp i).acks = s.acks := rfl
@[simp] theorem dropOp_retired (s : State) (i : Nat) : (s.dropOp i).retired = s.retired := rfl
@[simp] theorem dropOp_copies (s : State) (i : Nat) : (s.dropOp i).copies = s.copies := rfl
@[simp] theorem dropOp_colls (s : State) (i : Nat) : (s.dropOp i).colls = s.colls := rfl
@[simp] theorem dropOp_ctxs (s : State) (i : Nat) : (s.dropOp i).ctxs = s.ctxs := rfl
@[simp] theorem dropOp_lastTag (s : State) (i : Nat) : (s.dropOp i).lastTag = s.lastTag := rfl
@[simp] theorem dropOp_acceptSeq (s : State) (i : Nat) : (s.dropOp i).acceptSeq = s.acceptSeq := rfl
@[simp] theorem dropOp_tenants (s : State) (i : Nat) : (s.dropOp i).tenants = s.tenants := rfl
@[simp] theorem dropOp_fns (s : State) (i : Nat) : (s.dropOp i).fns = s.fns := rfl
@[simp] theorem dropOp_streams (s : State) (i : Nat) : (s.dropOp i).streams = s.streams := rfl
@[simp] theorem dropOp_inval (s : State) (i : Nat) : (s.dropOp i).inval = s.inval := rfl
@[simp] theorem dropOp_routes (s : State) (i : Nat) : (s.dropOp i).routes = s.routes := rfl
@[simp] theorem dropOp_conns (s : State) (i : Nat) : (s.dropOp i).conns = s.conns := rfl
@[simp] theorem dropOp_portsDown (s : State) (i : Nat) : (s.dropOp i).portsDown = s.portsDown := rfl
@[simp] theorem dropOp_portTurn (s : State) (i : Nat) : (s.dropOp i).portTurn = s.portTurn := rfl
@[simp] theorem dropOp_netCtxs (s : State) (i : Nat) : (s.dropOp i).netCtxs = s.netCtxs := rfl
@[simp] theorem dropOp_uePairs (s : State) (i : Nat) : (s.dropOp i).uePairs = s.uePairs := rfl
@[simp] theorem dropOp_ueJobs (s : State) (i : Nat) : (s.dropOp i).ueJobs = s.ueJobs := rfl
@[simp] theorem dropOp_ueMsgs (s : State) (i : Nat) : (s.dropOp i).ueMsgs = s.ueMsgs := rfl
@[simp] theorem dropOp_gangs (s : State) (i : Nat) : (s.dropOp i).gangs = s.gangs := rfl
@[simp] theorem dropOp_boot (s : State) (i : Nat) : (s.dropOp i).boot = s.boot := rfl
@[simp] theorem dropOp_policy (s : State) (i : Nat) : (s.dropOp i).policy = s.policy := rfl

/-! Reads of the tables. -/

@[simp] theorem setCore_core_same (s : State) (k : Nat) (c : Core) : (s.setCore k c).core k = c := by simp [State.core, State.setCore]
theorem setCore_core_other (s : State) {k j : Nat} (c : Core) (h : j ≠ k) : (s.setCore k c).core j = s.core j := by
  simp [State.core, State.setCore, kgetD_kset_other _ _ _ h]
@[simp] theorem modCore_core_same (s : State) (k : Nat) (g : Core → Core) : (s.modCore k g).core k = g (s.core k) := by simp [State.modCore]
theorem modCore_core_other (s : State) {k j : Nat} (g : Core → Core) (h : j ≠ k) : (s.modCore k g).core j = s.core j := by
  simp [State.modCore, setCore_core_other s _ h]
@[simp] theorem setCore_setCore_same (s : State) (k : Nat) (c d : Core) : (s.setCore k c).setCore k d = s.setCore k d := by
  simp [State.setCore]
@[simp] theorem modCore_modCore_same (s : State) (k : Nat) (g h : Core → Core) : (s.modCore k g).modCore k h = s.modCore k (fun c => h (g c)) := by
  simp [State.modCore]
@[simp] theorem modTile_tile_same (s : State) (k : Nat) (g : Tile → Tile) : (s.modTile k g).tile k = g (s.tile k) := by
  simp [State.tile, State.modTile, State.setTile]
theorem modTile_tile_other (s : State) {k j : Nat} (g : Tile → Tile) (h : j ≠ k) : (s.modTile k g).tile j = s.tile j := by
  simp [State.tile, State.modTile, State.setTile, kgetD_kset_other _ _ _ h]
@[simp] theorem modDie_die_same (s : State) (k : Nat) (g : Die → Die) : (s.modDie k g).die k = g (s.die k) := by
  simp [State.die, State.modDie, State.setDie]
theorem modDie_die_other (s : State) {k j : Nat} (g : Die → Die) (h : j ≠ k) : (s.modDie k g).die j = s.die j := by
  simp [State.die, State.modDie, State.setDie, kgetD_kset_other _ _ _ h]
@[simp] theorem modFn_fn_same (s : State) (k : Nat) (g : PcieFn → PcieFn) : (s.modFn k g).fn k = g (s.fn k) := by
  simp [State.fn, State.modFn]
theorem modFn_fn_other (s : State) {k j : Nat} (g : PcieFn → PcieFn) (h : j ≠ k) : (s.modFn k g).fn j = s.fn j := by
  simp [State.fn, State.modFn, kgetD_kset_other _ _ _ h]
@[simp] theorem modTop_core_same (s : State) (k : Nat) (g : Frame → Frame) :
    (s.modTop k g).core k = { s.core k with frames := modHead g (s.core k).frames } := by simp [State.modTop]

/-! Registers of a frame (01 R19, R20). -/

@[simp] theorem xGet_zero (f : Frame) : f.xGet 0 = 0#64 := rfl
@[simp] theorem kGet_zero (f : Frame) : f.kGet 0 = BitVec.allOnes 64 := rfl
@[simp] theorem xSet_zero (f : Frame) (v : Word) : f.xSet 0 v = f := rfl
@[simp] theorem kSet_zero (f : Frame) (v : Word) : f.kSet 0 v = f := rfl
theorem xGet_xSet_same (f : Frame) {n : Nat} (v : Word) (h : n ≠ 0) : (f.xSet n v).xGet n = v := by simp [Frame.xGet, Frame.xSet, h]
theorem xGet_xSet_other (f : Frame) {n m : Nat} (v : Word) (h : m ≠ n) : (f.xSet n v).xGet m = f.xGet m := by
  unfold Frame.xGet Frame.xSet
  split
  · rfl
  · split
    · rfl
    · exact kgetD_kset_other _ _ _ h
theorem kGet_kSet_same (f : Frame) {n : Nat} (v : Word) (h : n ≠ 0) : (f.kSet n v).kGet n = v := by simp [Frame.kGet, Frame.kSet, h]
theorem kGet_kSet_other (f : Frame) {n m : Nat} (v : Word) (h : m ≠ n) : (f.kSet n v).kGet m = f.kGet m := by
  unfold Frame.kGet Frame.kSet
  split
  · rfl
  · split
    · rfl
    · exact kgetD_kset_other _ _ _ h
@[simp] theorem vGet_vSet_same (f : Frame) (n : Nat) (v : VReg) : (f.vSet n v).vGet n = v := by simp [Frame.vGet, Frame.vSet]
theorem vGet_vSet_other (f : Frame) {n m : Nat} (v : VReg) (h : m ≠ n) : (f.vSet n v).vGet m = f.vGet m := kgetD_kset_other _ _ _ h

@[simp] theorem xSet_kind (f : Frame) (n : Nat) (v : Word) : (f.xSet n v).kind = f.kind := by unfold Frame.xSet; split <;> rfl
@[simp] theorem xSet_task (f : Frame) (n : Nat) (v : Word) : (f.xSet n v).task = f.task := by unfold Frame.xSet; split <;> rfl
@[simp] theorem xSet_level (f : Frame) (n : Nat) (v : Word) : (f.xSet n v).level = f.level := by unfold Frame.xSet; split <;> rfl
@[simp] theorem xSet_ltag (f : Frame) (n : Nat) (v : Word) : (f.xSet n v).ltag = f.ltag := by unfold Frame.xSet; split <;> rfl
@[simp] theorem xSet_handler (f : Frame) (n : Nat) (v : Word) : (f.xSet n v).handler = f.handler := by unfold Frame.xSet; split <;> rfl
@[simp] theorem xSet_pc (f : Frame) (n : Nat) (v : Word) : (f.xSet n v).pc = f.pc := by unfold Frame.xSet; split <;> rfl
@[simp] theorem xSet_v (f : Frame) (n : Nat) (v : Word) : (f.xSet n v).v = f.v := by unfold Frame.xSet; split <;> rfl
@[simp] theorem xSet_k (f : Frame) (n : Nat) (v : Word) : (f.xSet n v).k = f.k := by unfold Frame.xSet; split <;> rfl
@[simp] theorem xSet_thr (f : Frame) (n : Nat) (v : Word) : (f.xSet n v).thr = f.thr := by unfold Frame.xSet; split <;> rfl
@[simp] theorem xSet_item (f : Frame) (n : Nat) (v : Word) : (f.xSet n v).item = f.item := by unfold Frame.xSet; split <;> rfl
@[simp] theorem xSet_acb (f : Frame) (n : Nat) (v : Word) : (f.xSet n v).acb = f.acb := by unfold Frame.xSet; split <;> rfl
@[simp] theorem xSet_arows (f : Frame) (n : Nat) (v : Word) : (f.xSet n v).arows = f.arows := by unfold Frame.xSet; split <;> rfl
@[simp] theorem xSet_fsb (f : Frame) (n : Nat) (v : Word) : (f.xSet n v).fsb = f.fsb := by unfold Frame.xSet; split <;> rfl
@[simp] theorem xSet_fscr (f : Frame) (n : Nat) (v : Word) : (f.xSet n v).fscr = f.fscr := by unfold Frame.xSet; split <;> rfl
@[simp] theorem xSet_wins (f : Frame) (n : Nat) (v : Word) : (f.xSet n v).wins = f.wins := by unfold Frame.xSet; split <;> rfl
@[simp] theorem xSet_exc (f : Frame) (n : Nat) (v : Word) : (f.xSet n v).exc = f.exc := by unfold Frame.xSet; split <;> rfl
@[simp] theorem xSet_claims (f : Frame) (n : Nat) (v : Word) : (f.xSet n v).claims = f.claims := by unfold Frame.xSet; split <;> rfl
@[simp] theorem xSet_src (f : Frame) (n : Nat) (v : Word) : (f.xSet n v).src = f.src := by unfold Frame.xSet; split <;> rfl
@[simp] theorem xSet_lv (f : Frame) (n : Nat) (v : Word) : (f.xSet n v).lv = f.lv := by unfold Frame.xSet; split <;> rfl
@[simp] theorem xSet_pending (f : Frame) (n : Nat) (v : Word) : (f.xSet n v).pending = f.pending := by unfold Frame.xSet; split <;> rfl
@[simp] theorem xSet_late (f : Frame) (n : Nat) (v : Word) : (f.xSet n v).late = f.late := by unfold Frame.xSet; split <;> rfl
@[simp] theorem xSet_start (f : Frame) (n : Nat) (v : Word) : (f.xSet n v).start = f.start := by unfold Frame.xSet; split <;> rfl
@[simp] theorem xSet_usedPlanes (f : Frame) (n : Nat) (v : Word) : (f.xSet n v).usedPlanes = f.usedPlanes := by unfold Frame.xSet; split <;> rfl
@[simp] theorem xSet_lastRemote (f : Frame) (n : Nat) (v : Word) : (f.xSet n v).lastRemote = f.lastRemote := by unfold Frame.xSet; split <;> rfl
@[simp] theorem xSet_lastPredMig (f : Frame) (n : Nat) (v : Word) : (f.xSet n v).lastPredMig = f.lastPredMig := by unfold Frame.xSet; split <;> rfl
@[simp] theorem xSet_spilledX (f : Frame) (n : Nat) (v : Word) : (f.xSet n v).spilledX = f.spilledX := by unfold Frame.xSet; split <;> rfl
@[simp] theorem xSet_slots (f : Frame) (n : Nat) (v : Word) : (f.xSet n v).slots = f.slots := by unfold Frame.xSet; split <;> rfl
@[simp] theorem xSet_gov (f : Frame) (n : Nat) (v : Word) : (f.xSet n v).gov = f.gov := by unfold Frame.xSet; split <;> rfl
@[simp] theorem xSet_origin (f : Frame) (n : Nat) (v : Word) : (f.xSet n v).origin = f.origin := by unfold Frame.xSet; split <;> rfl
@[simp] theorem xSet_migMark (f : Frame) (n : Nat) (v : Word) : (f.xSet n v).migMark = f.migMark := by unfold Frame.xSet; split <;> rfl
@[simp] theorem xSet_mig (f : Frame) (n : Nat) (v : Word) : (f.xSet n v).mig = f.mig := by unfold Frame.xSet; split <;> rfl
@[simp] theorem xSet_idle (f : Frame) (n : Nat) (v : Word) : (f.xSet n v).idle = f.idle := by unfold Frame.xSet; split <;> rfl
@[simp] theorem xSet_arrive (f : Frame) (n : Nat) (v : Word) : (f.xSet n v).arrive = f.arrive := by unfold Frame.xSet; split <;> rfl
@[simp] theorem xSet_hold (f : Frame) (n : Nat) (v : Word) : (f.xSet n v).hold = f.hold := by unfold Frame.xSet; split <;> rfl
@[simp] theorem xSet_follows (f : Frame) (n : Nat) (v : Word) : (f.xSet n v).follows = f.follows := by unfold Frame.xSet; split <;> rfl
@[simp] theorem kSet_kind (f : Frame) (n : Nat) (v : Word) : (f.kSet n v).kind = f.kind := by unfold Frame.kSet; split <;> rfl
@[simp] theorem kSet_task (f : Frame) (n : Nat) (v : Word) : (f.kSet n v).task = f.task := by unfold Frame.kSet; split <;> rfl
@[simp] theorem kSet_level (f : Frame) (n : Nat) (v : Word) : (f.kSet n v).level = f.level := by unfold Frame.kSet; split <;> rfl
@[simp] theorem kSet_ltag (f : Frame) (n : Nat) (v : Word) : (f.kSet n v).ltag = f.ltag := by unfold Frame.kSet; split <;> rfl
@[simp] theorem kSet_handler (f : Frame) (n : Nat) (v : Word) : (f.kSet n v).handler = f.handler := by unfold Frame.kSet; split <;> rfl
@[simp] theorem kSet_pc (f : Frame) (n : Nat) (v : Word) : (f.kSet n v).pc = f.pc := by unfold Frame.kSet; split <;> rfl
@[simp] theorem kSet_x (f : Frame) (n : Nat) (v : Word) : (f.kSet n v).x = f.x := by unfold Frame.kSet; split <;> rfl
@[simp] theorem kSet_v (f : Frame) (n : Nat) (v : Word) : (f.kSet n v).v = f.v := by unfold Frame.kSet; split <;> rfl
@[simp] theorem kSet_thr (f : Frame) (n : Nat) (v : Word) : (f.kSet n v).thr = f.thr := by unfold Frame.kSet; split <;> rfl
@[simp] theorem kSet_item (f : Frame) (n : Nat) (v : Word) : (f.kSet n v).item = f.item := by unfold Frame.kSet; split <;> rfl
@[simp] theorem kSet_acb (f : Frame) (n : Nat) (v : Word) : (f.kSet n v).acb = f.acb := by unfold Frame.kSet; split <;> rfl
@[simp] theorem kSet_arows (f : Frame) (n : Nat) (v : Word) : (f.kSet n v).arows = f.arows := by unfold Frame.kSet; split <;> rfl
@[simp] theorem kSet_fsb (f : Frame) (n : Nat) (v : Word) : (f.kSet n v).fsb = f.fsb := by unfold Frame.kSet; split <;> rfl
@[simp] theorem kSet_fscr (f : Frame) (n : Nat) (v : Word) : (f.kSet n v).fscr = f.fscr := by unfold Frame.kSet; split <;> rfl
@[simp] theorem kSet_wins (f : Frame) (n : Nat) (v : Word) : (f.kSet n v).wins = f.wins := by unfold Frame.kSet; split <;> rfl
@[simp] theorem kSet_exc (f : Frame) (n : Nat) (v : Word) : (f.kSet n v).exc = f.exc := by unfold Frame.kSet; split <;> rfl
@[simp] theorem kSet_claims (f : Frame) (n : Nat) (v : Word) : (f.kSet n v).claims = f.claims := by unfold Frame.kSet; split <;> rfl
@[simp] theorem kSet_src (f : Frame) (n : Nat) (v : Word) : (f.kSet n v).src = f.src := by unfold Frame.kSet; split <;> rfl
@[simp] theorem kSet_lv (f : Frame) (n : Nat) (v : Word) : (f.kSet n v).lv = f.lv := by unfold Frame.kSet; split <;> rfl
@[simp] theorem kSet_pending (f : Frame) (n : Nat) (v : Word) : (f.kSet n v).pending = f.pending := by unfold Frame.kSet; split <;> rfl
@[simp] theorem kSet_late (f : Frame) (n : Nat) (v : Word) : (f.kSet n v).late = f.late := by unfold Frame.kSet; split <;> rfl
@[simp] theorem kSet_start (f : Frame) (n : Nat) (v : Word) : (f.kSet n v).start = f.start := by unfold Frame.kSet; split <;> rfl
@[simp] theorem kSet_usedPlanes (f : Frame) (n : Nat) (v : Word) : (f.kSet n v).usedPlanes = f.usedPlanes := by unfold Frame.kSet; split <;> rfl
@[simp] theorem kSet_lastRemote (f : Frame) (n : Nat) (v : Word) : (f.kSet n v).lastRemote = f.lastRemote := by unfold Frame.kSet; split <;> rfl
@[simp] theorem kSet_lastPredMig (f : Frame) (n : Nat) (v : Word) : (f.kSet n v).lastPredMig = f.lastPredMig := by unfold Frame.kSet; split <;> rfl
@[simp] theorem kSet_spilledX (f : Frame) (n : Nat) (v : Word) : (f.kSet n v).spilledX = f.spilledX := by unfold Frame.kSet; split <;> rfl
@[simp] theorem kSet_slots (f : Frame) (n : Nat) (v : Word) : (f.kSet n v).slots = f.slots := by unfold Frame.kSet; split <;> rfl
@[simp] theorem kSet_gov (f : Frame) (n : Nat) (v : Word) : (f.kSet n v).gov = f.gov := by unfold Frame.kSet; split <;> rfl
@[simp] theorem kSet_origin (f : Frame) (n : Nat) (v : Word) : (f.kSet n v).origin = f.origin := by unfold Frame.kSet; split <;> rfl
@[simp] theorem kSet_migMark (f : Frame) (n : Nat) (v : Word) : (f.kSet n v).migMark = f.migMark := by unfold Frame.kSet; split <;> rfl
@[simp] theorem kSet_mig (f : Frame) (n : Nat) (v : Word) : (f.kSet n v).mig = f.mig := by unfold Frame.kSet; split <;> rfl
@[simp] theorem kSet_idle (f : Frame) (n : Nat) (v : Word) : (f.kSet n v).idle = f.idle := by unfold Frame.kSet; split <;> rfl
@[simp] theorem kSet_arrive (f : Frame) (n : Nat) (v : Word) : (f.kSet n v).arrive = f.arrive := by unfold Frame.kSet; split <;> rfl
@[simp] theorem kSet_hold (f : Frame) (n : Nat) (v : Word) : (f.kSet n v).hold = f.hold := by unfold Frame.kSet; split <;> rfl
@[simp] theorem kSet_follows (f : Frame) (n : Nat) (v : Word) : (f.kSet n v).follows = f.follows := by unfold Frame.kSet; split <;> rfl
@[simp] theorem vSet_kind (f : Frame) (n : Nat) (v : VReg) : (f.vSet n v).kind = f.kind := rfl
@[simp] theorem vSet_task (f : Frame) (n : Nat) (v : VReg) : (f.vSet n v).task = f.task := rfl
@[simp] theorem vSet_level (f : Frame) (n : Nat) (v : VReg) : (f.vSet n v).level = f.level := rfl
@[simp] theorem vSet_ltag (f : Frame) (n : Nat) (v : VReg) : (f.vSet n v).ltag = f.ltag := rfl
@[simp] theorem vSet_handler (f : Frame) (n : Nat) (v : VReg) : (f.vSet n v).handler = f.handler := rfl
@[simp] theorem vSet_pc (f : Frame) (n : Nat) (v : VReg) : (f.vSet n v).pc = f.pc := rfl
@[simp] theorem vSet_x (f : Frame) (n : Nat) (v : VReg) : (f.vSet n v).x = f.x := rfl
@[simp] theorem vSet_k (f : Frame) (n : Nat) (v : VReg) : (f.vSet n v).k = f.k := rfl
@[simp] theorem vSet_thr (f : Frame) (n : Nat) (v : VReg) : (f.vSet n v).thr = f.thr := rfl
@[simp] theorem vSet_item (f : Frame) (n : Nat) (v : VReg) : (f.vSet n v).item = f.item := rfl
@[simp] theorem vSet_acb (f : Frame) (n : Nat) (v : VReg) : (f.vSet n v).acb = f.acb := rfl
@[simp] theorem vSet_arows (f : Frame) (n : Nat) (v : VReg) : (f.vSet n v).arows = f.arows := rfl
@[simp] theorem vSet_fsb (f : Frame) (n : Nat) (v : VReg) : (f.vSet n v).fsb = f.fsb := rfl
@[simp] theorem vSet_fscr (f : Frame) (n : Nat) (v : VReg) : (f.vSet n v).fscr = f.fscr := rfl
@[simp] theorem vSet_wins (f : Frame) (n : Nat) (v : VReg) : (f.vSet n v).wins = f.wins := rfl
@[simp] theorem vSet_exc (f : Frame) (n : Nat) (v : VReg) : (f.vSet n v).exc = f.exc := rfl
@[simp] theorem vSet_claims (f : Frame) (n : Nat) (v : VReg) : (f.vSet n v).claims = f.claims := rfl
@[simp] theorem vSet_src (f : Frame) (n : Nat) (v : VReg) : (f.vSet n v).src = f.src := rfl
@[simp] theorem vSet_lv (f : Frame) (n : Nat) (v : VReg) : (f.vSet n v).lv = f.lv := rfl
@[simp] theorem vSet_pending (f : Frame) (n : Nat) (v : VReg) : (f.vSet n v).pending = f.pending := rfl
@[simp] theorem vSet_late (f : Frame) (n : Nat) (v : VReg) : (f.vSet n v).late = f.late := rfl
@[simp] theorem vSet_start (f : Frame) (n : Nat) (v : VReg) : (f.vSet n v).start = f.start := rfl
@[simp] theorem vSet_usedPlanes (f : Frame) (n : Nat) (v : VReg) : (f.vSet n v).usedPlanes = f.usedPlanes := rfl
@[simp] theorem vSet_lastRemote (f : Frame) (n : Nat) (v : VReg) : (f.vSet n v).lastRemote = f.lastRemote := rfl
@[simp] theorem vSet_lastPredMig (f : Frame) (n : Nat) (v : VReg) : (f.vSet n v).lastPredMig = f.lastPredMig := rfl
@[simp] theorem vSet_spilledX (f : Frame) (n : Nat) (v : VReg) : (f.vSet n v).spilledX = f.spilledX := rfl
@[simp] theorem vSet_slots (f : Frame) (n : Nat) (v : VReg) : (f.vSet n v).slots = f.slots := rfl
@[simp] theorem vSet_gov (f : Frame) (n : Nat) (v : VReg) : (f.vSet n v).gov = f.gov := rfl
@[simp] theorem vSet_origin (f : Frame) (n : Nat) (v : VReg) : (f.vSet n v).origin = f.origin := rfl
@[simp] theorem vSet_migMark (f : Frame) (n : Nat) (v : VReg) : (f.vSet n v).migMark = f.migMark := rfl
@[simp] theorem vSet_mig (f : Frame) (n : Nat) (v : VReg) : (f.vSet n v).mig = f.mig := rfl
@[simp] theorem vSet_idle (f : Frame) (n : Nat) (v : VReg) : (f.vSet n v).idle = f.idle := rfl
@[simp] theorem vSet_arrive (f : Frame) (n : Nat) (v : VReg) : (f.vSet n v).arrive = f.arrive := rfl
@[simp] theorem vSet_hold (f : Frame) (n : Nat) (v : VReg) : (f.vSet n v).hold = f.hold := rfl
@[simp] theorem vSet_follows (f : Frame) (n : Nat) (v : VReg) : (f.vSet n v).follows = f.follows := rfl
@[simp] theorem modLv_kind (f : Frame) (g : LevelState → LevelState) : (f.modLv g).kind = f.kind := rfl
@[simp] theorem modLv_task (f : Frame) (g : LevelState → LevelState) : (f.modLv g).task = f.task := rfl
@[simp] theorem modLv_level (f : Frame) (g : LevelState → LevelState) : (f.modLv g).level = f.level := rfl
@[simp] theorem modLv_ltag (f : Frame) (g : LevelState → LevelState) : (f.modLv g).ltag = f.ltag := rfl
@[simp] theorem modLv_handler (f : Frame) (g : LevelState → LevelState) : (f.modLv g).handler = f.handler := rfl
@[simp] theorem modLv_pc (f : Frame) (g : LevelState → LevelState) : (f.modLv g).pc = f.pc := rfl
@[simp] theorem modLv_x (f : Frame) (g : LevelState → LevelState) : (f.modLv g).x = f.x := rfl
@[simp] theorem modLv_v (f : Frame) (g : LevelState → LevelState) : (f.modLv g).v = f.v := rfl
@[simp] theorem modLv_k (f : Frame) (g : LevelState → LevelState) : (f.modLv g).k = f.k := rfl
@[simp] theorem modLv_thr (f : Frame) (g : LevelState → LevelState) : (f.modLv g).thr = f.thr := rfl
@[simp] theorem modLv_item (f : Frame) (g : LevelState → LevelState) : (f.modLv g).item = f.item := rfl
@[simp] theorem modLv_acb (f : Frame) (g : LevelState → LevelState) : (f.modLv g).acb = f.acb := rfl
@[simp] theorem modLv_arows (f : Frame) (g : LevelState → LevelState) : (f.modLv g).arows = f.arows := rfl
@[simp] theorem modLv_fsb (f : Frame) (g : LevelState → LevelState) : (f.modLv g).fsb = f.fsb := rfl
@[simp] theorem modLv_fscr (f : Frame) (g : LevelState → LevelState) : (f.modLv g).fscr = f.fscr := rfl
@[simp] theorem modLv_wins (f : Frame) (g : LevelState → LevelState) : (f.modLv g).wins = f.wins := rfl
@[simp] theorem modLv_exc (f : Frame) (g : LevelState → LevelState) : (f.modLv g).exc = f.exc := rfl
@[simp] theorem modLv_claims (f : Frame) (g : LevelState → LevelState) : (f.modLv g).claims = f.claims := rfl
@[simp] theorem modLv_src (f : Frame) (g : LevelState → LevelState) : (f.modLv g).src = f.src := rfl
@[simp] theorem modLv_pending (f : Frame) (g : LevelState → LevelState) : (f.modLv g).pending = f.pending := rfl
@[simp] theorem modLv_late (f : Frame) (g : LevelState → LevelState) : (f.modLv g).late = f.late := rfl
@[simp] theorem modLv_start (f : Frame) (g : LevelState → LevelState) : (f.modLv g).start = f.start := rfl
@[simp] theorem modLv_usedPlanes (f : Frame) (g : LevelState → LevelState) : (f.modLv g).usedPlanes = f.usedPlanes := rfl
@[simp] theorem modLv_lastRemote (f : Frame) (g : LevelState → LevelState) : (f.modLv g).lastRemote = f.lastRemote := rfl
@[simp] theorem modLv_lastPredMig (f : Frame) (g : LevelState → LevelState) : (f.modLv g).lastPredMig = f.lastPredMig := rfl
@[simp] theorem modLv_spilledX (f : Frame) (g : LevelState → LevelState) : (f.modLv g).spilledX = f.spilledX := rfl
@[simp] theorem modLv_slots (f : Frame) (g : LevelState → LevelState) : (f.modLv g).slots = f.slots := rfl
@[simp] theorem modLv_gov (f : Frame) (g : LevelState → LevelState) : (f.modLv g).gov = f.gov := rfl
@[simp] theorem modLv_origin (f : Frame) (g : LevelState → LevelState) : (f.modLv g).origin = f.origin := rfl
@[simp] theorem modLv_migMark (f : Frame) (g : LevelState → LevelState) : (f.modLv g).migMark = f.migMark := rfl
@[simp] theorem modLv_mig (f : Frame) (g : LevelState → LevelState) : (f.modLv g).mig = f.mig := rfl
@[simp] theorem modLv_idle (f : Frame) (g : LevelState → LevelState) : (f.modLv g).idle = f.idle := rfl
@[simp] theorem modLv_arrive (f : Frame) (g : LevelState → LevelState) : (f.modLv g).arrive = f.arrive := rfl
@[simp] theorem modLv_hold (f : Frame) (g : LevelState → LevelState) : (f.modLv g).hold = f.hold := rfl
@[simp] theorem modLv_follows (f : Frame) (g : LevelState → LevelState) : (f.modLv g).follows = f.follows := rfl

end Sys2Proof.Machine
end

