-- ==== Sys2Proof/Laws/Issue.lean ====
section
/-! SUPPORT. What the shared operations of issue can do: a ready bundle runs its own body; the states after it in terms of the running
frame; the trap of a check. -/

namespace Sys2Proof.Machine

/-- The running frame is the top of the current core's stack. -/
theorem running_frames {s : State} {f : Frame} (h : s.running = some f) : (s.core s.cur).frames = f :: (s.core s.cur).frames.tail := by
  unfold State.running State.top at h
  split at h
  · rename_i g hg
    have : g = f := by
      split at h <;> simp_all
    subst this
    cases hc : (s.core s.cur).frames with
    | nil => simp [hc] at hg
    | cons x xs => simp [hc] at hg; simp [hg]
  · cases h

/-- What a meaning is given about a ready bundle. -/
def readyCtx (s : State) (op : Op) (w : Bundle) (f : Frame) : Ctx :=
  { core := s.cur, f := f, op := op, w := w, iword := f.pc + 2 * w.chainLength, next := f.pc + 2 * w.chainLength + 2 }

/-- Only a bundle that tells of a result changes what has been read ahead before it. -/
theorem beforeResult_none {s : State} {c : Ctx} (h : givesResult c.op = false) : s.beforeResult c = s := by simp [State.beforeResult, h]

/-- A ready bundle that its predicate lets through, and every vector bundle and job, runs its body. -/
theorem bundle_ready {op : Op} {w : Bundle} {s : State} {f : Frame} {body : Ctx → State → State} (h : Ready s op w f)
    (e : isVector op = true ∨ isJob op = true ∨ Enabled f w) :
    bundle op w s body = .next (body (readyCtx s op w f) (s.beforeResult (readyCtx s op w f))) := by
  obtain ⟨h1, h2, h3, h4, h5, h6, h7⟩ := h
  have e' : (isVector op || isJob op || (readyCtx s op w f).active) = true := by
    rcases e with e | e | e
    · simp [e]
    · simp [e]
    · simp only [Enabled] at e; simp [readyCtx, Ctx.active, e]
  simp only [readyCtx] at e'
  simp only [bundle, h1, State.checked, h2, h3, h4, h5, h6, h7, readyCtx]
  simp only [Option.isSome_none, Bool.not_true, Bool.and_self, Bool.false_eq_true, if_false, e', if_true]

/-- A ready scalar bundle whose predicate is 0 runs nothing of its own. -/
theorem bundle_skipped {op : Op} {w : Bundle} {s : State} {f : Frame} {body : Ctx → State → State} (h : Ready s op w f)
    (v : isVector op = false) (j : isJob op = false) (e : ¬ Enabled f w) : bundle op w s body = .next (s.skip (readyCtx s op w f)) := by
  obtain ⟨h1, h2, h3, h4, h5, h6, h7⟩ := h
  have e' : (isVector op || isJob op || (readyCtx s op w f).active) = false := by
    simp only [v, j, Bool.false_or]; simpa [Enabled, readyCtx, Ctx.active] using e
  simp only [readyCtx] at e'
  simp only [bundle, h1, State.checked, h2, h3, h4, h5, h6, h7, readyCtx]
  simp only [Option.isSome_none, Bool.not_true, Bool.and_self, Bool.false_eq_true, if_false, e']

/-- A change of the running frame and a move of its program counter. -/
theorem modTop_goTo {s : State} {f : Frame} (h : s.running = some f) (pc : Nat) (g : Frame → Frame) :
    (s.modTop s.cur g).goTo s.cur pc = s.withRunning { g f with pc := pc % 2 ^ 64 } := by
  have := running_frames h
  simp only [State.modTop, State.goTo, State.modCore, State.setCore, State.core, kgetD_kset_same, kset_kset_same, State.withRunning] at *
  rw [this]; simp [modHead]

theorem goTo_running {s : State} {f : Frame} (h : s.running = some f) (pc : Nat) :
    s.goTo s.cur pc = s.withRunning { f with pc := pc % 2 ^ 64 } := by
  have := running_frames h
  simp only [State.goTo, State.modCore, State.setCore, State.withRunning]
  rw [this]; simp [modHead]

/-- A ready bundle with one scalar result. -/
theorem scalar_result {op : Op} {w : Bundle} {s : State} {f : Frame} (h : Ready s op w f) (g : givesResult op = false) (e : Enabled f w)
    (n : Nat) (v : Ctx → State → Word) :
    bundle op w s (fun c s => s.writeX c n (v c s)) = .next (s.withResult f w n (v (readyCtx s op w f) s)) := by
  rw [bundle_ready h (.inr (.inr e)), beforeResult_none g]
  simp only [State.writeX, State.advance, State.withResult, nextPc, instrWordAt]
  exact congrArg _ (modTop_goTo h.1 _ _)

/-- The two sources of a bundle in its short and its long form (R83). -/
theorem twoSources_eq (w : Bundle) :
    twoSources w = (if w.rgx.isSome then fieldB w else fieldA w, if w.rgx.isSome then fieldC w else fieldB w) := by
  unfold twoSources; split <;> rfl

/-- A bundle outside the profile of a core that is no Yarrow core, and one with illegal fields, traps whatever else holds (R82). -/
theorem bundle_illegal {op : Op} {w : Bundle} {s : State} {f : Frame} {body : Ctx → State → State} (h : s.running = some f)
    (m : f.mig = none) (p : op.prof.has (profileOf s.cur) = true) (l : (legal op w && coreOk s.cur op w) = false) :
    bundle op w s body = .next (s.exact s.cur .illegal 0#64) := by
  simp [bundle, h, State.checked, m, p, l]

/-- A bundle that waits for a register leaves the state as it is (R196). -/
theorem bundle_stalls {op : Op} {w : Bundle} {s : State} {f : Frame} {body : Ctx → State → State} (h : s.running = some f)
    (m : f.mig = none) (p : op.prof.has (profileOf s.cur) = true) (l : (legal op w && coreOk s.cur op w) = true)
    (x : windowsOk f op w = true) (z : s.hazards s.cur f (allNamed op w) = .stall) : bundle op w s body = .next s := by
  simp [bundle, h, State.checked, m, p, l, x, z]

end Sys2Proof.Machine
end

