-- ==== Sys2Proof/Laws/Encoded.lean ====
section
/-! SUPPORT. Every encoded instruction passes through `bundle`, with the operation and the fields that its encoding names. -/

namespace Sys2Proof.Machine

/-- An encoded instruction is the bundle of its operation with an effect of its own. -/
theorem exec_bundle {i : Instr} {op : Op} {w : Bundle} (h : i.code? = some (op, w)) :
    ∃ body : Ctx → State → State, ∀ s, exec i s = bundle op w s body := by
  cases i <;> first | (cases h; exact ⟨_, fun _ => rfl⟩) | cases h

end Sys2Proof.Machine
end

