-- ==== Sys2Proof/Laws/Memory.lean ====
section
/-! SUPPORT. Laws of byte memories: a read after a write, and the canonical form, which every operation keeps. -/

namespace Sys2Proof.Machine

theorem memWfFrom_mono {lo hi : Nat} (h : lo ≤ hi) (m : Mem) (w : memWfFrom hi m = true) : memWfFrom lo m = true := by
  cases m with
  | nil => rfl
  | cons c rest =>
    obtain ⟨j, v⟩ := c
    simp only [memWfFrom, Bool.and_eq_true, decide_eq_true_eq] at w ⊢
    exact ⟨⟨Nat.le_trans h w.1.1, w.1.2⟩, w.2⟩

theorem memGet_below (m : Mem) {lo a : Nat} (w : memWfFrom lo m = true) (h : a < lo) : memGet m a = memDefault := by
  induction m generalizing lo with
  | nil => rfl
  | cons c rest ih =>
    obtain ⟨j, v⟩ := c
    simp only [memWfFrom, Bool.and_eq_true, decide_eq_true_eq] at w
    have hj : j ≠ a := by omega
    simp only [memGet, hj, if_false]
    exact ih w.2 (by omega)

theorem memCons_wf {lo a : Nat} {v : Byte} {m : Mem} (h : lo ≤ a) (w : memWfFrom (a + 1) m = true) : memWfFrom lo (memCons a v m) = true := by
  unfold memCons
  split
  · exact memWfFrom_mono (by omega) m w
  · rename_i hv; simp [memWfFrom, h, hv, w]

theorem memSet_wfFrom (m : Mem) {lo a : Nat} (v : Byte) (w : memWfFrom lo m = true) (h : lo ≤ a) : memWfFrom lo (memSet m a v) = true := by
  induction m generalizing lo with
  | nil => exact memCons_wf h rfl
  | cons c rest ih =>
    obtain ⟨j, u⟩ := c
    simp only [memWfFrom, Bool.and_eq_true, decide_eq_true_eq] at w
    simp only [memSet]
    split
    · rename_i ha
      refine memCons_wf h ?_
      have hu := w.1.2
      simp [memWfFrom, w.2, hu]; omega
    · split
      · rename_i ha hj; subst hj; exact memCons_wf h w.2
      · rename_i ha hj
        have hu := w.1.2
        simp only [memWfFrom, Bool.and_eq_true, decide_eq_true_eq]
        exact ⟨⟨w.1.1, hu⟩, ih w.2 (by omega)⟩

/-- A byte written keeps the canonical form. -/
theorem memSet_wf (m : Mem) (a : Nat) (v : Byte) (w : memWf m = true) : memWf (memSet m a v) = true :=
  memSet_wfFrom m v w (Nat.zero_le a)

theorem memSetBytes_wf (b : List Byte) (m : Mem) (a : Nat) (w : memWf m = true) : memWf (memSetBytes m a b) = true := by
  induction b generalizing m a with
  | nil => exact w
  | cons x xs ih => exact ih _ _ (memSet_wf m a x w)

theorem memSetN_wf (m : Mem) (a n v : Nat) (w : memWf m = true) : memWf (memSetN m a n v) = true := memSetBytes_wf _ m a w

theorem memClear_wfFrom (m : Mem) {lo : Nat} (a n : Nat) (w : memWfFrom lo m = true) : memWfFrom lo (memClear m a n) = true := by
  induction m generalizing lo with
  | nil => rfl
  | cons c rest ih =>
    obtain ⟨j, u⟩ := c
    simp only [memWfFrom, Bool.and_eq_true, decide_eq_true_eq] at w
    have := ih w.2
    simp only [memClear, List.filter_cons] at this ⊢
    split
    · simp only [memWfFrom, Bool.and_eq_true, decide_eq_true_eq]; exact ⟨w.1, this⟩
    · exact memWfFrom_mono (by omega) _ this

theorem memClear_wf (m : Mem) (a n : Nat) (w : memWf m = true) : memWf (memClear m a n) = true := memClear_wfFrom m a n w

theorem memGet_memCons_same {a : Nat} {v : Byte} {m : Mem} (w : memWfFrom (a + 1) m = true) : memGet (memCons a v m) a = v := by
  unfold memCons
  split
  · rename_i h; rw [h]; exact memGet_below m w (by omega)
  · simp [memGet]

theorem memGet_memCons_other {a b : Nat} {v : Byte} {m : Mem} (h : b ≠ a) : memGet (memCons a v m) b = memGet m b := by
  unfold memCons
  split
  · rfl
  · simp [memGet, Ne.symm h]

theorem memGet_memSet_sameFrom (m : Mem) {lo a : Nat} (v : Byte) (w : memWfFrom lo m = true) : memGet (memSet m a v) a = v := by
  induction m generalizing lo with
  | nil => exact memGet_memCons_same rfl
  | cons c rest ih =>
    obtain ⟨j, u⟩ := c
    simp only [memWfFrom, Bool.and_eq_true, decide_eq_true_eq] at w
    simp only [memSet]
    split
    · refine memGet_memCons_same ?_
      have hu := w.1.2
      simp [memWfFrom, w.2, hu]; omega
    · split
      · rename_i ha hj; subst hj; exact memGet_memCons_same w.2
      · rename_i ha hj; simp only [memGet, hj, if_false]; exact ih w.2

/-- Reading a byte just written gives it. -/
theorem memGet_memSet_same (m : Mem) (a : Nat) (v : Byte) (w : memWf m = true) : memGet (memSet m a v) a = v :=
  memGet_memSet_sameFrom m v w

/-- Every other byte reads as before. -/
theorem memGet_memSet_other (m : Mem) {a b : Nat} (v : Byte) (h : b ≠ a) : memGet (memSet m a v) b = memGet m b := by
  induction m with
  | nil => exact memGet_memCons_other h
  | cons c rest ih =>
    obtain ⟨j, u⟩ := c
    simp only [memSet]
    split
    · exact memGet_memCons_other h
    · split
      · rename_i ha hj; subst hj; rw [memGet_memCons_other h]; simp [memGet, Ne.symm h]
      · simp [memGet, ih]

/-- Bytes outside a written range read as before. -/
theorem memGet_memSetBytes_other (b : List Byte) (m : Mem) (a c : Nat) (h : c < a ∨ a + b.length ≤ c) :
    memGet (memSetBytes m a b) c = memGet m c := by
  induction b generalizing m a with
  | nil => rfl
  | cons x xs ih =>
    simp only [List.length_cons] at h
    simp only [memSetBytes]
    rw [ih _ _ (by omega), memGet_memSet_other m x (by omega)]

end Sys2Proof.Machine
end

