-- ==== Sys2Proof/Laws/Homes.lean ====
section
/-! SUPPORT. Reading a byte at a home after a byte has been stored there (spec 10 R282): the byte stored, and every other byte as it was. -/

namespace Sys2Proof.Machine

/-- A line after a byte has been stored in the lines of its number. -/
def CLine.stored (c : CLine) (pa : Nat) (b : Byte) : CLine := { c with data := c.data.set (pa % 64) b, dirty := true }

theorem findLine_setLineByte (l : List CLine) (pa line : Nat) (b : Byte) :
    findLine (setLineByte l pa b) line = (findLine l line).map (fun c => if c.line = pa / 64 then c.stored pa b else c) := by
  induction l with
  | nil => rfl
  | cons c l ih =>
    unfold findLine setLineByte at ih ⊢
    rw [List.map_cons, List.find?_cons, List.find?_cons, ih]
    have same : ((if c.serves 0 (pa / 64) && !c.res then { c with data := c.data.set (pa % 64) b, dirty := true } else c : CLine).serves 0 line &&
        !(if c.serves 0 (pa / 64) && !c.res then { c with data := c.data.set (pa % 64) b, dirty := true } else c : CLine).res) =
        (c.serves 0 line && !c.res) := by split <;> rfl
    rw [same]
    cases q : (c.serves 0 line && !c.res) with
    | false => rfl
    | true =>
      have e : (c.serves 0 (pa / 64) && !c.res) = decide (c.line = pa / 64) := by
        unfold CLine.serves at q ⊢
        revert q
        by_cases n : c.line = pa / 64 <;> cases c.res <;> cases c.replica <;> simp [n]
      simp only [e, Option.map_some, decide_eq_true_eq]
      rfl

theorem findLine_line {l : List CLine} {line : Nat} {c : CLine} (h : findLine l line = some c) : c.line = line := by
  have := List.find?_some h
  simp only [CLine.serves, Bool.and_eq_true, beq_iff_eq] at this
  exact this.1.1

theorem homeLines_setHomeLines (s : State) (policy home : Nat) (l : List CLine) : (s.setHomeLines policy home l).homeLines policy home = l := by
  unfold State.setHomeLines State.homeLines
  split
  · simp [State.tile, State.modTile, State.setTile, kgetD_kset_same]
  · simp [kgetD_kset_same]

theorem setHomeLines_dram (s : State) (policy home : Nat) (l : List CLine) : (s.setHomeLines policy home l).dram = s.dram := by
  unfold State.setHomeLines; split <;> rfl

/-- The line that serves an access, when that is not one of a replica, is the home's own. -/
theorem lineAt_eq (s : State) {policy : Nat} (home line : Nat) (p : policy ≠ 8) :
    s.lineAt policy home line = findLine (s.homeLines policy home) line := by
  have e : (policy == 8) = false := by simpa using p
  simp only [State.lineAt, findLine, CLine.serves, e]
  rfl

/-- One byte read at a home of this package. -/
theorem readHome_byte (s : State) {policy : Nat} (home a : Nat) (p : policy ≠ 8) :
    s.readHome policy home a 1 = [match findLine (s.homeLines policy home) (a / 64) with
      | some c => c.data.getD (a % 64) 0#8
      | none => memGet s.dram a] := by
  simp only [State.readHome, lineAt_eq _ _ _ p, List.range_succ, List.range_zero, List.nil_append, List.map_cons, List.map_nil, Nat.add_zero]
  all_goals rfl

theorem readHome_writeHomeByte (s : State) {policy : Nat} (home pa a : Nat) (b : Byte) (p : policy ≠ 8) (m : memWf s.dram = true)
    (h : ∀ c, findLine (s.homeLines policy home) (pa / 64) = some c → c.data.length = 64) :
    (s.writeHomeByte policy home pa b).readHome policy home a 1 = if a = pa then [b] else s.readHome policy home a 1 := by
  rw [readHome_byte _ _ _ p, readHome_byte _ _ _ p]
  simp only [State.writeHomeByte]
  cases e : findLine (s.homeLines policy home) (pa / 64) with
  | some c =>
    have len := h c e
    have ln := findLine_line e
    simp only [Option.isSome_some, if_true, homeLines_setHomeLines, findLine_setLineByte, setHomeLines_dram]
    by_cases q : a = pa
    · subst q
      simp [e, ln, CLine.stored, len, Nat.mod_lt]
    · rw [if_neg q]
      cases g : findLine (s.homeLines policy home) (a / 64) with
      | none => rfl
      | some d =>
        have ld := findLine_line g
        simp only [Option.map_some]
        by_cases k : d.line = pa / 64
        · have x : pa % 64 ≠ a % 64 := by omega
          simp [k, CLine.stored, List.getD_eq_getElem?_getD, x]
        · rw [if_neg k]
  | none =>
    simp only [Option.isSome_none, Bool.false_eq_true, if_false]
    by_cases q : a = pa
    · subst q
      simp only [if_true, State.homeLines] at e ⊢
      simp [State.tile] at e ⊢
      rw [e]; simp [memGet_memSet_same _ _ _ m]
    · rw [if_neg q, memGet_memSet_other _ _ q]
      rfl

end Sys2Proof.Machine
end

