-- ==== Sys2Proof/Laws/Keeps.lean ====
section
/-! SUPPORT. What the shared operations leave as it is: the tenant table, and the canonical form of the bytes of DRAM. One lemma for each
operation over memory, events, frames and traps, and one for the checks of a bundle, so that a proof about every step unfolds none of
them. -/

namespace Sys2Proof.Machine

/-- The tenant table is the same, and a memory in canonical form is still in it. -/
def Keeps (s t : State) : Prop := t.tenants = s.tenants ∧ (memWf s.dram = true → memWf t.dram = true)

theorem Keeps.refl (s : State) : Keeps s s := ⟨rfl, id⟩
theorem Keeps.trans {s t u : State} (h : Keeps s t) (g : Keeps t u) : Keeps s u := ⟨g.1.trans h.1, fun m => g.2 (h.2 m)⟩

/-- A step that changes neither the table nor DRAM. -/
theorem Keeps.of_eq {s t : State} (a : t.tenants = s.tenants) (b : t.dram = s.dram) : Keeps s t := ⟨a, fun m => b ▸ m⟩

theorem keeps_ite {s t u : State} {p : Prop} [Decidable p] (h : Keeps s t) (g : Keeps s u) : Keeps s (if p then t else u) := by
  split
  · exact h
  · exact g

theorem keeps_foldl {α : Type} (f : State → α → State) (h : ∀ s a, Keeps s (f s a)) (l : List α) (s : State) : Keeps s (l.foldl f s) := by
  induction l generalizing s with
  | nil => exact .refl s
  | cons a l ih => exact (h s a).trans (ih _)

/-! Updates of one entry. -/

theorem keeps_modCore (s : State) (k : Nat) (f : Core → Core) : Keeps s (s.modCore k f) := .of_eq rfl rfl
theorem keeps_modTile (s : State) (t : Nat) (f : Tile → Tile) : Keeps s (s.modTile t f) := .of_eq rfl rfl
theorem keeps_modDie (s : State) (d : Nat) (f : Die → Die) : Keeps s (s.modDie d f) := .of_eq rfl rfl
theorem keeps_modRouter (s : State) (r : Nat) (f : Router → Router) : Keeps s (s.modRouter r f) := .of_eq rfl rfl
theorem keeps_modFn (s : State) (n : Nat) (f : PcieFn → PcieFn) : Keeps s (s.modFn n f) := .of_eq rfl rfl
theorem keeps_emit (s : State) (e : Egress) : Keeps s (s.emit e) := .of_eq rfl rfl
theorem keeps_fresh (s : State) : Keeps s s.fresh.2 := .of_eq rfl rfl
theorem keeps_draw (s : State) : Keeps s s.draw.2 := .of_eq rfl rfl
theorem keeps_modTop (s : State) (k : Nat) (f : Frame → Frame) : Keeps s (s.modTop k f) := .of_eq rfl rfl
theorem keeps_modTask (s : State) (k n : Nat) (f : Frame → Frame) : Keeps s (s.modTask k n f) := .of_eq rfl rfl
theorem keeps_goTo (s : State) (k pc : Nat) : Keeps s (s.goTo k pc) := .of_eq rfl rfl
theorem keeps_advance (s : State) (c : Ctx) : Keeps s (s.advance c) := .of_eq rfl rfl
theorem keeps_writeX (s : State) (c : Ctx) (n : Nat) (v : Word) : Keeps s (s.writeX c n v) := .of_eq rfl rfl
theorem keeps_dropOp (s : State) (id : Nat) : Keeps s (s.dropOp id) := .of_eq rfl rfl
theorem keeps_lowerFor (s : State) (o : MemOp) : Keeps s (s.lowerFor o) := .of_eq rfl rfl

theorem keeps_modCtx (s : State) (tag : Nat) (f : Context → Context) : Keeps s (s.modCtx tag f) := by
  unfold State.modCtx; split <;> exact .of_eq rfl rfl
theorem keeps_modColl (s : State) (id : Nat) (f : Collective → Collective) : Keeps s (s.modColl id f) := by
  unfold State.modColl; split <;> exact .of_eq rfl rfl
theorem keeps_modOp (s : State) (id : Nat) (f : MemOp → MemOp) : Keeps s (s.modOp id f) := by
  unfold State.modOp; split <;> exact .of_eq rfl rfl

theorem keeps_freeFollowers (s : State) (tile n : Nat) : Keeps s (s.freeFollowers tile n) :=
  keeps_foldl _ (fun s i => by dsimp only; split <;> exact .of_eq rfl rfl) _ s
theorem keeps_closeStream (s : State) (k : Nat) : Keeps s (s.closeStream k) := by
  unfold State.closeStream; split
  · exact (keeps_freeFollowers _ _ _).trans (keeps_modCore _ _ _)
  · exact .refl s

/-! Memory. -/

theorem keeps_setHomeLines (s : State) (policy home : Nat) (l : List CLine) : Keeps s (s.setHomeLines policy home l) := by
  unfold State.setHomeLines; split <;> exact .of_eq rfl rfl
theorem keeps_useLine (s : State) (policy home line : Nat) (nt : Bool) : Keeps s (s.useLine policy home line nt) :=
  .trans (.of_eq rfl rfl) (keeps_setHomeLines _ _ _ _)
theorem keeps_writeHomeByte (s : State) (policy home pa : Nat) (b : Byte) : Keeps s (s.writeHomeByte policy home pa b) := by
  simp only [State.writeHomeByte]; split
  · exact keeps_setHomeLines _ _ _ _
  · exact ⟨rfl, memSet_wf _ _ _⟩
theorem keeps_writeHome (b : List Byte) (s : State) (policy home pa : Nat) : Keeps s (s.writeHome policy home pa b) := by
  induction b generalizing s pa with
  | nil => exact .refl s
  | cons x b ih => exact (keeps_writeHomeByte _ _ _ _ _).trans (ih _ _)
theorem keeps_writeBack (s : State) (c : CLine) : Keeps s (s.writeBack c) := by
  unfold State.writeBack; split
  · exact ⟨rfl, memSetBytes_wf _ _ _⟩
  · exact .refl s
theorem keeps_reserveLine (s : State) (policy home line : Nat) : Keeps s (s.reserveLine policy home line) := by
  unfold State.reserveLine; split
  · exact .refl s
  · split
    · dsimp only; split
      · exact .of_eq rfl rfl
      · have e : Keeps s { s with uses := s.uses + 1 } := .of_eq rfl rfl
        exact (e.trans (keeps_foldl _ keeps_writeBack _ _)).trans (keeps_modTile _ _ _)
    · dsimp only; split
      · exact keeps_setHomeLines _ _ _ _
      · split
        · exact .trans (keeps_draw s) ((keeps_writeBack _ _).trans (keeps_setHomeLines _ _ _ _))
        · exact keeps_draw s
theorem keeps_placeLine (s : State) (policy home line : Nat) : Keeps s (s.placeLine policy home line) :=
  (keeps_reserveLine s policy home line).trans (keeps_setHomeLines _ _ _ _)
theorem keeps_acceptLine (s : State) (policy home line : Nat) (nt : Bool) : Keeps s (s.acceptLine policy home line nt) :=
  keeps_ite (keeps_useLine _ _ _ _ _) (keeps_reserveLine _ _ _ _)
theorem keeps_acceptAccess (s : State) (id : Nat) (o : MemOp) (e : Elem) : Keeps s (s.acceptAccess id o e) := by
  unfold State.acceptAccess; split
  · refine keeps_ite (.refl s) ?_
    exact keeps_ite ((keeps_acceptLine _ _ _ _ _).trans (keeps_modOp _ _ _)) (.refl s)
  · exact .refl s
theorem keeps_acceptEarlier (s : State) (core id : Nat) : Keeps s (s.acceptEarlier core id) :=
  keeps_foldl _ (fun t _ => keeps_ite (keeps_foldl _ (fun u _ => keeps_ite (keeps_acceptAccess _ _ _ _) (.refl u)) _ t) (.refl t)) _ s
theorem keeps_bringLine (s : State) (core : Nat) (p : Phys) : Keeps s (s.bringLine core p) := by
  unfold State.bringLine
  exact keeps_ite (.refl s) ((keeps_acceptEarlier _ _ _).trans (.trans (keeps_ite (.refl _) (keeps_placeLine _ _ _ _)) (keeps_useLine _ _ _ _ _)))
theorem keeps_bringNear (s : State) (core : Nat) (p : Phys) : Keeps s (s.bringNear core p) :=
  keeps_ite (.refl s) (keeps_bringLine _ _ _)
theorem keeps_noteAccess (b s : State) (core : Nat) (l : Loc) (n : Nat) : Keeps s (b.noteAccess s core l n) := .of_eq rfl rfl
theorem keeps_forget (s : State) (core id : Nat) : Keeps s (s.forget core id) := .of_eq rfl rfl
theorem keeps_acquiredAt (s : State) (core scope id : Nat) : Keeps s (s.acquiredAt core scope id) := .of_eq rfl rfl
theorem keeps_passAcquires (s : State) (core id : Nat) : Keeps s (s.passAcquires core id) := by
  unfold State.passAcquires; dsimp only; split <;> exact .of_eq rfl rfl

theorem keeps_lookup (s : State) (core tenant va : Nat) : Keeps s (s.lookup core tenant va).2 := by
  unfold State.lookup; split
  · dsimp only; split
    · exact .refl s
    · split
      · exact .refl s
      · exact (keeps_draw s).trans ((keeps_modTile _ _ _).trans (keeps_modDie _ _ _))
  · exact .refl s
theorem keeps_translate (s : State) (core tenant : Nat) (va : Word) (need : Need) : Keeps s (s.translate core tenant va need).2 := by
  unfold State.translate; split
  · exact .refl s
  · have h := keeps_lookup s core tenant (va.toNat % 2 ^ 57)
    revert h; dsimp only
    cases s.lookup core tenant (va.toNat % 2 ^ 57) with
    | mk o t => intro h; cases o <;> dsimp only <;> (try split) <;> exact h
theorem keeps_readPieces (l : List (Word × Nat)) (s : State) (core tenant : Nat) (need : Need) :
    Keeps s (s.readPieces core tenant need l).2 := by
  induction l generalizing s with
  | nil => exact .refl s
  | cons x l ih =>
    obtain ⟨va, n⟩ := x
    have h := keeps_translate s core tenant va need
    revert h; unfold State.readPieces
    cases s.translate core tenant va need with
    | mk o t =>
      intro h
      cases o with
      | error c => cases c <;> exact h
      | ok p =>
        dsimp only; split
        · exact h
        · split
          · exact h
          · have b := h.trans (keeps_bringNear t core p)
            split
            · have note : Keeps (t.bringNear core p) (if need == .load then
                  ((if (t.bringNear core p).farFrom core p then t.bringNear core p
                    else (t.bringNear core p).noteAccess (t.bringNear core p) core p.loc n).passAcquires core (t.bringNear core p).nextId)
                else t.bringNear core p) :=
                keeps_ite ((keeps_ite (.refl _) (keeps_noteAccess _ _ _ _ _)).trans (keeps_passAcquires _ _ _)) (.refl _)
              revert note
              generalize (if need == .load then
                  ((if (t.bringNear core p).farFrom core p then t.bringNear core p
                    else (t.bringNear core p).noteAccess (t.bringNear core p) core p.loc n).passAcquires core (t.bringNear core p).nextId)
                else t.bringNear core p) = v
              intro note
              have g := ih v
              revert g
              cases v.readPieces core tenant need l with
              | mk r u => intro g; cases r <;> exact (b.trans note).trans g
            all_goals exact b
theorem keeps_readV (s : State) (core tenant : Nat) (va : Word) (n : Nat) (need : Need) : Keeps s (s.readV core tenant va n need).2 :=
  keeps_readPieces _ s core tenant need
theorem keeps_fetch16 (s : State) (core tenant : Nat) (va : Word) : Keeps s (s.fetch16 core tenant va).2 := by
  have h := keeps_translate s core tenant va .fetch
  revert h; unfold State.fetch16
  cases s.translate core tenant va .fetch with
  | mk o t =>
    intro h
    cases o with
    | error c => cases c <;> exact h
    | ok p =>
      dsimp only; split
      · exact h
      · split
        · exact h
        · split
          · exact h
          · have b := h.trans (keeps_bringNear t core { p with pa := p.pa / 64 * 64 })
            split
            · exact b.trans ((keeps_draw _).trans (keeps_modCore _ _ _))
            all_goals exact b

/-! Writes of the X9's own agents, completion entries. -/

theorem keeps_ownOp (s : State) (tenant : Nat) (p : Phys) (va : Word) (n data : Nat) (k : OpKind) (l : List Nat) (ord : Nat) :
    Keeps s (s.ownOp tenant p va n data k l ord) := .of_eq rfl rfl
theorem keeps_ownWritePieces (l : List (Word × Nat)) (s : State) (tenant : Nat) (after : List Nat) (ord : Nat) (b : List Byte) :
    Keeps s (s.ownWritePieces tenant after ord b l) := by
  induction l generalizing s b with
  | nil => exact .refl s
  | cons x l ih =>
    obtain ⟨va, n⟩ := x
    unfold State.ownWritePieces
    refine .trans ?_ (ih _ _)
    split
    · exact keeps_ite (keeps_ownOp _ _ _ _ _ _ _ _ _) (keeps_ite (keeps_emit _ _) (keeps_writeHome _ _ _ _ _))
    · exact .refl s
theorem keeps_ownWriteAs (s : State) (tenant : Nat) (va : Word) (b : List Byte) (after : List Nat) (ord : Nat) :
    Keeps s (s.ownWriteAs tenant va b after ord) := keeps_ownWritePieces _ s tenant after ord b

/-! Messages. -/

theorem keeps_inject (s : State) (router : Nat) (m : Msg) (n pref : Nat) : Keeps s (s.inject router m n pref) := by
  simp only [State.inject]; split <;> exact .of_eq rfl rfl
theorem keeps_sendInternal (s : State) (kind src dst n tag : Nat) (ev : EvKind) : Keeps s (s.sendInternal kind src dst n tag ev) :=
  keeps_inject _ _ _ _ _
theorem keeps_sendRequests (s : State) (core tag id : Nat) (l : List Elem) (store : Bool) : Keeps s (s.sendRequests core tag id l store) :=
  keeps_foldl _ (fun t x => by dsimp only; split <;> first | exact keeps_sendInternal _ _ _ _ _ _ _ | exact .refl t) _ s
theorem keeps_requestBytes (s : State) (core tenant : Nat) (p : Phys) (n : Nat) : Keeps s (s.requestBytes core tenant p n) := by
  unfold State.requestBytes; split
  · exact .refl s
  · exact .trans (.of_eq rfl rfl) (keeps_ite (keeps_sendRequests _ _ _ _ _ _) (.refl _))

/-! Completion entries. -/

theorem keeps_askConsumed (s : State) (tag : Nat) (c : Context) : Keeps s (s.askConsumed tag c) := by
  unfold State.askConsumed; split
  · split
    · split
      · exact (keeps_modCtx _ _ _).trans (.of_eq rfl rfl)
      · exact keeps_requestBytes _ _ _ _ _
      · exact .of_eq rfl rfl
    · exact .refl s
  · exact .refl s
theorem keeps_cqPut (s : State) (tag : Nat) (e : CqEntry) : Keeps s (s.cqPut tag e) := by
  unfold State.cqPut; split
  · exact .refl s
  · exact (keeps_ownWriteAs _ _ _ _ _ _).trans (keeps_modCtx _ _ _)
theorem keeps_cqFlush (n : Nat) (s : State) (tag : Nat) : Keeps s (s.cqFlush tag n) := by
  induction n generalizing s with
  | zero => exact .refl s
  | succ n ih =>
    unfold State.cqFlush; split
    · exact .refl s
    · split
      · exact .refl s
      · dsimp only; split
        · exact keeps_askConsumed _ _ _
        · exact .trans (keeps_ite ((keeps_cqPut _ _ _).trans (keeps_modCtx _ _ _)) ((keeps_cqPut _ _ _).trans (keeps_modCtx _ _ _))) (ih _)
        · exact ((keeps_askConsumed _ _ _).trans ((keeps_modCtx _ _ _).trans (keeps_modCtx _ _ _))).trans (ih _)
theorem keeps_cqEntry (s : State) (tag kind status cause : Nat) (a b c : Word) : Keeps s (s.cqEntry tag kind status cause a b c) :=
  (keeps_modCtx _ _ _).trans (keeps_cqFlush _ _ _)
theorem keeps_report (s : State) (tag status cause : Nat) (a b c : Word) : Keeps s (s.report tag status cause a b c) :=
  keeps_cqEntry _ _ _ _ _ _ _ _

/-! Events. -/

theorem keeps_raise (s : State) (core : Nat) (e : REvent) (t : Target) (l : List Nat) : Keeps s (s.raise core e t l) :=
  keeps_inject _ _ _ _ _
theorem keeps_release (s : State) (core tag : Nat) (item : Word) (d : Descr) (l : List Nat) : Keeps s (s.release core tag item d l) :=
  keeps_raise _ _ _ _ _
theorem keeps_takePending (s : State) (core : Nat) : Keeps s (s.takePending core).2 := by
  unfold State.takePending; split <;> exact .of_eq rfl rfl

/-! Pushes, pops and traps. -/

theorem keeps_frameWord (s : State) (core tenant : Nat) (h : Word) : Keeps s (s.frameWord core tenant h).2 := by
  have k := keeps_readV s core tenant (h - 4#64) 4 .fetch
  revert k; unfold State.frameWord
  cases s.readV core tenant (h - 4#64) 4 .fetch with
  | mk r t => intro k; cases r <;> exact k
theorem keeps_clearGateway (s : State) (core tag start size : Nat) : Keeps s (s.clearGateway core tag start size) := by
  unfold State.clearGateway; split
  · exact (keeps_modTile _ _ _).trans (keeps_modCore _ _ _)
  · exact .refl s
theorem keeps_dropBuffers (s : State) (core : Nat) : Keeps s (s.dropBuffers core) := .of_eq rfl rfl
theorem spillOver_wf (l : List (Nat × List Byte)) (m : Mem) (base : Nat) (w : memWf m = true) : memWf (spillOver m base l) = true := by
  unfold spillOver
  induction l generalizing m with
  | nil => exact w
  | cons u l ih => exact ih _ (memSetBytes_wf _ _ _ w)
theorem memGet_spillOver_other (l : List (Nat × List Byte)) (m : Mem) (base c : Nat)
    (h : ∀ u ∈ l, c < base + 384 * u.1 ∨ base + 384 * u.1 + u.2.length ≤ c) : memGet (spillOver m base l) c = memGet m c := by
  unfold spillOver
  induction l generalizing m with
  | nil => rfl
  | cons u l ih =>
    exact (ih _ (fun x hx => h x (List.mem_cons_of_mem _ hx))).trans (memGet_memSetBytes_other _ _ _ _ (h u List.mem_cons_self))
theorem keeps_spill (s : State) (core tag : Nat) (a b : List Frame) : Keeps s (s.spill core tag a b) := by
  unfold State.spill; split
  · exact keeps_modTile _ _ _
  · exact .refl s
theorem keeps_pushWith {s t : State} {core : Nat} {kind : FrameKind} {e : REvent} {exc : ExcRegs} {w : Nat} {bad : Option (Cause × Word)}
    (h : s.pushWith core kind e exc w bad = some t) : Keeps s t := by
  unfold State.pushWith at h
  extract_lets at h
  split at h
  · cases h
  · injection h with h; rw [← h]
    exact (keeps_fresh s).trans ((keeps_closeStream _ _).trans ((keeps_clearGateway _ _ _ _ _).trans
      ((keeps_dropBuffers _ _).trans ((keeps_forget _ _ _).trans ((keeps_acquiredAt _ _ _ _).trans ((keeps_modCore _ _ _).trans
        (keeps_spill _ _ _ _ _)))))))
theorem keeps_retire (s : State) (core tag : Nat) (r : Nat × Nat) : Keeps s (s.retire core tag r) :=
  .trans (.of_eq rfl rfl) (keeps_sendInternal _ _ _ _ _ _ _)
theorem keeps_notify (s : State) (core tag origin task : Nat) (l : List Nat) (r : List Rel) : Keeps s (s.notify core tag origin task l r) :=
  .trans (.of_eq rfl rfl) (keeps_sendInternal _ _ _ _ _ _ _)
theorem keeps_leave (s : State) (core : Nat) (f : Frame) : Keeps s (s.leave core f) := by
  unfold State.leave
  cases f.gov <;> cases f.origin <;> exact .refl s
theorem keeps_pop (s : State) (core : Nat) : Keeps s (s.pop core) := by
  unfold State.pop; split
  · exact .refl s
  · exact (((keeps_leave _ _ _).trans (keeps_closeStream _ _)).trans (keeps_dropBuffers _ _)).trans (keeps_modCore _ _ _)
theorem keeps_failBlock (s : State) (id block status : Nat) (l : List Nat) : Keeps s (s.failBlock id block status l) := keeps_modColl _ _ _
theorem keeps_reportFrame (s : State) (f : Frame) (status cause : Nat) (a b : Word) : Keeps s (s.reportFrame f status cause a b) := by
  unfold State.reportFrame; split
  · split
    · split
      · exact keeps_modOp _ _ _
      · exact .trans (keeps_report _ _ _ _ _ _ _) (keeps_ite (keeps_modOp _ _ _) (.of_eq rfl rfl))
    · exact .refl s
  · exact (keeps_report _ _ _ _ _ _ _).trans (keeps_failBlock _ _ _ _ _)
  · exact keeps_modOp _ _ _
  · exact keeps_report _ _ _ _ _ _ _
theorem keeps_muteTask (s : State) (core task : Nat) : Keeps s (s.muteTask core task) := .of_eq rfl rfl
theorem keeps_discard (s : State) (core status cause : Nat) (a b : Word) : Keeps s (s.discard core status cause a b) := by
  unfold State.discard; split
  · exact .refl s
  · exact ((keeps_reportFrame _ _ _ _ _ _).trans (keeps_muteTask _ _ _)).trans (keeps_pop _ _)
theorem keeps_discardFrozen (s : State) (z : Option (Nat × Frame)) (h : Frame) : Keeps s (s.discardFrozen z h) := by
  unfold State.discardFrozen; split
  · exact .refl s
  · exact keeps_ite (keeps_discard _ _ _ _ _ _) ((((keeps_reportFrame _ _ _ _ _ _).trans (keeps_muteTask _ _ _)).trans (keeps_leave _ _ _)).trans (keeps_modCore _ _ _))
theorem keeps_push (s : State) (core : Nat) (kind : FrameKind) (e : REvent) (exc : ExcRegs) : Keeps s (s.push core kind e exc).2 := by
  have k := keeps_frameWord s core (s.tenantOf e.ltag) e.handler
  have own : Keeps s ((s.pushWith core kind e exc 0 none).getD s) := by
    cases h : s.pushWith core kind e exc 0 none with
    | none => exact .refl s
    | some t => exact keeps_pushWith h
  revert k; unfold State.push; split
  · intro _; exact own
  · cases s.frameWord core (s.tenantOf e.ltag) e.handler with
    | mk r t =>
      intro k
      cases r with
      | wait p n => exact k.trans (keeps_requestBytes _ _ _ _ _)
      | busy => exact k
      | ecc =>
        dsimp only
        cases h : t.pushWith core kind e exc 0 none with
        | none => exact k
        | some u => exact (k.trans (keeps_pushWith h)).trans (keeps_discard _ _ _ _ _ _)
      | word w bad =>
        dsimp only
        cases h : t.pushWith core kind e exc w bad with
        | none => exact k
        | some u => exact k.trans (keeps_pushWith h)
theorem keeps_takeTrap (s : State) (core : Nat) (cause : Cause) (epc : Nat) (a : Word) (n : Nat) : Keeps s (s.takeTrap core cause epc a n) := by
  unfold State.takeTrap; split
  · exact .refl s
  · dsimp only; split
    · exact .trans (keeps_discard _ _ _ _ _ _) (keeps_ite (keeps_discardFrozen _ _ _) (.refl _))
    · split
      · exact keeps_discard _ _ _ _ _ _
      · refine .trans ?_ (keeps_push _ _ _ _ _)
        split
        · exact keeps_failBlock _ _ _ _ _
        · exact .refl s
theorem keeps_trapReturn (s : State) (core : Nat) (failed : Bool) : Keeps s (s.trapReturn core failed) := by
  unfold State.trapReturn; split
  · exact .refl s
  · dsimp only; split
    · exact (keeps_pop _ _).trans (keeps_discardFrozen _ _ _)
    · split
      · exact keeps_pop _ _
      · exact (keeps_pop _ _).trans (keeps_modTask _ _ _ _)
theorem keeps_exact (s : State) (core : Nat) (cause : Cause) (a : Word) : Keeps s (s.exact core cause a) := by
  unfold State.exact; split
  · exact .trans (.of_eq rfl rfl) (keeps_takeTrap _ _ _ _ _ _)
  · exact .refl s
theorem keeps_raiseLate (s : State) (core : Nat) (l : LateFault) : Keeps s (s.raiseLate core l) := by
  unfold State.raiseLate; split
  · dsimp only; split
    · exact keeps_takeTrap _ _ _ _ _ _
    · exact (keeps_takeTrap _ _ _ _ _ _).trans (keeps_modTask _ _ _ _)
  · exact .refl s
theorem keeps_raiseHome (s : State) (core id : Nat) : Keeps s (s.raiseHome core id) := by
  unfold State.raiseHome; split
  · exact .refl s
  · dsimp only; split
    · exact .refl s
    · exact .trans (.of_eq rfl rfl) (keeps_discard _ _ _ _ _ _)
    · exact keeps_ite (keeps_takeTrap _ _ _ _ _ _) ((keeps_takeTrap _ _ _ _ _ _).trans (.of_eq rfl rfl))

/-! Bundles. -/

theorem keeps_outsideProfile (s : State) (core : Nat) (f : Frame) : Keeps s (s.outsideProfile core f) := by
  unfold State.outsideProfile; split
  · split
    · exact keeps_exact _ _ _ _
    · exact (keeps_closeStream _ _).trans (keeps_modCore _ _ _)
  · exact keeps_exact _ _ _ _
theorem keeps_beforeRelease (s : State) (c : Ctx) (ord : Nat) (l : List (Loc × Nat)) (k : State → State) (h : Keeps s (k s)) :
    Keeps s (s.beforeRelease c ord l k) := by
  simp only [State.beforeRelease]; split
  · exact keeps_raiseHome _ _ _
  · exact h
theorem keeps_skip (s : State) (c : Ctx) : Keeps s (s.skip c) := by
  unfold State.skip; split
  · exact keeps_beforeRelease _ _ _ _ _ (((keeps_takePending _ _).trans (keeps_release _ _ _ _ _ _)).trans (keeps_advance _ _))
  · exact keeps_advance _ _
theorem keeps_beforeResult (s : State) (c : Ctx) : Keeps s (s.beforeResult c) := keeps_ite (keeps_acquiredAt _ _ _ _) (.refl s)
theorem keeps_dispatchV (s : State) (c : Ctx) (r : VRes) : Keeps s (s.dispatchV c r) := .of_eq rfl rfl

/-- Whatever the checks of a bundle decide, no more changes than what its own effect changes. -/
theorem keeps_checked {s : State} {f : Frame} {op : Op} {w : Bundle} {body : Ctx → State → State} (h : ∀ c s, Keeps s (body c s)) :
    Keeps s (s.checked f op w body) := by
  unfold State.checked
  dsimp only; split
  · exact .refl s
  · split
    · exact keeps_outsideProfile _ _ _
    · split
      · exact keeps_exact _ _ _ _
      · split
        · exact keeps_exact _ _ _ _
        · split
          · exact .refl s
          · exact keeps_raiseHome _ _ _
          · split
            · exact (keeps_beforeResult _ _).trans (h _ _)
            · exact keeps_skip _ _
theorem keeps_bundle {s t : State} {op : Op} {w : Bundle} {body : Ctx → State → State} (h : ∀ c s, Keeps s (body c s))
    (e : bundle op w s body = .next t) : Keeps s t := by
  unfold bundle at e; split at e
  · cases e
  · cases e; exact keeps_checked h

end Sys2Proof.Machine
end

