-- ==== Sys2Proof/Laws/PerInstr.lean ====
section
/-! SUPPORT. What an instruction's encoding looks like, for every constructor of `Instr`: the words of its chain and then its instruction
word, with its slot and its two fields; a step without an encoding has no words. -/

namespace Sys2Proof.Laws.BundleLength

/-- The words of an instruction: as many as its chain has and one more, the last of them with the slot and the fields. -/
def Statement (i : Instr) : Prop :=
  match i.code? with
  | some (op, w) => (encode i).length = w.chainLength + 1 ∧ (encode i).getLast? = some (encodeWord op.op6 w.a w.b)
  | none => encode i = []

theorem of_code (i : Instr) : Statement i := by
  unfold Statement encode
  split
  · rename_i op w h
    simp only [h, encodeBundle]
    refine ⟨?_, by simp⟩
    obtain ⟨_, _, _, r, q, p⟩ := w
    cases r <;> cases q <;> cases p <;> simp [Bundle.chainLength]
  · rename_i h; simp [h]

theorem add (w : Bundle) : Statement (.add w) := of_code _
theorem sub (w : Bundle) : Statement (.sub w) := of_code _
theorem and (w : Bundle) : Statement (.and w) := of_code _
theorem or (w : Bundle) : Statement (.or w) := of_code _
theorem xor (w : Bundle) : Statement (.xor w) := of_code _
theorem andn (w : Bundle) : Statement (.andn w) := of_code _
theorem shl (w : Bundle) : Statement (.shl w) := of_code _
theorem shr (w : Bundle) : Statement (.shr w) := of_code _
theorem sar (w : Bundle) : Statement (.sar w) := of_code _
theorem mul (w : Bundle) : Statement (.mul w) := of_code _
theorem mulh (w : Bundle) : Statement (.mulh w) := of_code _
theorem div (w : Bundle) : Statement (.div w) := of_code _
theorem rem (w : Bundle) : Statement (.rem w) := of_code _
theorem min (w : Bundle) : Statement (.min w) := of_code _
theorem max (w : Bundle) : Statement (.max w) := of_code _
theorem mov (w : Bundle) : Statement (.mov w) := of_code _
theorem li (w : Bundle) : Statement (.li w) := of_code _
theorem lih (w : Bundle) : Statement (.lih w) := of_code _
theorem addi (w : Bundle) : Statement (.addi w) := of_code _
theorem cmpeq (w : Bundle) : Statement (.cmpeq w) := of_code _
theorem cmpne (w : Bundle) : Statement (.cmpne w) := of_code _
theorem cmplt (w : Bundle) : Statement (.cmplt w) := of_code _
theorem cmpltn (w : Bundle) : Statement (.cmpltn w) := of_code _
theorem cmple (w : Bundle) : Statement (.cmple w) := of_code _
theorem sel (w : Bundle) : Statement (.sel w) := of_code _
theorem lea (w : Bundle) : Statement (.lea w) := of_code _
theorem clz (w : Bundle) : Statement (.clz w) := of_code _
theorem popc (w : Bundle) : Statement (.popc w) := of_code _
theorem sext (w : Bundle) : Statement (.sext w) := of_code _
theorem zext (w : Bundle) : Statement (.zext w) := of_code _
theorem b (w : Bundle) : Statement (.b w) := of_code _
theorem bz (w : Bundle) : Statement (.bz w) := of_code _
theorem bnz (w : Bundle) : Statement (.bnz w) := of_code _
theorem beq (w : Bundle) : Statement (.beq w) := of_code _
theorem bne (w : Bundle) : Statement (.bne w) := of_code _
theorem blt (w : Bundle) : Statement (.blt w) := of_code _
theorem bge (w : Bundle) : Statement (.bge w) := of_code _
theorem bltn (w : Bundle) : Statement (.bltn w) := of_code _
theorem call (w : Bundle) : Statement (.call w) := of_code _
theorem ret (w : Bundle) : Statement (.ret w) := of_code _
theorem jr (w : Bundle) : Statement (.jr w) := of_code _
theorem loop (w : Bundle) : Statement (.loop w) := of_code _
theorem ld (w : Bundle) : Statement (.ld w) := of_code _
theorem st (w : Bundle) : Statement (.st w) := of_code _
theorem ldf (w : Bundle) : Statement (.ldf w) := of_code _
theorem stf (w : Bundle) : Statement (.stf w) := of_code _
theorem lsp (w : Bundle) : Statement (.lsp w) := of_code _
theorem ssp (w : Bundle) : Statement (.ssp w) := of_code _
theorem vadd (w : Bundle) : Statement (.vadd w) := of_code _
theorem vmul (w : Bundle) : Statement (.vmul w) := of_code _
theorem vfma (w : Bundle) : Statement (.vfma w) := of_code _
theorem vld (w : Bundle) : Statement (.vld w) := of_code _
theorem vst (w : Bundle) : Statement (.vst w) := of_code _
theorem vbcast (w : Bundle) : Statement (.vbcast w) := of_code _
theorem lead (w : Bundle) : Statement (.lead w) := of_code _
theorem follow (w : Bundle) : Statement (.follow w) := of_code _
theorem detach (w : Bundle) : Statement (.detach w) := of_code _
theorem wait (w : Bundle) : Statement (.wait w) := of_code _
theorem claim (w : Bundle) : Statement (.claim w) := of_code _
theorem release (w : Bundle) : Statement (.release w) := of_code _
theorem vaddP1 (w : Bundle) : Statement (.vaddP1 w) := of_code _
theorem vsub (w : Bundle) : Statement (.vsub w) := of_code _
theorem vmulP1 (w : Bundle) : Statement (.vmulP1 w) := of_code _
theorem vfmaP1 (w : Bundle) : Statement (.vfmaP1 w) := of_code _
theorem vfms (w : Bundle) : Statement (.vfms w) := of_code _
theorem vfnma (w : Bundle) : Statement (.vfnma w) := of_code _
theorem vmin (w : Bundle) : Statement (.vmin w) := of_code _
theorem vmax (w : Bundle) : Statement (.vmax w) := of_code _
theorem vabs (w : Bundle) : Statement (.vabs w) := of_code _
theorem vneg (w : Bundle) : Statement (.vneg w) := of_code _
theorem vdiv (w : Bundle) : Statement (.vdiv w) := of_code _
theorem vsqrt (w : Bundle) : Statement (.vsqrt w) := of_code _
theorem vrcp (w : Bundle) : Statement (.vrcp w) := of_code _
theorem vrsq (w : Bundle) : Statement (.vrsq w) := of_code _
theorem vexp2 (w : Bundle) : Statement (.vexp2 w) := of_code _
theorem vlog2 (w : Bundle) : Statement (.vlog2 w) := of_code _
theorem vtanh (w : Bundle) : Statement (.vtanh w) := of_code _
theorem viadd (w : Bundle) : Statement (.viadd w) := of_code _
theorem visub (w : Bundle) : Statement (.visub w) := of_code _
theorem vimul (w : Bundle) : Statement (.vimul w) := of_code _
theorem vimad (w : Bundle) : Statement (.vimad w) := of_code _
theorem vand (w : Bundle) : Statement (.vand w) := of_code _
theorem vor (w : Bundle) : Statement (.vor w) := of_code _
theorem vxor (w : Bundle) : Statement (.vxor w) := of_code _
theorem vshl (w : Bundle) : Statement (.vshl w) := of_code _
theorem vshr (w : Bundle) : Statement (.vshr w) := of_code _
theorem vsar (w : Bundle) : Statement (.vsar w) := of_code _
theorem vcmp (w : Bundle) : Statement (.vcmp w) := of_code _
theorem vsel (w : Bundle) : Statement (.vsel w) := of_code _
theorem vcvt (w : Bundle) : Statement (.vcvt w) := of_code _
theorem vqnt (w : Bundle) : Statement (.vqnt w) := of_code _
theorem vdqnt (w : Bundle) : Statement (.vdqnt w) := of_code _
theorem vbpn (w : Bundle) : Statement (.vbpn w) := of_code _
theorem vbpj (w : Bundle) : Statement (.vbpj w) := of_code _
theorem vext (w : Bundle) : Statement (.vext w) := of_code _
theorem vins (w : Bundle) : Statement (.vins w) := of_code _
theorem vperm (w : Bundle) : Statement (.vperm w) := of_code _
theorem vslide (w : Bundle) : Statement (.vslide w) := of_code _
theorem vzip (w : Bundle) : Statement (.vzip w) := of_code _
theorem vunzip (w : Bundle) : Statement (.vunzip w) := of_code _
theorem vredsum (w : Bundle) : Statement (.vredsum w) := of_code _
theorem vredmax (w : Bundle) : Statement (.vredmax w) := of_code _
theorem vredmin (w : Bundle) : Statement (.vredmin w) := of_code _
theorem vscan (w : Bundle) : Statement (.vscan w) := of_code _
theorem vchadd (w : Bundle) : Statement (.vchadd w) := of_code _
theorem vchmax (w : Bundle) : Statement (.vchmax w) := of_code _
theorem vchst (w : Bundle) : Statement (.vchst w) := of_code _
theorem kand (w : Bundle) : Statement (.kand w) := of_code _
theorem kor (w : Bundle) : Statement (.kor w) := of_code _
theorem kxor (w : Bundle) : Statement (.kxor w) := of_code _
theorem knot (w : Bundle) : Statement (.knot w) := of_code _
theorem kpopc (w : Bundle) : Statement (.kpopc w) := of_code _
theorem kmov (w : Bundle) : Statement (.kmov w) := of_code _
theorem kffs (w : Bundle) : Statement (.kffs w) := of_code _
theorem mulhn (w : Bundle) : Statement (.mulhn w) := of_code _
theorem divn (w : Bundle) : Statement (.divn w) := of_code _
theorem remn (w : Bundle) : Statement (.remn w) := of_code _
theorem minn (w : Bundle) : Statement (.minn w) := of_code _
theorem maxn (w : Bundle) : Statement (.maxn w) := of_code _
theorem ctz (w : Bundle) : Statement (.ctz w) := of_code _
theorem rol (w : Bundle) : Statement (.rol w) := of_code _
theorem bgen (w : Bundle) : Statement (.bgen w) := of_code _
theorem cmplen (w : Bundle) : Statement (.cmplen w) := of_code _
theorem mstat (w : Bundle) : Statement (.mstat w) := of_code _
theorem mswap (w : Bundle) : Statement (.mswap w) := of_code _
theorem mstream (w : Bundle) : Statement (.mstream w) := of_code _
theorem mstreamt (w : Bundle) : Statement (.mstreamt w) := of_code _
theorem mf64 (w : Bundle) : Statement (.mf64 w) := of_code _
theorem mbpn4 (w : Bundle) : Statement (.mbpn4 w) := of_code _
theorem mbpn8 (w : Bundle) : Statement (.mbpn8 w) := of_code _
theorem mzero (w : Bundle) : Statement (.mzero w) := of_code _
theorem mrd (w : Bundle) : Statement (.mrd w) := of_code _
theorem mwr (w : Bundle) : Statement (.mwr w) := of_code _
theorem macs (w : Bundle) : Statement (.macs w) := of_code _
theorem msac (w : Bundle) : Statement (.msac w) := of_code _
theorem mtest (w : Bundle) : Statement (.mtest w) := of_code _
theorem rtab (w : Bundle) : Statement (.rtab w) := of_code _
theorem rank (w : Bundle) : Statement (.rank w) := of_code _
theorem rankch (w : Bundle) : Statement (.rankch w) := of_code _
theorem rstream (w : Bundle) : Statement (.rstream w) := of_code _
theorem rstreamch (w : Bundle) : Statement (.rstreamch w) := of_code _
theorem rrecon (w : Bundle) : Statement (.rrecon w) := of_code _
theorem ldsx (w : Bundle) : Statement (.ldsx w) := of_code _
theorem aadd (w : Bundle) : Statement (.aadd w) := of_code _
theorem amin (w : Bundle) : Statement (.amin w) := of_code _
theorem amax (w : Bundle) : Statement (.amax w) := of_code _
theorem aminn (w : Bundle) : Statement (.aminn w) := of_code _
theorem amaxn (w : Bundle) : Statement (.amaxn w) := of_code _
theorem aand (w : Bundle) : Statement (.aand w) := of_code _
theorem aor (w : Bundle) : Statement (.aor w) := of_code _
theorem axor (w : Bundle) : Statement (.axor w) := of_code _
theorem aswp (w : Bundle) : Statement (.aswp w) := of_code _
theorem acas (w : Bundle) : Statement (.acas w) := of_code _
theorem afadd (w : Bundle) : Statement (.afadd w) := of_code _
theorem ahnd (w : Bundle) : Statement (.ahnd w) := of_code _
theorem fence (w : Bundle) : Statement (.fence w) := of_code _
theorem spawn (w : Bundle) : Statement (.spawn w) := of_code _
theorem succ (w : Bundle) : Statement (.succ w) := of_code _
theorem relev (w : Bundle) : Statement (.relev w) := of_code _
theorem endTask (w : Bundle) : Statement (.endTask w) := of_code _
theorem getid (w : Bundle) : Statement (.getid w) := of_code _
theorem tmr (w : Bundle) : Statement (.tmr w) := of_code _
theorem migr (w : Bundle) : Statement (.migr w) := of_code _
theorem send (w : Bundle) : Statement (.send w) := of_code _
theorem reply (w : Bundle) : Statement (.reply w) := of_code _
theorem cmask (w : Bundle) : Statement (.cmask w) := of_code _
theorem cunmask (w : Bundle) : Statement (.cunmask w) := of_code _
theorem chbind (w : Bundle) : Statement (.chbind w) := of_code _
theorem arrive (w : Bundle) : Statement (.arrive w) := of_code _
theorem bwait (w : Bundle) : Statement (.bwait w) := of_code _
theorem cpy (w : Bundle) : Statement (.cpy w) := of_code _
theorem cpyx (w : Bundle) : Statement (.cpyx w) := of_code _
theorem cpytst (w : Bundle) : Statement (.cpytst w) := of_code _
theorem lxload (w : Bundle) : Statement (.lxload w) := of_code _
theorem coll (w : Bundle) : Statement (.coll w) := of_code _
theorem uepost (w : Bundle) : Statement (.uepost w) := of_code _
theorem uepop (w : Bundle) : Statement (.uepop w) := of_code _
theorem ctrw (w : Bundle) : Statement (.ctrw w) := of_code _
theorem vlds (w : Bundle) : Statement (.vlds w) := of_code _
theorem vsts (w : Bundle) : Statement (.vsts w) := of_code _
theorem vgather (w : Bundle) : Statement (.vgather w) := of_code _
theorem baddq (w : Bundle) : Statement (.baddq w) := of_code _
theorem vscatter (w : Bundle) : Statement (.vscatter w) := of_code _
theorem trap (w : Bundle) : Statement (.trap w) := of_code _
theorem eret (w : Bundle) : Statement (.eret w) := of_code _
theorem getc (w : Bundle) : Statement (.getc w) := of_code _
theorem setc (w : Bundle) : Statement (.setc w) := of_code _
theorem rdtime (w : Bundle) : Statement (.rdtime w) := of_code _
theorem fencei (w : Bundle) : Statement (.fencei w) := of_code _
theorem brk (w : Bundle) : Statement (.brk w) := of_code _
theorem idle (w : Bundle) : Statement (.idle w) := of_code _
theorem messageEjection (msg : Nat) : Statement (.messageEjection msg) := of_code _
theorem holdStoreEntry (router : Nat) : Statement (.holdStoreEntry router) := of_code _
theorem framePush (core : Nat) : Statement (.framePush core) := of_code _
theorem trapHandlerStart (core : Nat) : Statement (.trapHandlerStart core) := of_code _
theorem vectorBundleCompletion (core level : Nat) : Statement (.vectorBundleCompletion core level) := of_code _
theorem matrixJobStart (core level : Nat) : Statement (.matrixJobStart core level) := of_code _
theorem matrixUnit (tile : Nat) : Statement (.matrixUnit tile) := of_code _
theorem matrixJobCompletion (core level : Nat) : Statement (.matrixJobCompletion core level) := of_code _
theorem loadCompletion (op : Nat) : Statement (.loadCompletion op) := of_code _
theorem storePerformed (op : Nat) : Statement (.storePerformed op) := of_code _
theorem homeAccess (op elem : Nat) : Statement (.homeAccess op elem) := of_code _
theorem cacheFill (line : Nat) : Statement (.cacheFill line) := of_code _
theorem atomicUnitOp (op : Nat) : Statement (.atomicUnitOp op) := of_code _
theorem ahndTimeout (op : Nat) : Statement (.ahndTimeout op) := of_code _
theorem timerExpiry (core timer : Nat) : Statement (.timerExpiry core timer) := of_code _
theorem followTimeout (core : Nat) : Statement (.followTimeout core) := of_code _
theorem forwardedBundle (core : Nat) : Statement (.forwardedBundle core) := of_code _
theorem followerOverrunDetach (core : Nat) : Statement (.followerOverrunDetach core) := of_code _
theorem migrationSend (core : Nat) : Statement (.migrationSend core) := of_code _
theorem migrationArrival (core : Nat) : Statement (.migrationArrival core) := of_code _
theorem endNotice (core task : Nat) : Statement (.endNotice core task) := of_code _
theorem governorPlacement (die : Nat) : Statement (.governorPlacement die) := of_code _
theorem governorForward (die task : Nat) : Statement (.governorForward die task) := of_code _
theorem rangeRetire (die task : Nat) : Statement (.rangeRetire die task) := of_code _
theorem stealRequest (die neighbour : Nat) : Statement (.stealRequest die neighbour) := of_code _
theorem stealAnswer (die neighbour : Nat) : Statement (.stealAnswer die neighbour) := of_code _
theorem barrierArrival (msg : Nat) : Statement (.barrierArrival msg) := of_code _
theorem channelAck (sender target words : Nat) : Statement (.channelAck sender target words) := of_code _
theorem copySegmentStart (job : Nat) : Statement (.copySegmentStart job) := of_code _
theorem copySegmentPerformed (job seg : Nat) : Statement (.copySegmentPerformed job seg) := of_code _
theorem copyJobCompletion (job : Nat) : Statement (.copyJobCompletion job) := of_code _
theorem multicastAck (job superGroup : Nat) : Statement (.multicastAck job superGroup) := of_code _
theorem copyTimeout (job : Nat) : Statement (.copyTimeout job) := of_code _
theorem collectiveBlockCombine (coll block : Nat) : Statement (.collectiveBlockCombine coll block) := of_code _
theorem collectiveJobCompletion (coll : Nat) : Statement (.collectiveJobCompletion coll) := of_code _
theorem collectiveBlockTimeout (coll block : Nat) : Statement (.collectiveBlockTimeout coll block) := of_code _
theorem cqOverflowEntry (tag : Nat) : Statement (.cqOverflowEntry tag) := of_code _
theorem ringEntryTake (fn queue : Nat) : Statement (.ringEntryTake fn queue) := of_code _
theorem launchStart (tag tile : Nat) : Statement (.launchStart tag tile) := of_code _
theorem launchEnd (tag : Nat) : Statement (.launchEnd tag) := of_code _
theorem instanceComplete (tag binding inst : Nat) : Statement (.instanceComplete tag binding inst) := of_code _
theorem invalidationComplete : Statement .invalidationComplete := of_code _
theorem ueJobCompletion (job : Nat) : Statement (.ueJobCompletion job) := of_code _
theorem reservedEncoding (bad : BadBundle) : Statement (.reservedEncoding bad) := of_code _
theorem routerFlitPlacement : Statement .routerFlitPlacement := of_code _
theorem arrivalAcknowledgement (core : Nat) : Statement (.arrivalAcknowledgement core) := of_code _
theorem launchDoorbell (fn : HostFn) (queue tail : Nat) : Statement (.launchDoorbell fn queue tail) := of_code _
theorem queueOverClear (fn : HostFn) (queue : Nat) : Statement (.queueOverClear fn queue) := of_code _
theorem queueFaultClear (fn : HostFn) (queue : Nat) : Statement (.queueFaultClear fn queue) := of_code _
theorem registerWrite (fn : HostFn) (offset : Nat) (value : Word) : Statement (.registerWrite fn offset value) := of_code _
theorem invalidationRequest (request : InvalRequest) : Statement (.invalidationRequest request) := of_code _
theorem hostBar2Write (fn : HostFn) (offset : Nat) (data : List Byte) : Statement (.hostBar2Write fn offset data) := of_code _
theorem hostBar2Read (fn : HostFn) (offset len : Nat) : Statement (.hostBar2Read fn offset len) := of_code _
theorem pcieCompletion (op elem : Nat) (data : List Byte) (ok : Bool) : Statement (.pcieCompletion op elem data ok) := of_code _
theorem pcieCompletionTimeout (op elem : Nat) : Statement (.pcieCompletionTimeout op elem) := of_code _
theorem functionLevelReset (fn : Nat) : Statement (.functionLevelReset fn) := of_code _
theorem dieReset (die : Nat) : Statement (.dieReset die) := of_code _
theorem dieReady (die : Nat) : Statement (.dieReady die) := of_code _
theorem ideIntegrityFailure (stream : Nat) : Statement (.ideIntegrityFailure stream) := of_code _
theorem stopInterface (fn : Nat) : Statement (.stopInterface fn) := of_code _
theorem scaleupPacketReceive (packet : ScalePacket) : Statement (.scaleupPacketReceive packet) := of_code _
theorem scaleupAck (peer cls upTo : Nat) (missing : List Nat) : Statement (.scaleupAck peer cls upTo missing) := of_code _
theorem scaleupRetransmitTimeout (peer cls seq : Nat) : Statement (.scaleupRetransmitTimeout peer cls seq) := of_code _
theorem uePacketReceive (packet : UePacket) : Statement (.uePacketReceive packet) := of_code _
theorem ueReadRequest (packet : UePacket) : Statement (.ueReadRequest packet) := of_code _
theorem ueReadResponse (packet : UePacket) : Statement (.ueReadResponse packet) := of_code _
theorem ueAck (ctx endpoint : Nat) (cumulative : AckPoint) (bitmap : Word) : Statement (.ueAck ctx endpoint cumulative bitmap) := of_code _
theorem ueRetransmitTimeout (ctx endpoint psn : Nat) : Statement (.ueRetransmitTimeout ctx endpoint psn) := of_code _
theorem gangReady (pkg : Nat) (at_ : SwitchAt) : Statement (.gangReady pkg at_) := of_code _
theorem gangGo (at_ : SwitchAt) : Statement (.gangGo at_) := of_code _
theorem gangSwitch (at_ : SwitchAt) : Statement (.gangSwitch at_) := of_code _
theorem tileWithdrawal (tile : Nat) : Statement (.tileWithdrawal tile) := of_code _
theorem patrolScrub (line : Nat) (finding : Option EccFinding) : Statement (.patrolScrub line finding) := of_code _
theorem powerGood (slotA slotB : Option BootImage) (dramOk linkOk : Bool) : Statement (.powerGood slotA slotB dramOk linkOk) := of_code _
theorem recgo (value : Word) (image : Option BootImage) : Statement (.recgo value image) := of_code _
theorem pcapWrite (value : Word) : Statement (.pcapWrite value) := of_code _
theorem tlimWrite (value : Word) : Statement (.tlimWrite value) := of_code _
theorem counterRead (register : RegisterAt) : Statement (.counterRead register) := of_code _
theorem powerControlPeriod (watts : Nat) : Statement (.powerControlPeriod watts) := of_code _
theorem temperatureSample (compute bedstone sluice : List Nat) : Statement (.temperatureSample compute bedstone sluice) := of_code _
theorem getCertificate (fn : Nat) : Statement (.getCertificate fn) := of_code _
theorem challenge (fn : Nat) : Statement (.challenge fn) := of_code _
theorem getMeasurements (fn : Nat) (signed : Bool) : Statement (.getMeasurements fn signed) := of_code _
theorem keyExchange (fn : Nat) : Statement (.keyExchange fn) := of_code _
theorem ideKm (fn stream : Nat) (key : Word) : Statement (.ideKm fn stream key) := of_code _
theorem lockInterface (fn : Nat) : Statement (.lockInterface fn) := of_code _
theorem startInterface (fn stream : Nat) : Statement (.startInterface fn stream) := of_code _
theorem configurationRequest (fn : Nat) (write : Bool) : Statement (.configurationRequest fn write) := of_code _
theorem tenantTableWrite (tenant : Nat) (entry : TenantEntry) : Statement (.tenantTableWrite tenant entry) := of_code _
theorem routeTableWrite (pkg mask : Nat) : Statement (.routeTableWrite pkg mask) := of_code _
theorem connectionRestore (peer cls : Nat) : Statement (.connectionRestore peer cls) := of_code _
theorem scaleupLinkDown (port : Nat) : Statement (.scaleupLinkDown port) := of_code _
theorem scaleupLinkUp (port : Nat) : Statement (.scaleupLinkUp port) := of_code _
theorem contextHalt (tag : Nat) : Statement (.contextHalt tag) := of_code _
theorem haltedContextResume (tag : Nat) : Statement (.haltedContextResume tag) := of_code _
theorem networkContextWrite (index : Nat) (context : Option NetContext) : Statement (.networkContextWrite index context) := of_code _
theorem policySetting (policy : Policy) (value : Nat) : Statement (.policySetting policy value) := of_code _
theorem gangSwitchPreparation (at_ : SwitchAt) (incoming outgoing pkgs : List Nat) (ready : Bool) : Statement (.gangSwitchPreparation at_ incoming outgoing pkgs ready) := of_code _
theorem bedstoneDieReset (die : Nat) : Statement (.bedstoneDieReset die) := of_code _
theorem powerLoss (leafProgrammed : Bool) : Statement (.powerLoss leafProgrammed) := of_code _

end Sys2Proof.Laws.BundleLength
end

