-- ==== Sys2Proof/Tests/Slice0.lean ====
section
/-! SUPPORT. Tests of the model: ill-formed terms refused, words decoded, and for each statement states and operands that meet its
hypotheses. -/

namespace Sys2Proof.Tests
set_option Elab.async false
open Sys2Proof Sys2Proof.Machine Sys2Proof.Claims

/-! Fixtures. -/

/-- One task of level 1 on core 0, at 0x10010, with 16 scalar and 8 vector registers and more in its windows. -/
def base : State := { State.reset.placed with sched := [], cur := 0 }

/-- The same with its frame changed. -/
def stand (g : Frame → Frame) : State := base.modTop 0 g

/-- A frame with nothing in it, and the frame that runs in a state. -/
def emptyFrame : Frame :=
  { kind := .task, task := 0, level := 0, ltag := 0, handler := 0, pc := 0, x := [], v := [], k := [], thr := 0, item := 0, acb := 0, arows := 0,
    fsb := 0, fscr := 0, wins := 0, exc := ExcRegs.none, claims := [], src := { core := 0, pkg := 0, space := 0 },
    lv := LevelState.fresh 0 0, pending := none, late := [], start := none, usedPlanes := false,
    lastRemote := none, lastPredMig := none, spilledX := 0, slots := [], gov := none, origin := none, migMark := none, mig := none, idle := 0,
    arrive := 0, hold := none, follows := none }
def top (s : State) : Frame := (s.core s.cur).frames.headD emptyFrame

/-- Bytes of slices that core 0 has asked for, from physical addresses on, have come. -/
def bytesCame (s : State) (l : List (Nat × List Byte)) : State :=
  s.modCore 0 (fun c => { c with rbuf := l.foldl (fun m x => kset m (({ policy := 0, home := sliceOf x.1, pa := x.1 } : Phys).bytesKey x.2.length) x.2) c.rbuf })

/-- The bundle is ready, and enabled. -/
def goes (s : State) (op : Op) (w : Bundle) : Bool :=
  decide (s.running = some (top s)) && decide ((top s).mig = none) && op.prof.has (profileOf s.cur) && legal op w && coreOk s.cur op w &&
    windowsOk (top s) op w && decide (s.hazards s.cur (top s) (allNamed op w) = .go) && (((top s).predicate w).getLsbD 0)
def ready (s : State) (op : Op) (w : Bundle) : Bool :=
  decide (s.running = some (top s)) && decide ((top s).mig = none) && op.prof.has (profileOf s.cur) && legal op w && coreOk s.cur op w &&
    windowsOk (top s) op w && decide (s.hazards s.cur (top s) (allNamed op w) = .go)

theorem ready_of {s op w} (h : ready s op w = true) : Ready s op w (top s) := by
  simpa [ready, Ready, and_assoc] using h
theorem goes_of {s op w} (h : goes s op w = true) : Ready s op w (top s) ∧ Enabled (top s) w := by
  simpa [goes, Ready, Enabled, and_assoc] using h

/-- Bundles: a = 1, b = 2; with c = 3; with a modifier or an immediate. -/
def w2 : Bundle := .plain 1#5 2#5
def w3 : Bundle := { w2 with rgx := some { c := 3#5, a5 := false, b5 := false, hold := 0#3 } }
def wm (m : BitVec 10) : Bundle := { w2 with imx := [m] }
def wm3 (m : BitVec 10) : Bundle := { w3 with imx := [m] }
def wj (a b : BitVec 5) : Bundle := .plain a b
def wq (q : Qlx) : Bundle := { w2 with qlx := some q }

/-- What the checks before the profile need: a frame runs and waits for no migration. -/
def runs (s : State) : Bool := decide (s.running = some (top s)) && decide ((top s).mig = none)

/-- Results of checks and translations that have to be named. -/
def failure {ε α : Type} (r : Except ε α × State) : Option ε := match r.1 with | .error c => some c | .ok _ => none
def success {ε α : Type} (r : Except ε α × State) : Option α := match r.1 with | .error _ => none | .ok a => some a
theorem error_of {ε α : Type} {r : Except ε α × State} {c : ε} (h : failure r = some c) : r = (.error c, r.2) := by
  obtain ⟨a, b⟩ := r; cases a <;> simp_all [failure]
theorem ok_of {ε α : Type} {r : Except ε α × State} {a : α} (h : success r = some a) : r = (.ok a, r.2) := by
  obtain ⟨x, b⟩ := r; cases x <;> simp_all [success]

def bytesRead (r : ReadOut × State) : Option (List Byte) := match r.1 with | .ok b => some b | _ => none
theorem read_of {r : ReadOut × State} {b : List Byte} (h : bytesRead r = some b) : r = (.ok b, r.2) := by
  obtain ⟨x, s⟩ := r; cases x <;> simp_all [bytesRead]

/-! Scalar instructions. -/

theorem witness_SelectAndExtensions :
    (Ready base .sel w3 (top base) ∧ Enabled (top base) w3) ∧ (Ready base .sel w2 (top base) ∧ Enabled (top base) w2) ∧
    (Ready base .sext (wj 1#5 1#5) (top base) ∧ Enabled (top base) (wj 1#5 1#5)) ∧
    (Ready base .zext { w2 with imx := [2#10], b := 0#5 } (top base) ∧ Enabled (top base) { w2 with imx := [2#10], b := 0#5 }) ∧
    (base.running = some (top base) ∧ (top base).mig = none ∧ (∀ op ∈ [Op.sext, Op.zext], op.prof.has (profileOf base.cur) = true) ∧
      immI (wj 1#5 0#5) < 1 ∧ 64 < immI { w2 with imx := [2#10], b := 1#5 }) := by
  refine ⟨goes_of ?_, goes_of ?_, goes_of ?_, goes_of ?_, ?_⟩ <;> decide +kernel

/-- A count of 1, and register 0. -/
def counting : State := stand (fun f => f.xSet 1 1#64)

theorem witness_ZeroBranchesAndLoop :
    w2.imx = [] ∧ (Ready base .bz w2 (top base) ∧ Enabled (top base) w2) ∧ (Ready base .bnz w2 (top base) ∧ Enabled (top base) w2) ∧
    (Ready base .loop w2 (top base) ∧ Enabled (top base) w2) ∧
    (Ready counting .loop w2 (top counting) ∧ Enabled (top counting) w2) ∧ (top counting).xGet (fieldA w2) = 1#64 ∧ fieldA w2 ≠ 0 ∧
    (Ready base .loop (wj 0#5 1#5) (top base) ∧ Enabled (top base) (wj 0#5 1#5)) ∧ fieldA (wj 0#5 1#5) = 0 := by
  refine ⟨rfl, goes_of ?_, goes_of ?_, goes_of ?_, goes_of ?_, ?_, ?_, goes_of ?_, rfl⟩ <;> decide +kernel

theorem witness_ScalarArithmeticResults :
    (∀ row ∈ arithmetic, goes base row.2.1 w2 = true ∧ goes base row.2.1 w3 = true) ∧
    (∀ row ∈ otherTwoSource, goes base row.2.1 w2 = true ∧ goes base row.2.1 w3 = true) := by decide +kernel

theorem witness_CountMoveAndImmediateResults :
    (∀ row ∈ oneSource, goes base row.2.1 w2 = true) ∧ (∀ row ∈ immediate, goes base row.2.1 w2 = true ∧ goes base row.2.1 w3 = true) ∧
    goes base .li w2 = true := by decide +kernel

theorem witness_TransfersGoWhereTheRulesSay :
    (∀ row ∈ branches, goes base row.2.1 w2 = true) ∧ (∀ op ∈ [Op.b, .call], goes base op w2 = true) ∧ goes base .ret (wj 0#5 0#5) = true ∧
    goes base .jr (wj 1#5 0#5) = true := by decide +kernel

/-! Checks, predicates, follow mode, control registers, traps. -/

/-- The task on another core. -/
def onCore (k : Nat) (g : Frame → Frame) : State :=
  { base.modCore k (fun c => { c with frames := (base.core 0).frames.map g, sat := 1 }) with cur := k }

/-- A window of the fewest registers, and a register outside it. -/
def narrow : State := stand (fun f => { f with wins := 0 })
def high : Bundle := { w3 with rgx := some { c := 31#5, a5 := false, b5 := false, hold := 0 } }

theorem witness_ChecksDecideInOrder :
    (Instr.mswap w2).code? = some (.mswap, w2) ∧ (Instr.mf64 w2).code? = some (.mf64, w2) ∧ (Instr.mul w2).code? = some (.mul, w2) ∧ (Instr.sext (wj 1#5 0#5)).code? = some (.sext, wj 1#5 0#5) ∧
    (runs (onCore 4096 id) = true ∧ profileOk (onCore 4096 id) .mswap = false ∧ profileOf (onCore 4096 id).cur ≠ .L) ∧
    (runs (onCore 512 fun f => { f with claims := [{ res := 0, thr := 0 }] }) = true ∧ profileOk (onCore 512 id) .mf64 = false ∧
      profileOf (onCore 512 id).cur = .L ∧ (top (onCore 512 fun f => { f with claims := [{ res := 0, thr := 0 }] })).claims ≠ []) ∧
    (runs base = true ∧ profileOk base .sext = true ∧ fieldsLegal base .sext (wj 1#5 0#5) = false) ∧
    (profileOk narrow .mul = true ∧ fieldsLegal narrow .mul high = true ∧ windowsOk (top narrow) .mul high = false) := by decide +kernel

/-- The complement of k0 is 0. -/
def never : Bundle := wq { pred := 0#3, neg := true, scope := 0#3, ord := 0#2, flag := false }

/-- An operation of the task on 8 bytes of a slice, and a state that holds it. -/
def anElem (loc : Loc) (n data : Nat) : Elem :=
  { ix := 0, loc := loc, va := 0x10000, size := n, data := data, got := 0, done := false, asked := false }
def anOp (kind : OpKind) (dest : Dest) (pa : Nat) : MemOp :=
  { core := 0, level := 1, task := (top base).task, item := 0, ltag := 1, tenant := 0, pc := 0x10010, kind := kind, dest := dest, ord := 0,
    vec := false, elems := [anElem (.global 0 (sliceOf pa) pa) 8 0x1122334455667788], fault := none, handler := none }
def withOp (s : State) (id : Nat) (o : MemOp) : State := { s with nextId := 10000, ops := kset s.ops id o }

/-- A load of register 1 is outstanding. -/
def loading : State := withOp base 9000 (anOp .load (.scalar 1 8) 0x40000)

theorem witness_PredicatesAndWaiting :
    ((Instr.add never).code? = some (.add, never) ∧ isVector .add = false ∧ isJob .add = false ∧ ready base .add never = true ∧
      ((top base).predicate never).getLsbD 0 = false ∧ consumesSuccessor .add = false) ∧
    ((Instr.tmr never).code? = some (.tmr, never) ∧ ready base .tmr never = true ∧ (top base).pending = none) ∧
    ((Instr.add w2).code? = some (.add, w2) ∧ runs loading = true ∧ profileOk loading .add = true ∧ fieldsLegal loading .add w2 = true ∧
      windowsOk (top loading) .add w2 = true ∧ loading.hazards loading.cur (top loading) (allNamed .add w2) = .stall) := by decide +kernel

/-- Two cores of tile 0 in follow mode. -/
def following (a b : Follow) (k : Nat) : State :=
  let s := (onCore 1 id).modCore 0 (fun c => { c with follow := a })
  { s.modCore 1 (fun c => { c with follow := b }) with cur := k, cycle := 300 }

theorem witness_FollowModeOpensAndCloses :
    (goes (onCore 1 id) .lead (wj 0#5 2#5) = true ∧ (∀ n c, ((onCore 1 id).core 1).follow ≠ .waiting n c) ∧ (onCore 1 id).cur % 8 ≠ 0) ∧
    (goes (following .free (.waiting 2 0) 0) .lead (wj 0#5 2#5) = true ∧ immJ (wj 0#5 2#5) = 2 ∧ ((following .free (.waiting 2 0) 0).core 1).follow = .waiting 2 0 ∧
      (∀ n c, ((following .free (.waiting 2 0) 0).core 0).follow ≠ .waiting n c) ∧ ((following .free (.waiting 2 0) 0).core 1).frames ≠ []) ∧
    goes base .follow (wj 0#5 2#5) = true ∧ goes (onCore 1 id) .follow (wj 0#5 2#5) = true ∧
    (goes (following .free (.waiting 2 0) 1) .follow (wj 0#5 2#5) = true ∧ ∃ n c, ((following .free (.waiting 2 0) 1).core 1).follow = .waiting n c) ∧
    (goes (following (.leading 2) (.attached 2 []) 0) .detach (wj 0#5 0#5) = true ∧ ((following (.leading 2) (.attached 2 []) 0).core 0).follow = .leading 2 ∧
      ((following (.leading 2) (.attached 2 []) 0).core 1).follow = .attached 2 []) ∧
    (goes base .detach (wj 0#5 0#5) = true ∧ ∀ n, (base.core 0).follow ≠ .leading n) ∧
    (let s := following .free (.waiting 2 0) 0
     (s.core 1).follow = .waiting 2 0 ∧ 0 + 256 ≤ s.cycle ∧ s.stilled 1 = false ∧ (s.core 1).frames ≠ []) ∧
    (∃ l, ((following (.leading 1) (.attached 1 (List.replicate 8 { instr := .add w2, words := 1, pc := 0x10010, next := 0x10012 })) 0).core 1).follow = .attached 1 l ∧ 8 ≤ l.length) := by
  have free : ∀ s : State, (s.core s.cur).follow = .free → ∀ n c, (s.core s.cur).follow ≠ .waiting n c := by intro s h; simp [h]
  have free' : ∀ s : State, (s.core s.cur).follow = .free → ∀ n, (s.core s.cur).follow ≠ .leading n := by intro s h; simp [h]
  refine ⟨⟨?_, free (onCore 1 id) ?_, ?_⟩, ⟨?_, ?_, ?_, free (following .free (.waiting 2 0) 0) ?_, ?_⟩, ?_, ?_, ⟨?_, 2, 0, ?_⟩, ⟨?_, ?_, ?_⟩,
    ⟨?_, free' base ?_⟩, ?_, List.replicate 8 { instr := .add w2, words := 1, pc := 0x10010, next := 0x10012 }, ?_, ?_⟩ <;> decide +kernel

/-- A vector bundle that rounds stochastically is in flight. -/
def drawing : State := stand (fun f => { f with lv := { f.lv with
  vq := [{ seq := 0, stamp := 0, pc := 0x10010, fl := 0#6, writes := [], srst := some 5, stoch := true, fault := none, op := none,
           chan := none, named := [], rmode := 16#64, fpen := 0#64 }] } })

/-- Control register n written from or read into register 1. -/
def ctl (n : Nat) : Bundle := { wj 1#5 (BitVec.ofNat 5 n) with imx := [BitVec.ofNat 10 (n / 32)] }

theorem witness_ControlRegistersReadAndWrite :
    (∀ row ∈ controlValues base (top base), goes base .getc (ctl row.1) = true ∧ immI (ctl row.1) = row.1 ∧ profileLacks base.cur row.1 = false) ∧
    base.levelQuiet base.cur (top base) = true ∧ base.srstBusy base.cur (top base) = false ∧
    (∀ row ∈ controlWrites 5#64, goes base .setc (ctl row.1) = true ∧ immI (ctl row.1) = row.1 ∧ profileLacks base.cur row.1 = false) ∧
    (goes base .setc (ctl 0x1D) = true ∧ profileLacks base.cur 0x1D = false) ∧
    (goes base .setc (ctl 0x2C) = true ∧ (top base).level ≠ 7) ∧
    (goes (stand fun f => { f with level := 7 }) .setc (ctl 0x2C) = true ∧ (top (stand fun f => { f with level := 7 })).level = 7) ∧
    (∀ n ∈ readOnly, goes base .setc (ctl n) = true ∧ immI (ctl n) = n ∧ profileLacks base.cur n = false) ∧
    (goes drawing .getc (ctl 0x06) = true ∧ goes drawing .setc (ctl 0x06) = true ∧ drawing.srstBusy drawing.cur (top drawing) = true) ∧
    (goes drawing .getc (ctl 0x07) = true ∧ drawing.levelQuiet drawing.cur (top drawing) = false) ∧
    (runs base = true ∧ controlListed (immI (ctl 0x60)).toNat = false ∧ immI (ctl 0x4000) < 0) ∧
    (runs (onCore 4096 id) = true ∧ 4096 ≤ (onCore 4096 id).cur ∧ (immI (ctl 0x1D)).toNat = 0x1D) := by decide +kernel

/-- A launch with a trap handler at 0x10040, whose frame word stands before it and has come from its home; the state in which that word has been
read. -/
def handledCtx : Context := { placedContext with words := placedWords.set 4 0x10040#64 }
def handled : State := bytesCame { base with ctxs := kset base.ctxs 1 handledCtx, dram := memSetN base.dram 0x4003C 4 0x20000000 }
  [(0x4003C, [0#8, 0#8, 0#8, 0x20#8])]
def handledWord : WordOut × State := (trapping handled (top handled)).frameWord 0 0 0x10040#64

theorem witness_TrapAndBreakEnterTheHandler :
    goes handled .trap w2 = true ∧ goes handled .brk w2 = true ∧ (top handled).level < 7 ∧ handled.ctx (top handled).ltag = some handledCtx ∧
    handledCtx.trapHandler ≠ 0#64 ∧ handled.cur = 0 ∧ handled.tenantOf (top handled).ltag = 0 ∧
    (trapping handled (top handled)).frameWord 0 0 handledCtx.trapHandler = (.word 0x20000000 none, handledWord.2) ∧
    (∀ a r b n, handledWord.2.storageHeld 0 a r b n = false) ∧ (∀ n k, (handledWord.2.core 0).follow ≠ .waiting n k) := by
  have q : (handledWord.2.tile (tileOf 0)).queues = [] := by decide +kernel
  have fl : (handledWord.2.core 0).follow = .free := by decide +kernel
  refine ⟨by decide +kernel, by decide +kernel, by decide +kernel, by decide +kernel, by decide +kernel, by decide +kernel, by decide +kernel,
    Prod.ext (by decide +kernel) rfl, ?_, by simp [fl]⟩
  intro a r b n; simp [State.storageHeld, q]

/-- A trap handler above a task. -/
def inHandler : State :=
  base.modCore 0 (fun c => { c with frames := { top base with kind := .trapHandler, level := 7, task := 9 } :: c.frames })

theorem witness_HandlersEndAndReturn :
    (base.top base.cur = some (top base) ∧ (base.core 0).frames = [top base] ∧ (top base).kind = .task ∧ (top base).level < 7 ∧
      base.ctx (top base).ltag = some placedContext ∧ placedContext.trapHandler = 0#64 ∧ ∀ n, (base.core 0).follow ≠ .leading n) ∧
    (goes inHandler .eret (wj 0#5 0#5) = true ∧ (top inHandler).level = 7 ∧ (top inHandler).kind = .trapHandler ∧ (top inHandler).lv.vq = [] ∧
      ((top inHandler).xGet 2).getLsbD 0 = false ∧ (inHandler.core inHandler.cur).frames = [top inHandler, top base]) ∧
    (goes base .eret (wj 0#5 0#5) = true ∧ (top base).level ≠ 7) ∧
    (goes (stand fun f => { f with level := 7 }) .eret (wj 0#5 0#5) = true ∧ (top (stand fun f => { f with level := 7 })).level = 7 ∧
      (top (stand fun f => { f with level := 7 })).isTrapHandler = false) := by
  have fl : (base.core 0).follow = .free := by decide +kernel
  refine ⟨⟨?_, ?_, ?_, ?_, ?_, ?_, by simp [fl]⟩, ?_, ?_, ?_⟩ <;> decide +kernel

theorem witness_TasksIdleFenceAndEnd :
    goes base .rdtime (wj 1#5 0#5) = true ∧ (goes base .fencei (wj 0#5 0#5) = true ∧ (top base).lv.stc = 0) ∧
    (goes (stand fun f => { f with lv := { f.lv with stc := 1 } }) .fencei (wj 0#5 0#5) = true ∧
      (top (stand fun f => { f with lv := { f.lv with stc := 1 } })).lv.stc ≠ 0) ∧
    (goes (stand fun f => { f with idle := 2 }) .idle (wj 0#5 0#5) = true ∧ (top (stand fun f => { f with idle := 2 })).idle = 2) ∧
    (goes base .idle (wj 0#5 0#5) = true ∧ (top base).idle ≠ 2) ∧
    (goes base .endTask (wj 0#5 0#5) = true ∧ (base.core 0).frames = [top base] ∧ (top base).kind = .task ∧ (top base).claims = [] ∧
      (top base).lv.vq = [] ∧ (top base).pending = none ∧ base.faultedOp base.cur (top base).task (fun _ => true) = none ∧
      ∀ n, (base.core 0).follow ≠ .leading n) ∧ runs base = true := by
  have fl : (base.core 0).follow = .free := by decide +kernel
  refine ⟨?_, ?_, ?_, ?_, ?_, ⟨?_, ?_, ?_, ?_, ?_, ?_, ?_, by simp [fl]⟩, ?_⟩ <;> decide +kernel

/-! Memory. -/

/-- Register 2 holds an address. -/
def at2 (a : Word) : State := stand (fun f => f.xSet 2 a)

/-- Register 2 holds an address, and the launch has a handler of its own for `ahnd`; a page of it, given by its leaf. -/
def handling (a : Word) : State := { at2 a with ctxs := kset base.ctxs 1 { placedContext with ahand := [0x10040#64] } }
def paged (leaf : Nat) : State :=
  (handling 0x20000#64).modTile 0 (fun t => { t with utlb := [{ tenant := 0, base := 0x20000, lg := 16, leaf := leaf }] })
/-- A bundle of such an access; a page of the registers, of the host, and one that may only be read. -/
def wAccess (need : Need) : Bundle := if need = .atomic then w3 else w2
def registers : State := paged (apertureBase + 0x1F)
def hostPage : State := paged (4 * 2 ^ 5 + 0x1F)
/-- Whether a scalar access goes to a place, aligned and with room in its counter. -/
def arrives (s : State) (row : (Bundle → Instr) × Op × (Frame → Bundle → Word) × Need) (ok : Phys → Bool) : Bool :=
  goes s row.2.1 (wAccess row.2.2.2) && decide ((row.2.2.1 (top s) (wAccess row.2.2.2)).toNat % accessBytes row.2.1 (wAccess row.2.2.2) = 0) &&
    decide ((if row.2.2.2 = .store then (top s).lv.stc else (top s).lv.ldc) < 64) &&
    (success (s.translate s.cur (s.tenantOf (top s).ltag) (row.2.2.1 (top s) (wAccess row.2.2.2)) row.2.2.2)).any ok

theorem witness_MisalignedAndUntranslatedAccessesTrap :
    (∀ row ∈ scalarAccesses, goes (handling 1#64) row.2.1 (wAccess row.2.2.2) = true ∧
      (row.2.1 = .ahnd → (handling 1#64).ahandler (top (handling 1#64)).ltag (modOpt (wAccess row.2.2.2)) ≠ 0#64) ∧
      (row.2.2.1 (top (handling 1#64)) (wAccess row.2.2.2)).toNat % accessBytes row.2.1 (wAccess row.2.2.2) ≠ 0) ∧
    (∀ row ∈ scalarAccesses, ∀ x ∈ [(handling 0#64, Cause.xlate), (paged 1, Cause.perm)], goes x.1 row.2.1 (wAccess row.2.2.2) = true ∧
      (row.2.1 = .ahnd → x.1.ahandler (top x.1).ltag (modOpt (wAccess row.2.2.2)) ≠ 0#64) ∧
      (row.2.2.1 (top x.1) (wAccess row.2.2.2)).toNat % accessBytes row.2.1 (wAccess row.2.2.2) = 0 ∧
      (if row.2.2.2 = .store then (top x.1).lv.stc else (top x.1).lv.ldc) < 64 ∧
      failure (x.1.translate x.1.cur (x.1.tenantOf (top x.1).ltag) (row.2.2.1 (top x.1) (wAccess row.2.2.2)) row.2.2.2) = some (.cause x.2)) ∧
    (∀ row ∈ scalarAccesses, row.2.1 ≠ .ld → row.2.1 ≠ .st → arrives registers row (fun p => p.isRegister) = true) ∧
    (∀ row ∈ scalarAccesses, row.2.2.2 = .atomic → row.2.1 ≠ .aadd → row.2.1 ≠ .acas → arrives hostPage row (fun p => p.policy == 4) = true) ∧
    (goes (at2 1#64) .ahnd w3 = true ∧ (at2 1#64).ahandler (top (at2 1#64)).ltag (modOpt w3) = 0#64) ∧
    (∀ op ∈ [Op.lsp, .ssp], (goes (at2 1#64) op w2 = true ∧ (offsetMS (top (at2 1#64)) w2).toNat % bytesOf op w2 ≠ 0) ∧
      (goes base op w2 = true ∧ (offsetMS (top base) w2).toNat % bytesOf op w2 = 0 ∧ base.region base.cur (top base) (selector w2) = none) ∧
      (goes base op { w2 with imx := [15#10] } = true ∧ (offsetMS (top base) { w2 with imx := [15#10] }).toNat % bytesOf op w2 = 0 ∧
        ∃ b, base.region base.cur (top base) (selector { w2 with imx := [15#10] }) = some (0, b, 0))) := by
  refine ⟨?_, ?_, ?_, ?_, ?_, ?_⟩
  · decide +kernel
  · decide +kernel
  · decide +kernel
  · decide +kernel
  · decide +kernel
  · intro op h
    refine ⟨?_, ?_, ?_, ?_, (top base).fsb, ?_⟩ <;> (revert op; decide +kernel)

/-- The predicate of a bundle is k1, which names elements 0 and 2; register 2 holds the address of a page. -/
def byK1 : Qlx := { pred := 1#3, neg := false, scope := 0#3, ord := 0#2, flag := false }
def someElements : State := stand (fun f => (f.xSet 2 0x10100#64).kSet 1 5#64)
def scratchElements : State := stand (fun f => { (f.xSet 2 16#64).kSet 1 5#64 with fscr := 64 })
def vq (o : Op) : Bundle := match o with
  | .vlds | .vsts => { w2 with qlx := some byK1, imx := [15#10] }
  | _ => { w3 with qlx := some byK1 }

theorem witness_VectorAccessesIssue :
    ∀ row ∈ vectorAccesses, ∃ s, s = (if row.2.1 = .vlds ∨ row.2.1 = .vsts then scratchElements else someElements) ∧
      ready s row.2.1 (vq row.2.1) = true ∧ capFull (top s) (if row.2.2.1 then .store else .load) = false ∧
      (vq row.2.1).qual.ord.toNat = 0 ∧
      (match checkElems (row.2.2.2.2 (contextOf s (top s) row.2.1 (vq row.2.1))) (row.2.2.2.1 (contextOf s (top s) row.2.1 (vq row.2.1)))
          (bytesOf row.2.1 (vq row.2.1))
          (fun i => if row.2.2.1 then vElem (8 * bytesOf row.2.1 (vq row.2.1)) ((top s).vGet (fieldA (vq row.2.1))) i else 0)
          (activeElements (top s) (vq row.2.1) (64 / bytesOf row.2.1 (vq row.2.1))) s with
        | (.ok elems, _) => elems.length | (.error _, _) => 0) = 2 := by
  intro row h
  refine ⟨_, rfl, ?_⟩
  simp only [vectorAccesses, List.mem_cons, List.not_mem_nil, or_false] at h
  rcases h with rfl | rfl | rfl | rfl | rfl | rfl <;> decide +kernel

/-- The register x2 at an address of the page, and at an offset of the frame region. -/
def placed2 : State := at2 0x10100#64
def region2 : State := stand (fun f => { f.xSet 2 16#64 with fscr := 64 })
def wms : Bundle := { w2 with imx := [15#10] }

/-- Where an access of a bundle goes, and whether anything stands in its way. -/
def through (s : State) (w : Bundle) (kind : OpKind) (need : Need) (ea : Word) (n : Nat) (plain : Bool) : Bool :=
  let r := s.translate s.cur (s.tenantOf (top s).ltag) ea need
  match r.1 with
  | .ok p => decide (ea.toNat % n = 0) && !capFull (top s) kind && !r.2.accessRefused (top s) kind p n plain && decide (ordOf w kind p = 0) &&
      decide ((r.2.predict s.cur (top s) (r.2.trueHome s.cur (r.2.tenantOf (top s).ltag) ea p)).1 = none)
  | .error _ => false
theorem accessGoes_of {s w kind need ea n plain} (h : through s w kind need ea n plain = true) :
    ∃ p s1 s2, accessGoes s (top s) w kind need ea n plain p s1 s2 := by
  unfold through at h
  generalize hr : s.translate s.cur (s.tenantOf (top s).ltag) ea need = r at h
  obtain ⟨a, s1⟩ := r
  cases a with
  | error c => simp at h
  | ok p =>
    simp only [Bool.and_eq_true, decide_eq_true_eq, Bool.not_eq_true'] at h
    obtain ⟨⟨⟨⟨h1, h2⟩, h3⟩, h4⟩, h5⟩ := h
    exact ⟨p, s1, _, h1, h2, hr, h3, fun h => absurd h4 h, Prod.ext h5 rfl⟩

theorem witness_ScalarLoadsAndStoresIssue :
    (∀ op ∈ [Op.ld, .ldsx], goes placed2 op w2 = true ∧
      through placed2 w2 .load .load (addressM (top placed2) w2) (bytesOf op w2) (op == .ld && bytesOf op w2 == 8) = true) ∧
    (goes placed2 .ldf w2 = true ∧ through placed2 w2 .load .load (addressM (top placed2) w2) (bytesOf .ldf w2) false = true) ∧
    (goes placed2 .st w2 = true ∧
      through placed2 w2 .store .store (addressM (top placed2) w2) (bytesOf .st w2) (bytesOf .st w2 == 8) = true) ∧
    (goes placed2 .stf w2 = true ∧ through placed2 w2 .store .store (addressM (top placed2) w2) (bytesOf .stf w2) false = true ∧
      (top placed2).trapsOn (stfValue (typeOf .stf w2) (top placed2).lv.rmode ((top placed2).xGet (fieldA w2))).2 = false) := by decide +kernel

theorem witness_ScratchAccessesAndAtomicsIssue :
    (∀ row ∈ [(Op.lsp, OpKind.load), (Op.ssp, OpKind.store)], goes region2 row.1 wms = true ∧
      (offsetMS (top region2) wms).toNat % bytesOf row.1 wms = 0 ∧ capFull (top region2) row.2 = false ∧
      success (region2.scratchAt region2.cur (top region2) (selector wms) (offsetMS (top region2) wms).toNat (bytesOf row.1 wms), base) =
        some (.array 0 (12288 + 16)) ∧ wms.qual.ord.toNat < 2) ∧
    (∀ row ∈ atomics, goes placed2 row.2 w3 = true ∧ ∀ x y, through placed2 w3 (.atomic row.2 (typeOf row.2 w3) x y) .atomic
      ((top placed2).xGet (fieldB w3)) (bytesOf row.2 w3) false = true) := by
  refine ⟨by decide +kernel, fun row h => ⟨?_, fun x y => ?_⟩⟩
  · revert row; decide +kernel
  · have e : through placed2 w3 (.atomic row.2 (typeOf row.2 w3) x y) .atomic ((top placed2).xGet (fieldB w3)) (bytesOf row.2 w3) false = through placed2 w3 (.atomic row.2 (typeOf row.2 w3) 0 0) .atomic ((top placed2).xGet (fieldB w3)) (bytesOf row.2 w3)
        false := rfl
    rw [e]; clear e; revert row; decide +kernel

/-- The line of an address in its slice, and an operation on it; register x1 of tile 0's array. -/
def lineAt (pa : Nat) : CLine := { line := pa / 64, way := 0, dirty := false, res := false, replica := false, stamp := 0, data := List.replicate 64 7#8 }
def atSlice (o : MemOp) : State :=
  { withOp base 9000 o with slices := kset base.slices (sliceOf 0x40100) [lineAt 0x40100] }
def anElemOf (o : MemOp) : Elem := o.elems.headD (anElem (.array 0 0) 0 0)
def scratchOp (kind : OpKind) : MemOp := { anOp kind .none 0 with elems := [anElem (.array 0 16) 8 0x1122334455667788] }
def storeOp : MemOp := anOp .store .none 0x40100
def loadOp : MemOp := anOp .load (.scalar 1 8) 0x40100
/-- The type of an atomic: f64 for the addition of numbers, u64 for the others. -/
def addType (op : Op) : Nat := if op = .afadd then 9 else 8
def addOp (op : Op) : MemOp := anOp (.atomic op (addType op) 5 7) (.scalar 1 8) 0x40100

theorem atHome_of {o : MemOp} (h : (decide (kget (atSlice o).ops 9000 = some o) &&
      decide (o.elems.find? (fun d => d.ix == (anElemOf o).ix) = some (anElemOf o)) && (atSlice o).performable 9000 o (anElemOf o) &&
      decide ((anElemOf o).loc = .global 0 (sliceOf 0x40100) 0x40100) && !(atSlice o).homeDown 0 (sliceOf 0x40100) 0x40100 &&
      decide ((atSlice o).storeFault o = none) && decide ((anElemOf o).size ≤ 8) && !o.elems.any o.unchecked &&
      !(anElemOf o).loc.onOwnTile o.core) = true) :
    atHome (atSlice o) 9000 o (anElemOf o) 0 (sliceOf 0x40100) 0x40100 := by
  simp only [Bool.and_eq_true, decide_eq_true_eq, Bool.not_eq_true'] at h
  obtain ⟨⟨⟨⟨⟨⟨⟨⟨h1, h2⟩, h3⟩, h4⟩, h5⟩, h6⟩, h7⟩, h8⟩, h9⟩ := h
  have l : (atSlice o).homeLines 0 (sliceOf 0x40100) = [lineAt 0x40100] := by simp [State.homeLines, atSlice, isTilePolicy, kgetD_kset_same]
  refine ⟨h1, h2, h3, h4, by decide, by decide, h5, h8, h6, fun h => by simp [h9] at h, ?_, by omega⟩
  simp only [State.lineAt, l]; decide +kernel

theorem witness_HomeAccessReadsAndWritesItsBytes :
    (atHome (atSlice storeOp) 9000 storeOp (anElemOf storeOp) 0 (sliceOf 0x40100) 0x40100 ∧ storeOp.kind = .store) ∧
    (atHome (atSlice loadOp) 9000 loadOp (anElemOf loadOp) 0 (sliceOf 0x40100) 0x40100 ∧ loadOp.kind = .load) :=
  ⟨⟨atHome_of (by decide +kernel), rfl⟩, atHome_of (by decide +kernel), rfl⟩

theorem witness_ScratchAndAtomicUnitsPerform :
    (∀ kind ∈ [OpKind.load, .store], let s := withOp base 9000 (scratchOp kind)
      kget s.ops 9000 = some (scratchOp kind) ∧
      (scratchOp kind).elems.find? (fun d => d.ix == (anElemOf (scratchOp kind)).ix) = some (anElemOf (scratchOp kind)) ∧
      s.performable 9000 (scratchOp kind) (anElemOf (scratchOp kind)) = true ∧ (anElemOf (scratchOp kind)).loc = .array 0 16 ∧
      memWf (s.tile 0).array = true) ∧
    (∀ row ∈ atomicWrites 8, row.1 ≠ .afadd → atHome (atSlice (addOp row.1)) 9000 (addOp row.1) (anElemOf (addOp row.1)) 0 (sliceOf 0x40100) 0x40100 ∧
      (addOp row.1).elems = [anElemOf (addOp row.1)] ∧ (addOp row.1).kind = .atomic row.1 8 5 7) ∧
    ((atomicWrites 9).getLast?.map (·.1) = some .afadd ∧ atHome (atSlice (addOp .afadd)) 9000 (addOp .afadd) (anElemOf (addOp .afadd)) 0 (sliceOf 0x40100) 0x40100 ∧
      (addOp .afadd).kind = .atomic .afadd 9 5 7) := by
  refine ⟨by decide +kernel, fun row h ne => ⟨atHome_of ?_, rfl, ?_⟩, ⟨rfl, atHome_of ?_, rfl⟩⟩
  · simp only [atomicWrites, List.mem_cons, List.not_mem_nil, or_false] at h
    rcases h with rfl | rfl | rfl | rfl | rfl | rfl | rfl | rfl | rfl | rfl | rfl <;> decide +kernel
  · simp [addOp, addType, anOp, ne]
  · decide +kernel

/-- An operation whose only access has been performed. -/
def finished (o : MemOp) : MemOp := o.finish 0 0x80

/-- An access to a place, and whether it may be performed now in a state that holds it. -/
def opAt (kind : OpKind) (loc : Loc) : MemOp := { anOp kind (.scalar 1 8) 0 with elems := [anElem loc 8 5] }
def turnOf (s : State) (o : MemOp) : Bool :=
  decide (kget s.ops 9000 = some o) && decide (o.elems = [anElemOf o]) && s.performable 9000 o (anElemOf o) && !o.elems.any o.unchecked
/-- The same for one access of several, whatever the operation's others do. -/
def turnAt (s : State) (o : MemOp) (e : Elem) : Bool :=
  decide (kget s.ops 9000 = some o) && decide (o.elems.find? (fun d => d.ix == e.ix) = some e) && s.performable 9000 o e
def anAtomic (op : Op) : OpKind := .atomic op 8 5 7
/-- An atomic at tile 5, whose line is there; its handler has been asked for, or runs on core 40. -/
def tileOp (op : Op) : MemOp := opAt (anAtomic op) (.global 1 5 0x40100)
def askedOp (o : MemOp) : MemOp := { o with elems := o.elems.map (fun e => { e with asked := true }) }
def takenOp (o : MemOp) : MemOp := { o with elems := o.elems.map (fun e => { e with asked := true, taken := true }) }
def atTile (o : MemOp) : State := (withOp base 9000 o).modTile 5 (fun t => { t with lines := [lineAt 0x40100] })
def performs (o : MemOp) : State := (atTile o).modCore 40 (fun c => { c with frames := [{ top base with kind := .fixedAtomic 9000, level := 7 }] })

theorem tileHome_of {s : State} {o : MemOp} (h : (turnOf s o && decide ((anElemOf o).loc = .global 1 5 0x40100) && !s.homeDown 1 5 0x40100 &&
      decide (s.storeFault o = none) && decide ((s.lineAt 1 5 (0x40100 / 64)).map (fun c => c.data.length) = some 64) &&
      decide ((anElemOf o).size ≤ 8) && !o.elems.any o.unchecked && !(anElemOf o).loc.onOwnTile o.core) = true) : atHome s 9000 o (anElemOf o) 1 5 0x40100 := by
  simp only [turnOf, Bool.and_eq_true, decide_eq_true_eq, Bool.not_eq_true'] at h
  obtain ⟨⟨⟨⟨⟨⟨⟨⟨⟨⟨h1, h2⟩, h3⟩, -⟩, h4⟩, h5⟩, h6⟩, h7⟩, h8⟩, h9⟩, h10⟩ := h
  exact ⟨h1, by rw [h2]; simp, h3, h4, by decide, by decide, h5, h9, h6, fun h => by simp [h10] at h, h7, by omega⟩

/-- The bundle of a vector store is the first of its level's queue. -/
def vecHead : State := stand (fun f => { f with lv := { f.lv with
  vq := [{ seq := 0, stamp := 0, pc := 0x10010, fl := 0#6, writes := [], srst := none, stoch := false, fault := none, op := some 9000,
           chan := none, named := [], rmode := 0#64, fpen := 0#64 }] } })
/-- Its operation, of given accesses; accesses in another package and in this one, and one of no home. -/
def vecStore (elems : List Elem) : MemOp := { opAt .store (.array 0 0) with vec := true, dest := Dest.none, elems := elems }
def farElem : Elem := anElem (.global 3 2 0x100) 8 5
def secondElem : Elem := { anElem (.global 0 (sliceOf 0x40100) 0x40100) 8 5 with ix := 1 }
def homeless : Elem := { anElem (.global 0 0 dramBytes) 8 5 with ix := 1 }
/-- None of the X9's own atomic handlers runs. -/
def noFixed (s : State) : Bool := s.cores.all (fun (x : Nat × Core) =>
  match x.2.frames with | f :: _ => (match f.kind with | .fixedAtomic _ => false | _ => true) | [] => true)
theorem noFixed_of {s : State} (h : noFixed s = true) : noFixedHandler s := by
  intro x hx f rest hf id hk
  have := List.all_eq_true.mp h x hx
  simp [hf, hk] at this

theorem witness_VectorStoresAreCheckedFirst :
    (let s := withOp vecHead 9000 (vecStore [farElem]); let asked := vecStore [{ farElem with asked := true }]
     turnAt s (vecStore [farElem]) farElem = true ∧ (vecStore [farElem]).unchecked farElem = true ∧
      turnAt (withOp vecHead 9000 asked) asked { farElem with asked := true } = true ∧ asked.unchecked { farElem with asked := true } = true) ∧
    (let s := { withOp vecHead 9000 (vecStore [farElem]) with routes := [(2, 1)] }
     turnAt s (vecStore [farElem]) farElem = true ∧ farElem.asked = false ∧ s.route 2 ≠ 0 ∧ (s.conn (connKey 2 0)).failed = false) ∧
    (let o := vecStore [farElem, secondElem]
     turnAt (withOp vecHead 9000 o) o secondElem = true ∧ o.unchecked secondElem = false ∧ o.elems.any o.unchecked = true) ∧
    (let o := vecStore [{ secondElem with ix := 0, done := true }, homeless]
     turnAt (withOp vecHead 9000 o) o homeless = true ∧ o.elems.any o.unchecked = false ∧ (withOp vecHead 9000 o).storeFault o = none ∧
      (withOp vecHead 9000 o).homeDown 0 0 dramBytes = true ∧ o.isVecStore = true) := by decide +kernel

theorem witness_AccessesLeaveForOthers :
    (withOp base 9000 (finished loadOp)).performable 9000 (finished loadOp) (anElemOf (finished loadOp)) = false ∧
    (∀ kind ∈ [OpKind.load, .store, anAtomic .aadd], turnOf (withOp base 9000 (opAt kind (.global 4 0 0x100))) (opAt kind (.global 4 0 0x100)) = true) ∧
    turnOf (withOp base 9000 (askedOp (opAt .load (.global 4 0 0x100)))) (askedOp (opAt .load (.global 4 0 0x100))) = true ∧
    turnOf (withOp base 9000 (askedOp (opAt .load (.global 3 2 0x100)))) (askedOp (opAt .load (.global 3 2 0x100))) = true ∧
    (turnOf (withOp base 9000 (opAt .load (.global 3 2 0x100))) (opAt .load (.global 3 2 0x100)) = true ∧ base.route 2 = 0 ∧
      (opAt .load (.global 3 2 0x100)).isVecStore = false ∧ noFixed (withOp base 9000 (opAt .load (.global 3 2 0x100))) = true) ∧
    (let s := { withOp base 9000 (opAt .load (.global 3 2 0x100)) with routes := [(2, 1)] }
     turnOf s (opAt .load (.global 3 2 0x100)) = true ∧ s.route 2 ≠ 0 ∧ (s.conn (connKey 2 0)).failed = false) ∧
    (let s := { withOp base 9000 (opAt .load (.global 3 2 0x100)) with routes := [(2, 1)], conns := [(connKey 2 0, { base.conn 0 with failed := true })] }
     turnOf s (opAt .load (.global 3 2 0x100)) = true ∧ (s.conn (connKey 2 0)).failed = true ∧ noFixed s = true) ∧
    (∀ kind ∈ [OpKind.load, .store], turnOf (withOp base 9000 (opAt kind (.global 0 0 apertureBase))) (opAt kind (.global 0 0 apertureBase)) = true ∧
      inAperture apertureBase = true) := by decide +kernel

theorem witness_AccessesMissOrFindNoHome :
    (let o := { opAt .store (.global 0 0 dramBytes) with vec := true, dest := Dest.none }
     turnOf (withOp vecHead 9000 o) o = true ∧ inAperture dramBytes = false ∧ (withOp vecHead 9000 o).storeFault o = some .absent) ∧
    (let o := opAt .load (.global 0 0 dramBytes)
     turnOf (withOp base 9000 o) o = true ∧ (withOp base 9000 o).storeFault o = none ∧ (withOp base 9000 o).homeDown 0 0 dramBytes = true ∧
      o.isVecStore = false ∧ noFixed (withOp base 9000 o) = true) ∧
    (∀ policy ∈ [0, 1], let o := opAt .load (.global policy 5 0x40100)
     turnOf (withOp base 9000 o) o = true ∧ (withOp base 9000 o).homeDown policy 5 0x40100 = false ∧
      (withOp base 9000 o).lineAt policy 5 (0x40100 / 64) = none ∧ (anElemOf o).loc.onOwnTile o.core = false ∧ (withOp base 9000 o).storeFault o = none ∧
      (((withOp base 9000 o).homeLines 0 5).length < sliceLines ∧ ((withOp base 9000 o).tile 5).pickWay (0x40100 / 64) ≠ none)) ∧
    (let o := finished (addOp .aadd)
     (withOp base 9000 o).performable 9000 o (anElemOf o) = false ∧ o.elems = [anElemOf o] ∧ (anElemOf o).loc = .global 0 (sliceOf 0x40100) 0x40100) ∧
    (let o := opAt (anAtomic .aadd) (.global 0 0 dramBytes)
     turnOf (withOp base 9000 o) o = true ∧ (withOp base 9000 o).homeDown 0 0 dramBytes = true ∧ noFixed (withOp base 9000 o) = true) ∧
    (let o := opAt (anAtomic .aadd) (.global 0 5 0x40100)
     turnOf (withOp base 9000 o) o = true ∧ (withOp base 9000 o).homeDown 0 5 0x40100 = false ∧
      (withOp base 9000 o).lineAt 0 5 (0x40100 / 64) = none ∧ ((withOp base 9000 o).homeLines 0 5).length < sliceLines) := by decide +kernel

theorem witness_AtomicsSendTheirHandlers :
    (atHome (atTile (tileOp .aadd)) 9000 (tileOp .aadd) (anElemOf (tileOp .aadd)) 1 5 0x40100 ∧ (anElemOf (tileOp .aadd)).asked = false ∧
      (tileOp .aadd).dest ≠ .buffer) ∧
    (atHome (atTile (takenOp (tileOp .aadd))) 9000 (takenOp (tileOp .aadd)) (anElemOf (takenOp (tileOp .aadd))) 1 5 0x40100 ∧
      (anElemOf (takenOp (tileOp .aadd))).asked = true ∧ (anElemOf (takenOp (tileOp .aadd))).taken = true ∧ (takenOp (tileOp .aadd)).dest ≠ .buffer ∧
      (atTile (takenOp (tileOp .aadd))).coreRunning (.fixedAtomic 9000) = none) ∧
    (atHome (performs (askedOp (tileOp .aadd))) 9000 (askedOp (tileOp .aadd)) (anElemOf (askedOp (tileOp .aadd))) 1 5 0x40100 ∧
      (performs (askedOp (tileOp .aadd))).coreRunning (.fixedAtomic 9000) = some 40 ∧
      ((performs (askedOp (tileOp .aadd))).core 40).frames = [{ top base with kind := .fixedAtomic 9000, level := 7 }]) ∧
    (atHome (atTile (tileOp .ahnd)) 9000 (tileOp .ahnd) (anElemOf (tileOp .ahnd)) 1 5 0x40100 ∧ (anElemOf (tileOp .ahnd)).asked = false ∧
      (tileOp .ahnd).dest ≠ .buffer) ∧
    (atHome (atSlice (addOp .ahnd)) 9000 (addOp .ahnd) (anElemOf (addOp .ahnd)) 0 (sliceOf 0x40100) 0x40100 ∧ (anElemOf (addOp .ahnd)).asked = false) := by
  refine ⟨⟨tileHome_of ?_, ?_⟩, ⟨tileHome_of ?_, ?_⟩, ⟨tileHome_of ?_, ?_⟩, ⟨tileHome_of ?_, ?_⟩, ⟨atHome_of ?_, ?_⟩⟩ <;> decide +kernel

/-- An operation after the host has been asked, and a handler that is late. -/
def hostOp : MemOp := { loadOp with elems := [{ anElem (.global 4 0 0x100) 8 0 with asked := true }] }
def handlerFrame : Frame := { top base with kind := .userAtomic 9000, level := 6, task := 77 }
def lateHandler : State :=
  { (withOp base 9000 { addOp .ahnd with handler := some 0 }).modCore 4096 (fun c => { c with frames := [handlerFrame] }) with cycle := 4096 }

theorem witness_OperationsComplete :
    (base.badLines.contains 3 = false ∧ ∀ c ∈ kgetD (atSlice loadOp).slices (sliceOf 0x40100) [], c.replica = false) ∧
    (let s := { atSlice loadOp with badLines := [0x40100 / 64] }
     s.badLines.contains (0x40100 / 64) = true ∧ kget s.ops 9000 = some loadOp ∧ loadOp.elems = [anElemOf loadOp] ∧ noFixed s = true ∧
      (anElemOf loadOp).done = false ∧ (anElemOf loadOp).loc = .global 0 (sliceOf 0x40100) 0x40100) ∧
    (let s := withOp base 9000 hostOp
     kget s.ops 9000 = some hostOp ∧ hostOp.elems.find? (fun d => d.ix == (anElemOf hostOp).ix) = some (anElemOf hostOp) ∧
      (anElemOf hostOp).loc = .global 4 0 0x100 ∧ (anElemOf hostOp).asked = true ∧ (anElemOf hostOp).done = false ∧ hostOp.fault = none ∧
      hostOp.elems = [anElemOf hostOp] ∧ hostOp.isVecStore = false ∧ noFixed s = true) ∧
    (let s := withOp base 9000 (finished loadOp)
     kget s.ops 9000 = some (finished loadOp) ∧ (finished loadOp).kind = .load ∧ (finished loadOp).dest = .scalar 1 8 ∧ (finished loadOp).fault = none ∧
      (finished loadOp).performed = true ∧ (finished loadOp).vec = false ∧ s.ownerSaved (finished loadOp) = false ∧
      s.afterDone (finished loadOp).behind = true ∧ s.replyOut 9000 = false) ∧
    (let s := withOp base 9000 (finished storeOp)
     kget s.ops 9000 = some (finished storeOp) ∧ (finished storeOp).kind = .store ∧ (finished storeOp).dest = .none ∧ (finished storeOp).fault = none ∧
      (finished storeOp).performed = true ∧ (finished storeOp).vec = false ∧ s.ownerSaved (finished storeOp) = false ∧
      s.afterDone (finished storeOp).behind = true ∧ s.replyOut 9000 = false) ∧
    (kget lateHandler.ops 9000 = some { addOp .ahnd with handler := some 0 } ∧ lateHandler.coreRunning (.userAtomic 9000) = some 4096 ∧
      0 + 4096 ≤ lateHandler.cycle ∧ (lateHandler.core 4096).frames = [handlerFrame] ∧ handlerFrame.kind = .userAtomic 9000) := by decide +kernel

/-- `wait` with no limits and with limits of 0. -/
def noLimits : Bundle := wj 31#5 31#5
def zeroLimits : Bundle := wj 0#5 0#5
/-- Loads outstanding in the frame's counter. -/
def countedLoad : State := stand (fun f => { f with lv := { f.lv with ldc := 1 } })

/-- Core 0 has read a release of core 8 that orders a store not performed yet. -/
def reading : State :=
  (withOp base 9000 { storeOp with core := 8, task := 77 }).modCore 0 (fun c => { c with seen := [{ core := 8, scope := 6, ops := [9000] }] })
/-- A fence of the widest scope. -/
def wide : Bundle := { wj 0#5 0#5 with qlx := some { byK1 with pred := 0#3, scope := 6#3 } }
/-- A counter at 5, whose bytes have come from its home; the threshold in register 3. -/
def counted : State := bytesCame { placed2 with dram := memSetN placed2.dram 0x40100 8 5 } [(0x40100, leBytes 5 8)]
def upTo (c : Word) : State := counted.modTop 0 (fun f => f.xSet 3 c)

theorem witness_FencesAndWaitsComplete :
    (goes base .fence (wj 0#5 0#5) = true ∧ base.faultedOp base.cur (top base).task (fun _ => true) = none ∧
      base.opsOf base.cur (top base).task = [] ∧ (base.core base.cur).seen = []) ∧
    (goes reading .fence wide = true ∧ wide.qual.ord.toNat ≠ 2 ∧
      reading.faultedOp reading.cur (top reading).task (fun o => wide.qual.ord.toNat != 1 || !o.kind.isStore) = none ∧
      ∃ r ∈ (reading.core reading.cur).seen, ¬ (r.reaches reading.cur wide.qual.scope.toNat = true → reading.afterDone r.ops = true)) ∧
    (goes (withOp base 9000 loadOp) .fence (wj 0#5 0#5) = true ∧
      (withOp base 9000 loadOp).faultedOp 0 (top base).task (fun o => (wj 0#5 0#5).qual.ord.toNat != 1 || !o.kind.isStore) = none ∧
      ∃ x ∈ (withOp base 9000 loadOp).opsOf 0 (top base).task, x.2.performed = false) ∧
    (goes countedLoad .wait noLimits = true ∧ (limits noLimits).1 = 31 ∧ (limits noLimits).2.1 = 31) ∧
    (goes countedLoad .wait zeroLimits = true ∧ (limits zeroLimits).1 = 0 ∧ ¬ (top countedLoad).lv.ldc ≤ (limits zeroLimits).1 ∧
      countedLoad.faultedOp countedLoad.cur (top countedLoad).task (fun _ => true) = none) ∧
    (goes counted .ctrw w3 = true ∧ ((top counted).xGet (fieldB w3)).toNat % 8 = 0 ∧
      counted.faultedOp counted.cur (top counted).task (fun _ => true) = none ∧
      ∀ c ∈ [5#64, 6#64], bytesRead ((upTo c).readV 0 0 0x10100#64 8 .load) = some (leBytes 5 8) ∧ goes (upTo c) .ctrw w3 = true ∧ (upTo c).cur = 0 ∧
        (upTo c).tenantOf (top (upTo c)).ltag = 0 ∧ (top (upTo c)).xGet (fieldB w3) = 0x10100#64) ∧
    (top (upTo 5#64)).xGet (fieldC w3) = 5#64 ∧ (top (upTo 6#64)).xGet (fieldC w3) = 6#64 := by
  refine ⟨?_, ?_, ?_, ?_, ?_, ⟨?_, ?_, ?_, ?_⟩, ?_, ?_⟩
  · decide +kernel
  · decide +kernel
  · decide +kernel
  · decide +kernel
  · decide +kernel
  · decide +kernel
  · decide +kernel
  · decide +kernel
  · intro c h
    simp only [List.mem_cons, List.not_mem_nil, or_false] at h
    rcases h with rfl | rfl <;> refine ⟨?_, ?_, ?_, ?_, ?_⟩ <;> decide +kernel
  · decide +kernel
  · decide +kernel

/-! Tasks, timers, messages, barriers, engines. -/

/-- A claim of resource 34 mod 32, a held claim. -/
def claiming (l : List Claim) (ceil : List Nat) : State :=
  (stand (fun f => { f with claims := l })).modCore 0 (fun c => { c with ceil := ceil })
def r5 : Bundle := wj 0#5 5#5

theorem witness_ClaimsNest :
    (runs base = true ∧ (∀ op ∈ [Op.claim, .release], op.prof.has (profileOf base.cur) = true) ∧ immJ (wj 31#5 31#5) < 0 ∧ 31 < immJ (wj 1#5 0#5)) ∧
    (goes (claiming [] (List.replicate 32 6)) .claim r5 = true ∧ (immJ r5).toNat = 5 ∧ (top (claiming [] (List.replicate 32 6))).level ≤ 6 ∧
      (top (claiming [] (List.replicate 32 6))).claims = []) ∧
    (goes (claiming [] []) .claim r5 = true ∧ ((claiming [] []).core 0).ceil.getD 5 0 < (top (claiming [] [])).level) ∧
    (goes (claiming [{ res := 5, thr := 0 }] []) .claim r5 = true ∧ ∃ x ∈ (top (claiming [{ res := 5, thr := 0 }] [])).claims, x.res = 5) ∧
    (goes (claiming [{ res := 5, thr := 0 }] []) .release r5 = true ∧
      (top (claiming [{ res := 5, thr := 0 }] [])).claims = [{ res := 5, thr := 0 }]) ∧
    (goes base .release r5 = true ∧ ∀ x ∈ (top base).claims.head?, x.res ≠ 5) := by decide +kernel

/-- A descriptor or control word in register 2: level 2, core 8, this package. -/
def control : Word := BitVec.ofNat 64 (8 + 2 * 2 ^ 26 + 2 ^ 29)
def aDescr : Descr := { handler := 0x10040#64, target := { core := 8, pkg := 0, gov := false }, level := 2, args := [1#64, 2#64, 3#64, 4#64] }
def withControl : State := at2 control
def pendingOne : State := stand (fun f => { f.xSet 2 100#64 with pending := some aDescr })
def aTimer : Timer := { deadline := 0, handle := 0#64, descr := aDescr, item := 0#64, ltag := 1, after := [] }
def armed : State := base.modCore 0 (fun c => { c with timers := [(0, aTimer)] })
def recordAt : State :=
  { at2 0x10100#64 with dram := memSetN (memSetN (base.dram) 0x40100 8 0x10040) 0x40108 8 2 }

theorem witness_SuccessorsAndTimersRelease :
    (∀ op ∈ [Op.succ, .relev], goes withControl op w3 = true) ∧ descriptorOk withControl (top withControl) w3 ∧ releaseFree withControl (top withControl) 2 [] ∧
    (goes pendingOne .tmr w2 = true ∧ modOpt w2 < 2 ∧ (top pendingOne).pending = some aDescr ∧ (pendingOne.core 0).freeTimer = some 0 ∧
      releaseFree pendingOne (top pendingOne) 2 []) ∧
    (goes pendingOne .tmr (wm 32#10) = true ∧ modOpt (wm 32#10) = 1) ∧
    (goes armed .tmr (wm 64#10) = true ∧ modOpt (wm 64#10) = 2 ∧ kget (armed.core 0).timers (((top armed).xGet (fieldB (wm 64#10))).toNat % 8) = some aTimer ∧
      aTimer.handle = (top armed).xGet (fieldB (wm 64#10))) ∧
    (goes base .tmr (wm 64#10) = true ∧ (base.core 0).timers = []) ∧
    (kget (armed.core 0).timers 0 = some aTimer ∧ aTimer.deadline ≤ armed.time ∧ armed.stilled 0 = false ∧ armed.parked aTimer.ltag = false) := by
  unfold descriptorOk releaseFree
  refine ⟨?_, ?_, ?_, ?_⟩ <;> decide +kernel

/-- A frame that is drained and names its own core. -/
def migrating : State := stand (fun f => { f with mig := some (1, BitVec.ofNat 64 (1 * 2 ^ 16 + 2 * 2 ^ 32)) })

/-- A record of `spawn` at 0x10100 whose control word is v, which has come from its home. -/
def spawnBytes (v : Nat) : List Byte := List.replicate 8 0#8 ++ leBytes v 8 ++ List.replicate 80 0#8
def spawning (v : Nat) : State :=
  bytesCame (stand (fun f => f.xSet 1 0x10100#64)) [(0x40100, (spawnBytes v).take 64), (0x40140, (spawnBytes v).drop 64)]

theorem witness_IdentitiesRecordsAndMigrations :
    (goes base .getid (wj 1#5 0#5) = true ∧ isCompute base.cur = true) ∧
    (∀ v ∈ [0, 3 * 16], goes (spawning v) .spawn (wj 1#5 0#5) = true ∧ (spawning v).cur = 0 ∧ (spawning v).tenantOf (top (spawning v)).ltag = 0 ∧
      (top (spawning v)).xGet (fieldA (wj 1#5 0#5)) = 0x10100#64 ∧ bytesRead ((spawning v).readV 0 0 0x10100#64 96 .load) = some (spawnBytes v) ∧
      ((spawning v).readV 0 0 0x10100#64 96 .load).2.faultedOp 0 (top (spawning v)).task (fun _ => true) = none ∧ spawnBad (spawnBytes v) = false ∧
      field (recWord (spawnBytes v) 1) 5 4 = v / 16 ∧ ((spawning v).readV 0 0 0x10100#64 96 .load).2.dieInMesh 0 0 = true ∧
      (((spawning v).readV 0 0 0x10100#64 96 .load).2.die 0).ready.length < 4096 ∧
      (((spawning v).readV 0 0 0x10100#64 96 .load).2.die 0).rangeCount ≤ 2046) ∧
    (goes base .migr (wj 1#5 0#5) = true ∧ (top base).isTrapHandler = false ∧ (top base).claims = [] ∧
      base.outsideMesh (top base).ltag
        { core := ((top base).xGet (fieldA (wj 1#5 0#5))).toNat % 4096, pkg := base.pkg, gov := false } = false) ∧
    (goes (claiming [{ res := 5, thr := 0 }] []) .migr (wj 1#5 0#5) = true ∧ (top (claiming [{ res := 5, thr := 0 }] [])).isTrapHandler = false ∧
      (top (claiming [{ res := 5, thr := 0 }] [])).claims.head? = some { res := 5, thr := 0 }) ∧
    ((migrating.core 0).frames = [top migrating] ∧ (top migrating).mig = some (1, BitVec.ofNat 64 (1 * 2 ^ 16 + 2 * 2 ^ 32)) ∧
      migrating.stilled 0 = false ∧ (top migrating).drained = true ∧ migrating.faultedOp 0 (top migrating).task (fun _ => true) = none) := by
  refine ⟨?_, ?_, ?_, ?_, ?_⟩
  · decide +kernel
  · intro v h
    simp only [List.mem_cons, List.not_mem_nil, or_false] at h
    rcases h with rfl | rfl <;> refine ⟨?_, ?_, ?_, ?_, ?_, ?_, ?_, ?_, ?_, ?_, ?_⟩ <;> decide +kernel
  · decide +kernel
  · decide +kernel
  · decide +kernel

/-- A control word in register 1 of level 2 for core 8, or for the cores 1 and 3 of tile 1; an even handler in register 2. -/
def messaging (v : Nat) : State := stand (fun f => { (f.xSet 1 (BitVec.ofNat 64 v)).xSet 2 0x10040#64 with src := { core := 9, pkg := 0, space := 0 } })
def toCore8 : Nat := 8 + 2 * 2 ^ 26 + 2 ^ 29
def toTwo : Nat := 8 + 10 * 2 ^ 32

def wch : Bundle := { wm3 32#10 with b := 0#5 }

theorem witness_MessagesAndChannelWordsLeave :
    (∀ row ∈ [(Op.send, false), (Op.reply, true)], goes (messaging toCore8) row.1 w3 = true ∧ modOpt w3 % 2 = 0 ∧
      field ((top (messaging toCore8)).xGet (fieldA w3)) 28 26 ≠ 7 ∧ field ((top (messaging toCore8)).xGet (fieldA w3)) 31 30 ≠ 3 ∧
      coreExists (coreKey 0 8) = true ∧ ((top (messaging toCore8)).xGet (fieldB w3)).getLsbD 0 = false ∧
      (∀ k ∈ [8, 9], (messaging toCore8).outsideMesh 1 { core := k, pkg := 0, gov := false } = false) ∧
      (messaging toCore8).faultedOp 0 (top (messaging toCore8)).task (fun _ => true) = none ∧
      ∀ v ∈ [7 * 2 ^ 26, 3 * 2 ^ 30], goes (messaging v) row.1 w3 = true ∧
        (field ((top (messaging v)).xGet (fieldA w3)) 28 26 = 7 ∨ field ((top (messaging v)).xGet (fieldA w3)) 31 30 = 3)) ∧
    (∀ row ∈ [(Op.send, false), (Op.reply, true)], goes (messaging toTwo) row.1 wch = true ∧ modOpt wch % 2 = 1 ∧ wch.qual.ord.toNat = 0 ∧
      ∀ k ∈ [9, 11], (messaging toTwo).outsideMesh 1 { core := k, pkg := 0, gov := false } = false ∧
        (messaging toTwo).unacked 0 0 k + wordCount wch ≤ 32) ∧
    (let s := (messaging toTwo).modCore 0 (fun c => { c with credit := [(creditKey 0 9, 32), (creditKey 0 11, 0)] })
     ∀ op ∈ [Op.send, .reply], goes s op wch = true ∧ 32 < s.unacked 0 0 9 + wordCount wch) := by decide +kernel

/-- A core with a channel 1 of a level. -/
def channelled (level : Nat) (v : Word) (q : List (Word × Bool)) : State :=
  (stand (fun f => f.xSet 2 v)).modCore 0 (fun c => { c with chans := [(1, { bind := 1#64, level := level, ltag := 1, q := q })] })

theorem witness_MasksAndBindings :
    goes base .cmask (wj 0#5 15#5) = true ∧ goes base .cunmask (wj 0#5 0#5) = true ∧
    (goes (at2 3#64) .chbind w2 = true ∧ ((top (at2 3#64)).xGet (fieldB w2)).toNat % 4 = 3) ∧
    (goes (channelled 2 1#64 []) .chbind w2 = true ∧ kget ((channelled 2 1#64 []).core 0).chans (fieldA w2) = some { bind := 1#64, level := 2, ltag := 1, q := [] } ∧
      (top (channelled 2 1#64 [])).level ≠ 2) ∧
    (∀ n ∈ [0, 1, 2], let v := BitVec.ofNat 64 n
      goes (channelled 1 v [(7#64, false)]) .chbind w2 = true ∧
      kget ((channelled 1 v [(7#64, false)]).core 0).chans (fieldA w2) = some { bind := 1#64, level := 1, ltag := 1, q := [(7#64, false)] } ∧
      (top (channelled 1 v [(7#64, false)])).level = 1 ∧
      (channelled 1 v [(7#64, false)]).chanBusy 0 (top (channelled 1 v [(7#64, false)])) 1 = false ∧
      (top (channelled 1 v [(7#64, false)])).chanQueued 1 = false) ∧
    (let s := (channelled 1 1#64 []).modTop 0 (fun f => { f with lv := { f.lv with
       vq := [{ seq := 0, stamp := 0, pc := 0x10010, fl := 0#6, writes := [], srst := none, stoch := false, fault := none, op := none,
                chan := some (.vchadd, wj 1#5 1#5), named := [], rmode := 0#64, fpen := 0#64 }] } })
     goes s .chbind w2 = true ∧ ((top s).xGet (fieldB w2)).toNat % 4 = 1 ∧ (top s).chanQueued 1 = true) := by decide +kernel

/-- A barrier unit 5 of die 0. -/
def unit5 (members : List Nat) (leads : KMap Nat) (phase : Nat) : Barrier :=
  { ltag := 1, members := members, leads := leads, phase := phase, store := [], overflow := [], after := [] }
def aWaiter : BWaiter :=
  { phase := 1, target := aDescr.target, scope := 6, after := [],
    ev := { kind := .task, handler := aDescr.handler, level := 2, args := [], item := 0#64, src := { core := 0, pkg := 0, space := 0 }, cls := none,
            ltag := 1, gov := none } }
def withUnit (b : Barrier) (s : State) : State := { s with dies := kset s.dies 0 { s.die 0 with barriers := [(5, b)] } }

theorem witness_BarriersCountAndStore :
    (∀ b ∈ [unit5 [8] [] 0, unit5 [0, 8] [(0, 3)] 0, unit5 [0, 8] [] 0, unit5 [0, 8] [(8, 1)] 0], goes (withUnit b base) .arrive r5 = true ∧
      bitOf (rawJ r5) 11 = false ∧ kget ((withUnit b base).die 0).barriers (rawJ r5 % 256) = some b ∧ b.ltag = (top (withUnit b base)).ltag) ∧
    (¬ 0 ∈ (unit5 [8] [] 0).members ∧ 3 ≤ (unit5 [0, 8] [(0, 3)] 0).lead 0 ∧ (unit5 [0, 8] [] 0).lead 0 < 3 ∧ (unit5 [0, 8] [] 0).lead 8 = 0 ∧
      (unit5 [0, 8] [(8, 1)] 0).lead 0 = 0 ∧ (unit5 [0, 8] [(8, 1)] 0).lead 8 ≠ 0 ∧ r5.qual.ord.toNat = 0) ∧
    (goes base .arrive r5 = true ∧ kget (base.die 0).barriers (rawJ r5 % 256) = none) ∧
    (let w : Bundle := { wj 24#5 5#5 with imx := [2#10] }
     ∀ n ∈ [0, 1, 2], let s := stand (fun f => { f with arrive := n })
     goes s .arrive w = true ∧ bitOf (rawJ w) 11 = true ∧ bitsOf (rawJ w) 10 8 ≠ s.cur / 512 ∧ (top s).arrive = n ∧ w.qual.ord.toNat = 0) ∧
    (let w : Bundle := { wj 1#5 5#5 with imx := [0#10] }
     let s (p : Nat) := withUnit (unit5 [0, 8] [] 1) (stand (fun f => { f.xSet 1 (BitVec.ofNat 64 p) with pending := some aDescr }))
     (∀ p ∈ [1, 2], goes (s p) .bwait w = true ∧ (top (s p)).pending = some aDescr ∧ bitOf (imxValue w * 32 + w.b.toNat) 11 = false ∧
        kget ((s p).die 0).barriers ((imxValue w * 32 + w.b.toNat) % 256) = some (unit5 [0, 8] [] 1) ∧
        (s p).faultedOp 0 (top (s p)).task (fun _ => true) = none ∧ (unit5 [0, 8] [] 1).store.length < 64) ∧
      (let full : Barrier := { unit5 [0, 8] [] 1 with store := List.replicate 64 aWaiter }
       goes (withUnit full (s 2)) .bwait w = true ∧ kget ((withUnit full (s 2)).die 0).barriers 5 = some full ∧ 64 ≤ full.store.length) ∧
      2 ^ 31 ≤ (1 + 2 ^ 32 - (2#64).toNat % 2 ^ 32) % 2 ^ 32 ∧ (1 + 2 ^ 32 - (1#64).toNat % 2 ^ 32) % 2 ^ 32 < 2 ^ 31) := by decide +kernel

/-- Registers 2 to 9 hold a command. -/
def pushing (l : List Nat) : State :=
  stand (fun f => (List.range 8).foldl (fun f i => f.xSet (2 + i) (BitVec.ofNat 64 (l.getD i 0))) f)
/-- A copy of 64 bytes, and one of none. -/
def copy64 : List Nat := [0x10100, 0x10200, 64, 0]
/-- A held status, a running copy. -/
def withStatus (l : List JobStatus) (job : Nat) : State :=
  (stand (fun f => f.xSet 2 (BitVec.ofNat 64 job))).modCore 0 (fun c => { c with statuses := l })

theorem witness_CopiesPushAndStatusesPop :
    (∀ row ∈ [(Op.cpy, 4), (Op.cpyx, 8)], goes (pushing copy64) row.1 w2 = true ∧
      copyBad (pushWords (top (pushing copy64)) w2 row.2) (tileOf 0) (pushing copy64).pkg
        (kget ((pushing copy64).tile (tileOf 0)).layouts (copyCmd (pushWords (top (pushing copy64)) w2 row.2)).slot) = false ∧
      (copyCmd (pushWords (top (pushing copy64)) w2 row.2)).empty = false ∧ (top (pushing copy64)).lv.cpc < 32 ∧
      (pushing copy64).faultedOp 0 (top (pushing copy64)).task (fun _ => true) = none) ∧
    (∀ row ∈ [(Op.cpy, 4), (Op.cpyx, 8)], goes (pushing []) row.1 w2 = true ∧
      copyBad (pushWords (top (pushing [])) w2 row.2) (tileOf 0) (pushing []).pkg
        (kget ((pushing []).tile (tileOf 0)).layouts (copyCmd (pushWords (top (pushing [])) w2 row.2)).slot) = false ∧
      (copyCmd (pushWords (top (pushing [])) w2 row.2)).empty = true ∧ (top (pushing [])).lv.cpc < 32 ∧ (top (pushing [])).pending = none ∧
      ((pushing []).core 0).frames.tail = [] ∧ (pushing []).faultedOp 0 (top (pushing [])).task (fun _ => true) = none ∧
      (let s := (pushing []).modTop 0 (fun f => { f with pending := some aDescr })
       goes s row.1 w2 = true ∧ (top s).pending = some aDescr ∧ (copyCmd (pushWords (top s) w2 row.2)).empty = true)) ∧
    (∀ row ∈ [(Op.cpytst, [1, 2], 1), (.uepop, [3], 3)],
      (goes base row.1 w2 = true ∧ ¬ field ((top base).xGet (fieldB w2)) 19 16 ∈ row.2.1) ∧
      (let j := row.2.2 * 2 ^ 16 + 7
       let s := withStatus [{ level := 1, engine := row.2.2, job := j, status := 1 }] j
       goes s row.1 w2 = true ∧ field ((top s).xGet (fieldB w2)) 19 16 ∈ row.2.1 ∧ s.jobPending 0 (top s).level ((top s).xGet (fieldB w2)).toNat = false ∧
        (s.core 0).statuses.find? (fun x => x.level == (top s).level && x.engine == row.2.2 && x.job == ((top s).xGet (fieldB w2)).toNat) =
          some { level := 1, engine := row.2.2, job := j, status := 1 }) ∧
      (let s := withStatus [] (row.2.2 * 2 ^ 16 + 7)
       goes s row.1 w2 = true ∧ s.jobPending 0 (top s).level ((top s).xGet (fieldB w2)).toNat = false ∧ (s.core 0).statuses = [])) ∧
    (let s := (match exec (.cpy w2) (pushing copy64) with | .next t => t | _ => base).modTop 0 (fun f => f.xSet 2 (f.xGet 1))
     goes s .cpytst w2 = true ∧ s.jobPending 0 (top s).level ((top s).xGet (fieldB w2)).toNat = true) := by decide +kernel

/-- A layout program of one operation stands at 0x10100. -/
def withProgram : State := bytesCame (stand (fun f => f.xSet 1 0x10100#64)) [(0x40100, leBytes 0x12 8), (0x40108, leBytes 2 8)]
/-- A launch with a group of one rank and a collective handler. -/
def collCtx : Context := { placedContext with words := placedWords.set 5 0x10040#64, groups := [[(0, 0)]] }
def collCmd : List Nat := [0, 0x10100, 0x10200, 64, 256, 0, 0, 0]
def collState : State := bytesCame { pushing collCmd with ctxs := kset base.ctxs 1 collCtx } [(0x4003C, leBytes 0x200 4)]
/-- A network context of the tenant with one endpoint. -/
def netState : State :=
  { pushing [0x100, 0x10100, 64, 0x10200, 0, 0, 0, 0] with
    netCtxs := [(1, { tenant := 0, sluice := 0, ports := 1, rlist := 0#64, rlen := 0, keys := 0#64, endpoints := [{ fabric := 0, job := 0, ctx := 0 }] })] }

theorem witness_EngineCommandsArePushed :
    (goes withProgram .lxload (wj 1#5 0#5) = true ∧ (top withProgram).xGet (fieldA (wj 1#5 0#5)) = 0x10100#64 ∧
      withProgram.tenantOf (top withProgram).ltag = 0 ∧ bytesRead (withProgram.readV 0 0 0x10100#64 8 .load) = some (leBytes 0x12 8) ∧
      bitsOf (leValue (leBytes 0x12 8)) 8 4 = 1 ∧
      bytesRead ((withProgram.readV 0 0 0x10100#64 8 .load).2.readV 0 0 0x10108#64 8 .load) = some (leBytes 2 8) ∧
      programOk ((List.range 1).map (recWord (leBytes 2 8))) = true) ∧
    (goes collState .coll w2 = true ∧ coreExists collState.cur = true ∧ isCompute collState.cur = true ∧ collState.ctx (top collState).ltag = some collCtx ∧
      collCtx.words.getD 5 0#64 = 0x10040#64 ∧
      collState.tenantOf (top collState).ltag = 0 ∧
      (let r := collState.frameWord 0 0 0x10040#64
       r.1 = .word 0x200 none ∧ collState.groupOf 1 (collOp ((top collState).xRange (fieldB w2) 8)).group = some [(0, 0)] ∧
        collBad (collOp ((top collState).xRange (fieldB w2) 8)) (some [((0 : Nat), (0 : Nat))].length) (bitsOf 0x200 15 8) = false ∧
        (top collState).lv.cpc < 32 ∧ r.2.faultedOp 0 (top collState).task (fun _ => true) = none ∧ r.2.rankOf [(0, 0)] 0 = some 0)) ∧
    (goes netState .uepost w2 = true ∧ netState.ueBad ((top netState).xRange (fieldB w2) 8) = false ∧
      (kget netState.netCtxs (ueCmd ((top netState).xRange (fieldB w2) 8)).ctx).map (·.tenant) = some (netState.tenantOf (top netState).ltag) ∧
      (top netState).lv.cpc < 32 ∧ netState.faultedOp 0 (top netState).task (fun _ => true) = none) := by decide +kernel

/-- Two runs of 256 bytes in the frame's scratch. -/
def twoRuns : State := stand (fun f => { ((f.xSet 2 256#64).xSet 3 256#64) with fscr := 512 })

theorem witness_BlockAddWritesItsRun :
    goes twoRuns .baddq w3 = true ∧
    (let f := top twoRuns
     let a := (f.xGet (fieldA w3)).toNat
     let b := (f.xGet (fieldB w3)).toNat
     let n := (f.xGet (fieldC w3)).toNat
     let mem := (twoRuns.tile (scratchTile twoRuns.cur)).array
     a % 16 = 0 ∧ b % 16 = 0 ∧ n % 256 = 0 ∧ n ≠ 0 ∧ typeOf .baddq w3 ≠ 16 ∧ a + n ≤ f.fscr ∧ b + n ≤ f.fscr ∧ memWf mem = true ∧ a + n ≤ b ∧
      f.trapsOn (baddqRun (typeOf .baddq w3) (modOpt w3) (f.fsb + a) (f.fsb + b) n mem).2 = false) ∧
    (goes base .baddq w3 = true ∧ ∀ k ∈ [1, 2, 3], (top base).xGet k = 0#64) := by decide +kernel

/-! Vector bundles and matrix jobs. -/

/-- Stochastic rounding on for conversions. -/
def stochastic : State := stand (fun f => { f with lv := { f.lv with rmode := 4#64 } })
/-- Conversions: from type 1 to bfloat16, to a block, from a block; the complement of k0 as predicate. -/
def convWord (op : Op) : Bundle := if op = .vcvt then wm 43#10 else if op = .vqnt then wm3 14#10 else wm3 11#10
def offK : Qlx := { pred := 0#3, neg := true, scope := 0#3, ord := 0#2, flag := false }
def never3 : Bundle := { w3 with qlx := some offK }
/-- The bundles of three registers, and those of two. -/
def wordFor (op : Op) : Bundle := if op = .vsel ∨ op = .vslide ∨ op = .vext then w3 else w2

theorem witness_VectorFloatResults :
    (∀ row ∈ floatTwo, ready base row.2.1 w2 = true ∧ ready base row.2.1 w3 = true) ∧ (∀ row ∈ floatOne, ready base row.2.1 w2 = true) ∧
    (∀ row ∈ floatThree, ready base row.2.1 w2 = true ∧ ready base row.2.1 w3 = true) ∧
    (∀ op ∈ [Op.vmin, .vmax, .vabs, .vneg], ready base op w2 = true) := by decide +kernel

theorem witness_VectorIntegerAndMoveResults :
    (∀ row ∈ integerTwo, ready base row.2.1 w2 = true ∧ ready base row.2.1 w3 = true) ∧
    (∀ op ∈ [Op.vimad, .vsel, .vbcast, .vperm, .vslide, .vzip, .vunzip], ready base op (wordFor op) = true) := by decide +kernel

theorem witness_WholeVectorAndReductionResults :
    (∀ row ∈ wholeBundles, goes base row.2.1 (wordFor row.2.1) = true ∧
      ready base row.2.1 { wordFor row.2.1 with qlx := some offK } = true ∧
      ((top base).predicate { wordFor row.2.1 with qlx := some offK }).getLsbD 0 = false) ∧
    (goes base .vins w3 = true ∧ ready base .vins never3 = true ∧ ((top base).predicate never3).getLsbD 0 = false) ∧
    (∀ row ∈ reductions, ready base row.2.1 w2 = true) ∧ ready base .vcmp w3 = true ∧
    (∀ row ∈ conversions, goes base row.2.1 (convWord row.2.1) = true ∧ stochasticFor (top base) (row.2.2.1 (convWord row.2.1)) = false ∧
      ready base row.2.1 { convWord row.2.1 with qlx := some offK } = true ∧
      goes stochastic row.2.1 (convWord row.2.1) = true ∧ stochasticFor (top stochastic) (row.2.2.1 (convWord row.2.1)) = true ∧
      stochastic.srstBusy 0 (top stochastic) = false) := by decide +kernel

/-- A channel 2 at a level, with words. -/
def channel2 (level : Nat) (q : List (Word × Bool)) : State :=
  base.modCore 0 (fun c => { c with chans := [(2, { bind := 1#64, level := level, ltag := 1, q := q })] })

/-- The oldest vector bundle of the level. -/
def anEntry : VEntry :=
  { seq := 1, stamp := 5, pc := 0x10010, fl := 0#6, writes := [.v 3 0#512], srst := none, stoch := false, fault := none, op := none, chan := none, named := [],
    rmode := 0#64, fpen := 0#64 }
def queued (e : VEntry) (en : Word) : State := stand (fun f => { f with lv := { f.lv with vq := [{ e with fpen := en }] } })
def vectorLoad : MemOp := { finished (anOp .load (.vector 3 10) 0x40100) with vec := true }
def vectorStore : MemOp := { finished (anOp .store .none 0x40100) with vec := true }
def badLoad : MemOp := { vectorLoad with fault := some .absent, elems := vectorLoad.elems.map (fun e => { e with done := false, bad := some .absent }) }

theorem witness_VectorBundlesWaitAndComplete :
    (∀ op ∈ [Op.vchadd, .vchmax, .vchst], ready base op w2 = true ∧ (base.core 0).chans = [] ∧
      (ready (channel2 5 []) op w2 = true ∧ (top (channel2 5 [])).level ≠ 5 ∧
        kget ((channel2 5 []).core 0).chans (fieldB w2) = some { bind := 1#64, level := 5, ltag := 1, q := [] }) ∧
      (ready (channel2 1 []) op w2 = true ∧ (top (channel2 1 [])).level = 1 ∧ chanReady [] = false) ∧
      (ready (channel2 1 [(3#64, true)]) op w2 = true ∧ chanReady [(3#64, true)] = true ∧
        (channel2 1 [(3#64, true)]).chanBusy 0 (top (channel2 1 [(3#64, true)])) 2 = false ∧ (top (channel2 1 [(3#64, true)])).chanQueued 2 = false)) ∧
    (let s := queued anEntry 0
     s.frameAt 0 1 = some (top s) ∧ s.frameOf 0 (top s).task = some (top s) ∧ (top s).lv.vq = [{ anEntry with fpen := 0 }] ∧ anEntry.fault = none ∧ anEntry.op = none ∧
      anEntry.chan = none ∧ enables 0#64 anEntry.fl = false) ∧
    (let s := queued { anEntry with fl := 1#6 } 0x3F#64
     s.frameAt 0 1 = some (top s) ∧ s.frameOf 0 (top s).task = some (top s) ∧ enables 0x3F#64 1#6 = true) ∧
    (let s := queued { anEntry with fault := some (.perm, 0#64) } 0
     s.frameAt 0 1 = some (top s) ∧ s.frameOf 0 (top s).task = some (top s)) ∧
    (let s := withOp (queued { anEntry with op := some 9000, writes := [] } 0) 9000 vectorLoad
     s.frameAt 0 1 = some (top s) ∧ s.frameOf 0 (top s).task = some (top s) ∧ kget s.ops 9000 = some vectorLoad ∧ vectorLoad.fault = none ∧
      vectorLoad.performed = true ∧ vectorLoad.core = 0 ∧ vectorLoad.task = (top s).task ∧ vectorLoad.kind = .load ∧
      vectorLoad.dest = .vector 3 10 ∧ s.afterDone vectorLoad.behind = true ∧ s.replyOut 9000 = false) ∧
    (let s := withOp (queued { anEntry with op := some 9000, writes := [] } 0) 9000 vectorStore
     s.frameAt 0 1 = some (top s) ∧ kget s.ops 9000 = some vectorStore ∧ vectorStore.fault = none ∧ vectorStore.performed = true ∧
      vectorStore.dest = .none) ∧
    (let s := withOp (queued { anEntry with op := some 9000, writes := [] } 0) 9000 badLoad
     s.frameAt 0 1 = some (top s) ∧ kget s.ops 9000 = some badLoad ∧ badLoad.fault = some .absent ∧
      badLoad.elems.find? (fun x => x.bad.isSome) = badLoad.elems.head? ∧ badLoad.core = 0 ∧ badLoad.task = (top s).task) ∧
    (let s := (queued { anEntry with chan := some (.vchadd, w2), writes := [] } 0).modCore 0
        (fun c => { c with chans := [(2, { bind := 1#64, level := 1, ltag := 1, q := [(3#64, true)] })] })
     s.frameAt 0 1 = some (top s) ∧ s.frameOf 0 (top s).task = some (top s) ∧
      kget (s.core 0).chans (fieldB w2) = some { bind := 1#64, level := 1, ltag := 1, q := [(3#64, true)] } ∧
      enables 0#64 (chanStep .vchadd (typeOf .vchadd w2) (ctlOf 0#64) ((top s).predicate w2) ((top s).vGet (fieldA w2))
        [(3#64, true)]).1.fl = false) := by
  refine ⟨?_, ?_, ?_, ?_, ?_, ?_, ?_, ?_⟩ <;> decide +kernel

/-- A ring with bundle 7 of level 1 done, 8 faulted, 9 of level 2; register 2 holds a number. -/
def ringed (n : Nat) : State :=
  (stand (fun f => f.xSet 2 (BitVec.ofNat 64 n))).modCore 0 (fun c => { c with cpring :=
    [{ seq := 9, lvl := 2, pc := 0, done := false, flt := false, disc := false }, { seq := 8, lvl := 1, pc := 0, done := false, flt := true, disc := false },
     { seq := 7, lvl := 1, pc := 0, done := true, flt := false, disc := false }] })

theorem witness_MatrixJobsDispatchAndTest :
    (∀ row ∈ matrixJobs, (ready base row.2 (wj 1#5 2#5) = true ∨ ready base row.2 w3 = true ∨ ready base row.2 (wm3 1#10) = true ∨
        ready base row.2 (wj 0#5 0#5) = true ∨ ready base row.2 (wj 1#5 0#5) = true) ∧
      jobStochastic row.2 (top base) ((top base).xGet 3) = false) ∧ (top base).lv.tlc < 64 ∧
    (ready (channel2 1 []) .rstreamch w3 = true ∧ kget ((channel2 1 []).core 0).chans (fieldB w3) = some { bind := 1#64, level := 1, ltag := 1, q := [] } ∧
      (top (channel2 1 [])).level = 1 ∧ (channel2 1 []).chanBusy 0 (top (channel2 1 [])) 2 = false ∧ (top (channel2 1 [])).chanQueued 2 = false) ∧
    (ready (channel2 5 []) .rstreamch w3 = true ∧ (top (channel2 5 [])).level ≠ 5) ∧
    (goes (ringed 6) .mtest w2 = true ∧ ((ringed 6).core 0).cpring.find? (fun e => e.seq == 6) = none) ∧
    (∀ n ∈ [7, 8, 9], goes (ringed n) .mtest w2 = true ∧ (((ringed n).core 0).cpring.find? (fun e => e.seq == n)).isSome = true ∧
      ((top (ringed n)).xGet (fieldB w2)).toNat % 65536 = n) := by decide +kernel

/-- A matrix job of the task at level 1 on core 0. -/
def aJob (op : Op) (w : Bundle) : Job :=
  { op := op, word := w, seq := 7, stamp := 3, pc := 0x10010, task := (top base).task, item := 0, ltag := 1, xa := 0, xb := 0, xc := 1, active := true,
    sampled := { fmta := 0, fmtb := 0, fmtc := 2#64, scla := 0, sclb := 0, rmode := 0, fpen := 0 },
    hdr := { off := 0, base := 0, rows := 0, fmt := 0, planes := 0, span := 0, pstride := 0 }, acb := 0, arows := 2, fsb := 12288, fscr := 64,
    succ := none, started := false, unit := 0, pos := 0, outPos := 0, units := 1, buf := [], ended := false, finished := false, srst := none,
    fl := flNone, fault := none, after := [], undoBytes := [], undoRows := [], undoWords := [], accepted := 0 }
def withJob (j : Job) : State := stand (fun f => { f with lv := { f.lv with tlc := 1 } }) |>.setJobs 0 1 [j]
/-- A start that passes its checks, one that does not. -/
def startOf (s : State) (j : Job) : Option Job :=
  match (if hasHeader j.op then s.startHeader 0 j else s.startPlain 0 j) with | .ok j' => some j' | .error _ => none
def startFault (s : State) (j : Job) : Option (Cause × Word) :=
  match (if hasHeader j.op then s.startHeader 0 j else s.startPlain 0 j) with | .ok _ => none | .error e => some e

theorem witness_MatrixJobsRun :
    (∀ j ∈ [aJob .mzero w3, { aJob .mzero w3 with active := false }, { aJob .mzero w3 with xa := 2 }], (withJob j).jobsOf 0 1 = [j] ∧
      (withJob j).stilled 0 = false ∧ j.started = false ∧ j.finished = false) ∧
    (startOf (withJob (aJob .mzero w3)) (aJob .mzero w3)).isSome = true ∧
    (startFault (withJob { aJob .mzero w3 with xa := 2 }) { aJob .mzero w3 with xa := 2 }).isSome = true ∧
    (∀ op ∈ [Op.mswap, .mzero], let j := { aJob op w3 with started := true }
      (withJob j).stilled (8 * 0) = false ∧ ((withJob j).engineTurn 0).map (fun x => (x.1, x.2.1)) = some (0, 1) ∧
        (withJob j).jobsOf (8 * 0 + 0) 1 = [j]) ∧
    (let j := { aJob .mzero w3 with started := true, finished := true, succ := some aDescr }
     (withJob j).jobsOf 0 1 = [j] ∧ j.fault = none ∧ j.fl = flNone ∧ j.srst = none ∧ (withJob j).frameOf 0 j.task = some (top (withJob j)) ∧
      (top (withJob j)).trapsOn flNone = false ∧ (let j := { j with fault := some (Cause.window, 0#64) }
        (withJob j).jobsOf 0 1 = [j] ∧ (withJob j).vecPartial 0 j = false)) ∧
    (let j := { aJob .mzero w3 with started := true, finished := true, fault := some (Cause.window, 0#64) }
     let o := { finished (anOp .store .none 0x40100) with vec := true }
     let s := withOp ((withJob j).modTop 0 (fun f => { f with lv := { f.lv with vq := [{ anEntry with op := some 9000 }] } })) 9000 o
     s.jobsOf 0 1 = [j] ∧ s.vecPartial 0 j = true) := by decide +kernel

/-! Messages, events, Governors. -/

/-- A message for core 0 of the launch, reassembled at its router, and the state that holds it. -/
def aMsg (kind : Nat) (words : List Word) (endw : Bool) : Msg :=
  { kind := kind, dpkg := 0, dcore := 0, dspace := 0, src := { core := 9, pkg := 0, space := 0 }, tenant := 0, cls := 3, level := 2, ordered := true,
    pseq := 0, rel := false, scope := 0, gov := false, words := words, endw := endw, ltag := 1, handler := 0x10040#64, item := 5#64, ev := .task,
    rangeOf := none, after := [] }
def netMsg (m : Msg) : NetMsg := { msg := m, src := 1, pref := 0, tag := some 0, flits := 1, arrived := 1, drow := 0, dcol := 0, edge := false }
def arrived (m : Msg) (s : State) : State := { s with msgs := [(9000, netMsg m)], nextId := 10000 }
def anEvent : REvent :=
  { kind := .task, handler := 0x10040#64, level := 2, args := [7#64], item := 5#64, src := { core := 9, pkg := 0, space := 0 }, cls := none, ltag := 1, gov := none }
/-- The inbox of core 0 full at level 2; a channel 1 bound by class 3, by source. -/
def fullInbox : State := base.modCore 0 (fun c => { c with inbox := List.replicate 64 anEvent })
def boundTo (v : Word) : State := base.modCore 0 (fun c => { c with chans := [(1, { bind := v, level := 1, ltag := 1, q := [] })] })

theorem atItsTarget_of {s : State} {m : Msg} (h : (decide (kget s.msgs 9000 = some (netMsg m)) && s.afterDone m.after && decide (m.dpkg = s.pkg) &&
      decide ((s.router 0).hold = []) && decide ((s.router 0).window = []) && decide (kgetD (s.router 0).expect (expectKey m) 0 = m.pseq) &&
      isCompute (msgTarget m) && !(s.die (dieOf (msgTarget m))).inReset && decide (s.launchAt (msgTarget m) = some 1) &&
      decide (s.ctx 1 = some placedContext) && decide (m.tenant = 0) && decide (tileOf (msgTarget m) = 0) &&
      decide (9000 < s.nextId) && !m.blank) = true) : atItsTarget s 9000 0 m 1 := by
  simp only [Bool.and_eq_true, decide_eq_true_eq, Bool.not_eq_true'] at h
  obtain ⟨⟨⟨⟨⟨⟨⟨⟨⟨⟨⟨⟨⟨h1, h2⟩, h3⟩, h4⟩, h5⟩, h6⟩, h7⟩, h8⟩, h9⟩, h10⟩, h11⟩, h12⟩, h13⟩, h14⟩ := h
  exact ⟨netMsg m, placedContext, h1, h13, rfl, Nat.le_refl 1, fun _ => h2, h3, h14, show 0 = tileAt 0 0 by decide, h4, h5, fun _ => h6, h7, h8, h9, h10, h11.symm, by rw [h12]; rfl, rfl⟩

theorem witness_MessagesAndFlitsMove_messages :
    (∀ kind ∈ [0, 1], atItsTarget (arrived (aMsg kind [1#64, 2#64, 3#64, 4#64] false) base) 9000 0 (aMsg kind [1#64, 2#64, 3#64, 4#64] false) 1 ∧
      atItsTarget (arrived (aMsg kind [1#64, 2#64, 3#64, 4#64] false) fullInbox) 9000 0 (aMsg kind [1#64, 2#64, 3#64, 4#64] false) 1) ∧
    (base.core 0).channelOfClass 3 = none ∧ (fullInbox.core 0).channelOfClass 3 = none ∧
    (arrived (aMsg 0 [1#64, 2#64, 3#64, 4#64] false) base).inboxRoom 0 2 = true ∧
    (arrived (aMsg 0 [1#64, 2#64, 3#64, 4#64] false) fullInbox).inboxRoom 0 2 = false ∧
    (aMsg 0 [1#64, 2#64, 3#64, 4#64] false).ev = .task ∧
    9000 < (arrived (aMsg 0 [1#64, 2#64, 3#64, 4#64] false) fullInbox).nextId := by
  have l : ∀ kind, ∀ s ∈ [base, fullInbox], kind ∈ [0, 1] → atItsTarget (arrived (aMsg kind [1#64, 2#64, 3#64, 4#64] false) s) 9000 0
      (aMsg kind [1#64, 2#64, 3#64, 4#64] false) 1 := by
    intro kind s hs hk
    simp only [List.mem_cons, List.not_mem_nil, or_false] at hs hk
    rcases hs with rfl | rfl <;> rcases hk with rfl | rfl <;> exact atItsTarget_of (by decide +kernel)
  refine ⟨fun k hk => ⟨l k base (by simp) hk, l k fullInbox (by simp) hk⟩, ?_, ?_, ?_, ?_, ?_, ?_⟩ <;> decide +kernel

theorem witness_MessagesAndFlitsMove_channels :
    (∀ kind ∈ [0, 2], atItsTarget (arrived (aMsg kind [1#64, 2#64, 3#64, 4#64] false) (boundTo 14#64)) 9000 0 (aMsg kind [1#64, 2#64, 3#64, 4#64] false) 1) ∧
    ((boundTo 14#64).core 0).channelOfClass 3 = some 1 ∧ ((boundTo 14#64).core 0).channelFor 0 { core := 9, pkg := 0, space := 0 } 3 = some 1 ∧
    kget ((boundTo 14#64).core 0).chans 1 = some { bind := 14#64, level := 1, ltag := 1, q := [] } ∧
    (let m := aMsg 1 [1#64] false
     let s := base.modRouter 0 (fun r => { r with hold := [m] })
     (∀ x ∈ s.ctxs, x.2.state = .running → x.2.leat = []) ∧ m.gov = false ∧ isHandler m = false ∧ (s.router 0).hold = [m] ∧ (s.router 0).window = [] ∧ isCompute (msgTarget m) = true ∧ (s.die 0).inReset = false ∧ s.launchAt 0 = some 1 ∧
      s.ctx 1 = some placedContext ∧ placedContext.tenant = m.tenant ∧ placedContext.started.contains (tileOf (msgTarget m)) = true ∧
      placedContext.leat = [] ∧ s.inboxRoom (msgTarget m) m.level = true) := by
  have l : ∀ kind ∈ [0, 2], atItsTarget (arrived (aMsg kind [1#64, 2#64, 3#64, 4#64] false) (boundTo 14#64)) 9000 0
      (aMsg kind [1#64, 2#64, 3#64, 4#64] false) 1 := by
    intro kind hk
    simp only [List.mem_cons, List.not_mem_nil, or_false] at hk
    rcases hk with rfl | rfl <;> exact atItsTarget_of (by decide +kernel)
  refine ⟨l, ?_, ?_, ?_, ?_⟩ <;> decide +kernel

/-- A flit one hop from router 0, and one at it. -/
def aFlit (r : Nat) : Flit := { msg := 9000, router := r, port := 0, age := 1023, first := true, last := true, pref := 0, injected := true, waited := 0 }
def flitAt (r : Nat) : State := { arrived (aMsg 1 [1#64] false) base with flits := [aFlit r], msgs := [(9000, { netMsg (aMsg 1 [1#64] false) with arrived := 0 })] }

theorem witness_MessagesAndFlitsMove_flits :
    (∀ r ∈ [0, 1], (flitAt r).flits = [aFlit r] ∧ kget (flitAt r).msgs 9000 = some { netMsg (aMsg 1 [1#64] false) with arrived := 0 } ∧
      (flitAt r).flits.Nodup ∧ 9000 < (flitAt r).nextId ∧ (∀ f ∈ (flitAt r).flits, (flitAt r).inMesh 0 f.router = true) ∧ (aFlit r).injected = true) ∧
    tileAt 0 0 = 0 ∧ (∃ o, o < 4 ∧ (flitAt 1).inMesh 0 (neighbour 1 o) = true ∧ hopsLeft (neighbour 1 o) 0 0 < hopsLeft 1 0 0) := by
  refine ⟨by decide +kernel, by decide +kernel, 3, by decide, by decide +kernel, by decide +kernel⟩

/-- An event in the inbox of core 0 whose frame word stands before its handler at 0x10040: it fits, or it does not. -/
def pushable (word : Nat) : State := bytesCame (base.modCore 0 (fun c => { c with inbox := [anEvent] })) [(0x4003C, leBytes word 4)]
def pushWord (word : Nat) : WordOut × State := (pushable word).frameWord 0 0 0x10040#64

theorem storageFree {s : State} {core : Nat} (h : (s.tile (tileOf core)).queues = []) (a r b n : Nat) : s.storageHeld core a r b n = false := by
  simp [State.storageHeld, h]
theorem notWaiting {c : Core} (h : c.follow = .free) (n k : Nat) : c.follow ≠ .waiting n k := by simp [h]

/-- A frame that a fault waits for, in front of its first bundle or late. -/
def faulted (start : Option (Cause × Word)) (late : List LateFault) : State :=
  handled.modTop 0 (fun f => { f with start := start, late := late })
def aLate : LateFault := { cause := .fpx, pc := 0x10010, eaddr := 0#64, eseq := 0x10001, stamp := 1, restore := none }
def faultWord (s : State) : WordOut × State := s.frameWord 0 0 0x10040#64

/-- A follower with a forwarded bundle. -/
def fwdAdd (next : Nat) : Forwarded := { instr := .add w2, words := 1, pc := 0x10010, next := next }
def follower (next : Nat) : State :=
  ((onCore 1 id).modCore 1 (fun c => { c with follow := .attached 2 [fwdAdd next] })).modCore 0 (fun c => { c with follow := .leading 2 })

theorem witness_CoresTakeEventsFaultsAndBundles :
    (∀ word ∈ [0x20000000, 0x3FF0000], ((pushable word).core 0).candidate = some anEvent ∧ (pushable word).tenantOf anEvent.ltag = 0 ∧ (pushable word).stilled 0 = false ∧ (pushable word).parked anEvent.ltag = false ∧ anEvent.kind = .task ∧
      (pushWord word).1 = .word word none ∧ anEvent.handler.getLsbD 0 = false ∧ ((pushWord word).2.tile (tileOf 0)).queues = [] ∧
      ((pushWord word).2.core 0).follow = .free) ∧
    (field (BitVec.ofNat 64 0x20000000) 25 16 ≤ rowShare 0 ∧ field (BitVec.ofNat 64 0x20000000) 15 8 = 0 ∧
      ¬ field (BitVec.ofNat 64 0x3FF0000) 25 16 ≤ rowShare 0) ∧
    (∀ s ∈ [faulted (some (.window, 0#64)) [], faulted none [aLate]], (s.core 0).frames = [top s] ∧ s.stilled 0 = false ∧ (top s).level < 7 ∧
      s.ctx (top s).ltag = some handledCtx ∧ handledCtx.trapHandler = 0x10040#64 ∧ s.tenantOf (top s).ltag = 0 ∧ (faultWord s).1 = .word 0x20000000 none ∧
      ((faultWord s).2.tile (tileOf 0)).queues = [] ∧ ((faultWord s).2.core 0).follow = .free ∧ (top s).task ≠ (faultWord s).2.nextId) ∧
    (top (faulted (some (.window, 0#64)) [])).start = some (.window, 0#64) ∧
    ((top (faulted none [aLate])).start = none ∧ (top (faulted none [aLate])).late = [aLate]) ∧
    (∀ next ∈ [0x10012, 0x10020], let s := follower next
      ready { s with cur := 1 } .add w2 = true ∧ goes { s with cur := 1 } .add w2 = true ∧ nextPc (top { s with cur := 1 }) w2 ≠ (top { s with cur := 1 }).pc ∧
      (let d := s.modCore 1 (fun c => { c with follow := .draining [fwdAdd next] })
       goes { d with cur := 1 } .add w2 = true ∧ d.stilled 1 = false ∧ (d.core 1).candidate = none ∧ d.raiseDue 1 = none) ∧
      (s.core 1).follow = .attached 2 [fwdAdd next] ∧ s.stilled 1 = false ∧ (s.core 1).candidate = none ∧ s.raiseDue 1 = none ∧
        (fwdAdd next).instr.code? = some (.add, w2) ∧
        (match exec (fwdAdd next).instr { s with cur := 1 } with
          | .next u => State.completed s { u with cur := s.cur } 1 .add w2 && (u.core 1).follows 2 && !(u.core 1).frames.isEmpty
          | _ => false) = true) := by
  refine ⟨?_, ?_, ?_, ?_, ?_, ?_⟩
  · decide +kernel
  · decide +kernel
  · decide +kernel
  · decide +kernel
  · decide +kernel
  · decide +kernel

/-- A migration package in flight to core 0: no rows, or one row and 256 bytes of scratch. -/
def aPackage (wins : Word) (rows : List (BitVec 32)) (scratch : List Byte) : Package :=
  { frame := { top base with wins := wins, task := 77, level := 2 }, rows := rows, scratch := scratch, planes := [], fromCore := 8, viaTrap := false,
    status := none }
def packEvent : REvent := { anEvent with kind := .package 9000 }
def arriving (p : Package) : State := { base.modCore 0 (fun c => { c with inbox := [packEvent] }) with
    packs := [(9000, p)], ctxs := kset base.ctxs 1 { placedContext with words := placedWords.set 1 0x10100#64 } }
/-- An away marker under a frame, and a notice for it. -/
def aNotice : Notice := { core := 0, task := 77, after := [8000], seen := [] }
def marked (origin : Option Nat) : State :=
  { base.modCore 0 (fun c => { c with frames := [{ top base with task := 78, level := 3 }, { top base with task := 77, kind := .away 8, origin := origin }] })
    with notices := [aNotice] }

theorem witness_MigrationsArriveAndMarkersEnd :
    (∀ p ∈ [aPackage 0#64 [] [], aPackage 0x10100#64 (List.replicate 64 1#32) (List.replicate 256 1#8)],
      ((arriving p).core 0).candidate = some packEvent ∧ packEvent.kind = .package 9000 ∧ kget (arriving p).packs 9000 = some p ∧ (arriving p).stilled 0 = false ∧ (arriving p).parked packEvent.ltag = false ∧
      ((arriving p).tile (tileOf 0)).queues = [] ∧ ((arriving p).core 0).follow = .free ∧
      (((arriving p).core 0).frames.map (·.arows)).foldl (· + ·) 0 + field (p.frame.wins) 25 16 ≤ rowShare 0 ∧
      (((arriving p).core 0).frames.map (·.fscr)).foldl (· + ·) 0 + 256 * field (p.frame.wins) 15 8 ≤ ((arriving p).scratchArea 0 packEvent.ltag).2 ∧
      p.scratch.length = 256 * field (p.frame.wins) 15 8 ∧ p.rows.length = 64 * field (p.frame.wins) 25 16) ∧
    (∀ o ∈ [none, some 8], (marked o).notices.find? (fun x => x.core == 0 && x.task == 77) = some aNotice ∧ (marked o).underWay 10 (.token 77) = false ∧ (∀ c ∈ (marked o).ctxs, c.2.saved = none) ∧
      ((marked o).core 0).frames = [{ top base with task := 78, level := 3 }] ++ { top base with task := 77, kind := .away 8, origin := o } :: [] ∧
      ((marked o).core 0).follow = .free) := by decide +kernel

/-- The stack of the example of 09 R254, top first, with 5 in v0 and 9 in v6 of the level-1 frame. -/
def exampleStack : List Frame :=
  [{ emptyFrame with level := 6, wins := 0x3C000000 }, { emptyFrame with level := 5, wins := 0x7C000000 },
   { emptyFrame with level := 3, wins := 0x7C000000 }, { emptyFrame with level := 1, wins := 0xFC000000, v := [(0, 5#512), (6, 9#512)] }]

/-- 09 R254, steps 1 to 3 of its example: the push of the handler, with 8 scalar and 12 vector registers, spills v0 to v5 and v6 to v11 of the level-1 frame to
offsets 0 and 384, and no scalar unit. -/
theorem test_spill_example :
    (makeRoom 2 1 exampleStack).map (·.slots) = [[], [], [], [0, 1]] ∧ (makeRoom 2 1 exampleStack).map (·.spilledX) = [0, 0, 0, 0] ∧
      memGetN (spillOver [] 0 (newSpills exampleStack (makeRoom 2 1 exampleStack))) 0 384 = 5 ∧
      memGetN (spillOver [] 0 (newSpills exampleStack (makeRoom 2 1 exampleStack))) 384 384 = 9 := by decide +kernel

/-- An arrival at unit 5 of die 0 from another core, with what it carries. -/
def anArrival : Msg := { aMsg 8 [5#64, 8#64, 77#64] false with ordered := false }
def waitingArrival : State := withUnit (unit5 [0, 8] [] 0) (arrived anArrival base)
/-- A frame whose acknowledgement has come, without a message of its own on the way. -/
def acknowledged : State := stand (fun f => { f with arrive := 5 })

theorem witness_AcknowledgementsReturn :
    (kget waitingArrival.msgs 9000 = some (netMsg anArrival) ∧ 9000 < waitingArrival.nextId ∧ anArrival.kind = 8 ∧ anArrival.blank = false ∧ (netMsg anArrival).flits ≤ (netMsg anArrival).arrived ∧
      (waitingArrival.router (tileAt 0 0)).hold = [] ∧ placedContext.leat = [] ∧
      waitingArrival.ctx anArrival.ltag = some placedContext ∧ placedContext.state = .running ∧ (waitingArrival.die (5 / 256)).inReset = false ∧
      kget (waitingArrival.die (5 / 256)).barriers (5 % 256) = some (unit5 [0, 8] [] 0) ∧ (unit5 [0, 8] [] 0).ltag = anArrival.ltag ∧
      8 ∈ (unit5 [0, 8] [] 0).members ∧ ((unit5 [0, 8] [] 0).arrive 8).map (·.2) = some false) ∧
    (5 ≤ (top acknowledged).arrive ∧ acknowledged.underWay 7 (.token (top acknowledged).task) = false) ∧
    (∀ job ∈ [none, some (1, 3)], let a : Ack := { sender := 0, target := 8, words := 4, job := job, token := 5, ltag := 1 }
     let s := { (withJob (aJob .rankch w3)).modCore 0 (fun c => { c with credit := [(8, 32)] }) with acks := [a] }
     s.acks.find? (fun x => x.sender == 0 && x.target == 8 && x.words == 4 && !s.underWay 7 (.token x.token)) = some a ∧
      s.savedOf a.ltag = none ∧ a.copy = none ∧ kgetD (s.core 0).credit 8 0 ≠ 0 ∧ (s.jobsOf 0 1).map (·.stamp) = [3]) := by decide +kernel

/-- A record in the ready queue of die 0: for any die, for die 1 alone. -/
def aRec (aff affDie : Nat) : GovRec := { id := 40, ev := anEvent, aff := aff, affDie := affDie, planes := false, after := [], forwarded := false }
def rec1 : GovRec := { aRec 3 1 with forwarded := true }
def onItsWay : GivenRec := { src := 0, dst := 1, rec_ := rec1 }
def governed (foot : List Nat) (ready : List GovRec) (steals : List Nat) : State :=
  { base with
    ctxs := kset base.ctxs 1 { placedContext with foot := foot },
    dies := kset (kset base.dies 0 { base.die 0 with ready := ready }) 2 { base.die 2 with steals := steals } }

/-- The ready queue of die 1 is full. -/
def crowded : State :=
  { governed [512] [] [] with given := [onItsWay], dies := [(1, { base.die 1 with ready := List.replicate 4096 { aRec 0 0 with id := 41 } })] }

theorem witness_GovernorsPlaceForwardAndSteal_full :
    4096 ≤ (crowded.die 1).ready.length ∧ (∀ r ∈ (crowded.die 1).ready, r.id ≠ onItsWay.rec_.id) ∧ crowded.dieQualifies 1 1 = true ∧
      crowded.underWay 10 (.token 40) = false := by
  have e : (crowded.die 1).ready = List.replicate 4096 { aRec 0 0 with id := 41 } := rfl
  refine ⟨Nat.le_of_eq (by rw [e, List.length_replicate]), fun r h => ?_, by decide +kernel, by decide +kernel⟩
  rw [e] at h
  rw [List.eq_of_mem_replicate h]; decide

theorem witness_GovernorsPlaceForwardAndSteal :
    (let s := governed [0] [aRec 0 0] []
     0 < 8 ∧ s.dieHeld 0 = false ∧ (s.die 0).ready = [] ++ aRec 0 0 :: [] ∧ mayPlace s 0 (aRec 0 0)) ∧
    (let s := governed [0, 512] [aRec 3 1] []
     (s.die 0).ready = [] ++ aRec 3 1 :: [] ∧ s.recReady 0 (aRec 3 1) = true ∧ (aRec 3 1).localTo 0 = false ∧ (aRec 3 1).forwarded = false ∧
      s.forwardDie 0 3 1 1 = some 1) ∧
    (∀ foot ∈ [[512], [0]], let s := { governed foot [] [] with given := [onItsWay] }
     (s.die 1).ready = [] ∧ s.given.find? (fun y => y.dst == 1 && y.rec_.id == 40) = some onItsWay ∧ s.underWay 10 (.token 40) = false ∧
      s.dieQualifies 1 1 = foot.contains 512 ∧ s.given.find? (fun y => y.dst == 1 && !s.underWay 10 (.token y.rec_.id)) = some onItsWay) ∧
    (let g := { aRec 0 0 with forwarded := true }
     let s : State := { governed [512] [] [] with given := [{ src := 1, dst := 0, rec_ := g }] }
     s.dieQualifies 0 1 = false ∧ State.forwardDie { s with given := [] } 0 0 0 1 = some 1) ∧
    (let s : State := { base with given := [onItsWay], msgs := [(9000, netMsg { aMsg 10 [] false with ev := .token 40 })] }
     s.underWay 10 (.token 40) = true) ∧
    (let s := governed [0] [aRec 3 1] []
     s.recReady 0 (aRec 3 1) = true ∧ (aRec 3 1).localTo 0 = false ∧ s.forwardDie 0 3 1 1 = none ∧ anEvent.kind = .task ∧ (s.ctx 1).isSome = true) ∧
    (let s := { base with retired := [(0, 40)] }
     (0, 40) ∈ s.retired ∧ s.underWay 10 (.token 40) = false ∧ ∀ c ∈ s.ctxs, c.2.saved = none) ∧
    (let g := { aRec 0 0 with forwarded := true }
     let s := governed [512] [g] []
     g.forwarded = true ∧ s.dieQualifies 0 1 = false ∧ s.recReady 0 g = true ∧ s.forwardDie 0 0 0 1 = some 1) ∧
    (let s := { base with policy := { base.policy with stealRecords := 4 } }
     ringNeighbours 1 0 = true ∧ s.governorIdle 1 = true ∧ s.dieHeld 1 = false ∧ s.policy.stealRecords ≠ 0 ∧ ¬ 0 ∈ (s.die 1).steals ∧
      (s.die 1).stealNext ≤ s.time) ∧
    (let s := governed [0] [aRec 0 0] [0]
     2 ≠ 0 ∧ 0 ∈ (s.die 2).steals ∧ s.underWay 10 (.access 2 0) = false) := by
  have p : (governed [0] [aRec 0 0] []).placeable (aRec 0 0) 0 = true := by decide +kernel
  refine ⟨⟨by decide, by decide +kernel, by decide +kernel, by decide +kernel, by decide +kernel, by decide +kernel, 0, by decide, p⟩, ?_, ?_, ?_, ?_, ?_, ?_, ?_, ?_, ?_⟩ <;>
    decide +kernel

/-! Copies, collectives, launch queues. -/

/-- A copy job of the task on core 0 of 64 bytes, planned, with a segment. -/
def aSegment (started wrote : Bool) : Segment :=
  { reads := [(0, 64)], writes := [(0, 64)], started := started, src := [], dst := if started then [(.array 0 0x100, 64)] else [],
    data := if started then List.replicate 64 9#8 else [], left := 0, wrote := wrote }
def aCopy (words : List Nat) (segs : List Segment) (status : Option Nat) : CopyJob :=
  { core := 0, level := 1, task := (top base).task, item := 0, ltag := 1, tenant := 0, ident := 0x10001, words := words.map (BitVec.ofNat 64),
    succ := none, segs := segs, planned := true, startCycle := some 0, status := status, failAddr := 0, boxSent := true, acks := [], mfail := 0, prog := [],
    fsb := 12288, fscr := 0, after := [] }
def withCopy (j : CopyJob) : State := { stand (fun f => { f with lv := { f.lv with cpc := 1 } }) with copies := [(9000, j)], nextId := 10000, cycle := 2 ^ 26 }
/-- To memory, to an address that is not mapped; a clipped copy of 2 rows of which 1 is there; a multicast. -/
def plainWords : List Nat := [0x10100, 0x10200, 64, 0, 0, 0, 0, 0]
def lostWords : List Nat := [0x10100, 0x80000000, 64, 0, 0, 0, 0, 0]
def clipWords : List Nat := [0x10100, 0x10200, 0, 0, 2 + 64 * 2 ^ 32, 64 + 64 * 2 ^ 32, 0, 1]
def castWords : List Nat := [0x10100, 0, 64 + 2 * 2 ^ 32 + 16 * 2 ^ 32, 3, 0, 0, 0, 0]
def sourceOf (j : CopyJob) (s : State) : Except (Nat × Word) (List (Loc × Nat)) × State := s.runPlaces j j.cmd.ssc (j.words.getD 0 0#64) .load [(0, 64)]
def targetOf (j : CopyJob) (s : State) : Except (Nat × Word) (List (Loc × Nat)) × State := s.runPlaces j j.cmd.dsc (j.words.getD 1 0#64) .store [(0, 64)]

theorem witness_AcknowledgementsReturn_copies :
    let a : Ack := { sender := 0, target := 8, words := 4, job := none, token := 5, ltag := 1, copy := some 9000 }
    let j := aCopy plainWords [] none
    let s := { withCopy j with acks := [a] }
    s.acks.find? (fun x => x.sender == 0 && x.target == 8 && x.words == 4 && !s.underWay 7 (.token x.token)) = some a ∧ s.savedOf a.ltag = none ∧
      kget s.copies 9000 = some j := by decide +kernel

def isOk {ε α : Type} (r : Except ε α × State) : Bool := match r.1 with | .ok _ => true | .error _ => false

/-- From an address that is not mapped, and to one as well. -/
def noSource : List Nat := [0x80000000, 0x10200, 64, 0, 0, 0, 0, 0]
def nowhere : List Nat := [0x80000000, 0x90000000, 64, 0, 0, 0, 0, 0]
/-- An earlier job of the core has a segment in flight at the same places. -/
def inFront : State :=
  let s := withCopy (aCopy plainWords [aSegment false false] none)
  { s with copies := kset s.copies 8999 (aCopy plainWords [{ aSegment true false with src := [(.global 0 (sliceOf 0x40100) 0x40100, 64)], dst := [(.global 0 (sliceOf 0x40200) 0x40200, 64)] }] none) }
def mayCopy (s : State) (j : CopyJob) : Bool :=
  decide (kget s.copies 9000 = some j) && !s.stilled j.core && decide (s.copyTurnOf (tileOf j.core) = some 9000) && j.planned && j.status.isNone &&
    decide (j.segs[0]? = some (aSegment false false)) && !j.cmd.dch && !j.cmd.mcast

theorem witness_CopySegmentsReadThenWrite :
    (∀ words ∈ [plainWords, lostWords, noSource, nowhere], let j := aCopy words [aSegment false false] none
      mayCopy (withCopy j) j = true ∧ isOk (sourceOf j (withCopy j)) = (words == plainWords || words == lostWords) ∧
        isOk (targetOf j (sourceOf j (withCopy j)).2) = (words == plainWords || words == noSource)) ∧
    (let j := aCopy plainWords [aSegment false false] none
     let r := targetOf j (sourceOf j (withCopy j)).2
     (match (sourceOf j (withCopy j)).1, r.1 with
      | .ok src, .ok dst => !r.2.copyBlocked 9000 j src dst && !r.2.placesHeld src && src.all (fun p => !p.1.far)
      | _, _ => false) = true) ∧
    (let j := aCopy plainWords [aSegment false false] none
     kget inFront.copies 9000 = some j ∧ (∀ y ∈ inFront.copies, y.1 = 9000 → y.2 = j) ∧ j.planned = true ∧
      j.segs[0]? = some (aSegment false false) ∧ inFront.segmentBlocked 9000 j (aSegment false false) = true) ∧
    (∀ l ∈ [Loc.array 0 0x100, .global 0 (sliceOf 0x40200) 0x40200], let x := { aSegment true false with dst := [(l, 64)] }
     let j := aCopy plainWords [x] none
     kget (withCopy j).copies 9000 = some j ∧ j.segs[0]? = some x ∧ x.started = true ∧ x.wrote = false ∧ j.status = none ∧
      (∀ y ∈ j.segs, y.started = true ∧ (y.left = 0 ∨ y.wrote = true)) ∧ j.cmd.dch = false ∧ (withCopy j).underWay 6 (.segment 9000 0) = false ∧
      (withCopy j).placesHeld x.dst = false ∧ j.cmd.mcast = false ∧ j.cmd.plain = true ∧ x.data.length = 64 ∧ 0x40200 % 64 + 64 ≤ 64 ∧
      (withCopy j).segmentReady j 0 x = true ∧ runsLength x.writes = 64) := by
  refine ⟨?_, ?_, ?_, ?_⟩ <;> decide +kernel

theorem witness_CopiesComplete :
    (∀ words ∈ [plainWords, clipWords], let j := aCopy words [aSegment true true] none
     let s := withCopy j
     kget s.copies 9000 = some j ∧ s.parked j.ltag = false ∧ j.status = none ∧ j.planned = true ∧ j.succ = none ∧
      (∀ x ∈ j.segs, x.wrote = true ∧ x.left = 0) ∧ j.cmd.mcast = false ∧ j.mfail = 0 ∧ (s.frameOf j.core j.task).isSome = true ∧
      j.cmd.clipped = (words == clipWords) ∧ j.boxSent = true ∧ j.boxDone = false) ∧
    (let j := { aCopy clipWords [aSegment true true] none with boxDone := true }
     kget (withCopy j).copies 9000 = some j ∧ j.cmd.clipped = true ∧ j.boxSent = true ∧ j.boxDone = true ∧
      ((withCopy j).frameOf j.core j.task).isSome = true) ∧
    (let j := { aCopy castWords [aSegment true true] none with acks := [(0, 2)] }
     kget (withCopy j).copies 9000 = some j ∧ j.cmd.mcast = true ∧ j.masked.length ≤ (j.acks.map (·.2)).sum ∧ j.mfail = 0 ∧ j.cmd.clipped = false ∧
      ((withCopy j).frameOf j.core j.task).isSome = true) ∧
    (let j := { aCopy castWords [aSegment true true] none with acks := [(0, 2)], mfail := 3 }
     j.masked.length ≤ (j.acks.map (·.2)).sum ∧ j.mfail = 3 ∧ (withCopy j).ctx j.ltag = some placedContext ∧ j.core ≠ cqCore j.ltag) ∧
    (let j := aCopy plainWords [] (some 3)
     kget (withCopy j).copies 9000 = some j ∧ j.status = some 3 ∧ (withCopy j).ops = [] ∧ (withCopy j).ctx j.ltag = some placedContext ∧
      ((withCopy j).frameOf j.core j.task).isSome = true) ∧
    (let j := aCopy castWords [aSegment true true] none
     kget (withCopy j).copies 9000 = some j ∧ j.cmd.mcast = true ∧ j.planned = true ∧ (∀ x ∈ j.segs, x.wrote = true ∧ x.left = 0) ∧
      j.masked.countP (fun t => superGroupOf t == 1) = 0 ∧ j.masked.countP (fun t => superGroupOf t == 0) ≠ 0 ∧ ¬ 0 ∈ j.acksSent) ∧
    (let j := { aCopy castWords [aSegment true true] none with acksSent := [0] }
     let s : State := { withCopy j with msgs := [(9001, netMsg { aMsg 7 [] false with ev := .segment 9000 0 })] }
     kget (withCopy j).copies 9000 = some j ∧ 0 ∈ j.acksSent ∧ (withCopy j).underWay 7 (.segment 9000 0) = false ∧
      kget s.copies 9000 = some j ∧ s.underWay 7 (.segment 9000 0) = true) ∧
    (let j := aCopy plainWords [aSegment false false] none
     kget (withCopy j).copies 9000 = some j ∧ j.startCycle = some 0 ∧ 0 + 2 ^ 26 ≤ (withCopy j).cycle ∧ (withCopy j).parked j.ltag = false ∧
      j.status = none) := by
  refine ⟨?_, ?_, ?_, ?_, ?_, ?_, ?_, ?_⟩ <;> decide +kernel

/-- A collective of a group of the one rank on core 0, 64 elements in one block. -/
def aCmd : CollCmd :=
  { rank := 0, lost := false, core := 0, level := 1, task := (top base).task, item := 0, ident := 0x20001, words := collCmd.map (BitVec.ofNat 64), succ := none, after := [] }
def aColl (parts : KMap (List (List Byte))) (finished : List Nat) : Collective :=
  { ltag := 1, tenant := 0, group := 0, cmds := [aCmd], parts := parts, handled := [], sent := [], joined := [], peers := [], finished := finished,
    failed := [], started := 0, missing := [], status := none, others := [], told := true }
def withColl (c : Collective) : State :=
  { stand (fun f => { f with lv := { f.lv with cpc := 1 } }) with ctxs := kset base.ctxs 1 collCtx, colls := [(9000, c)], nextId := 10000, cycle := 2 ^ 40 }
def gathered (c : Collective) : Option State :=
  match (withColl c).contributions 9000 c ((withColl c).ranksOf c).length 0 c.cmds with | .ok _ s => some s | _ => none

/-- A second rank whose command has another count; a rank that has not pushed. -/
def otherCmd : CollCmd := { aCmd with rank := 1, core := 8, words := (collCmd.set 4 512).map (BitVec.ofNat 64) }
def openBlock (s : State) (c : Collective) : Bool :=
  decide (kget s.colls 9000 = some c) && !s.parked c.ltag && decide (¬ 0 ∈ c.finished) && decide (¬ 0 ∈ c.failed) &&
    decide (0 < c.op.blocks (s.ranksOf c).length) && c.cmds.all (fun x => s.afterDone x.after)

theorem witness_CollectiveBlocksCombineAndEnd :
    (let c := { aColl [] [] with told := false }
     openBlock (withColl c) c = true ∧ (withColl c).absentHere c = [] ∧ (withColl c).goneRanks c = []) ∧
    (let c := { aColl [] [] with cmds := [{ aCmd with lost := true }] }
     openBlock (withColl c) c = true ∧ (withColl c).goneRanks c ≠ []) ∧
    (let c := { aColl [] [] with cmds := [aCmd, otherCmd] }
     openBlock (withColl c) c = true ∧ (withColl c).absentRanks c = [] ∧ c.disagreeing ≠ []) ∧
    (∀ c ∈ [aColl [] [], aColl [(0, [[1#8], [2#8]])] []], let s := withColl c
      openBlock s c = true ∧ s.absentRanks c = [] ∧ s.goneRanks c = [] ∧ c.told = true ∧ c.disagreeing = [] ∧ ¬ 0 ∈ c.handled ∧ s.ctx c.ltag = some collCtx ∧
        c.started + s.policy.collLimit ≤ s.cycle ∧ c.first.isSome = true) ∧
    ((gathered (aColl [] [])).map (fun v => kget v.colls 9000) = some (some (aColl [] []))) ∧
    (∀ c ∈ [aColl [] [0], { aColl [] [0] with toldDone := true }, { aColl [] [] with failed := [0], status := some 7 }], let s := withColl c
     s.parked c.ltag = false ∧ c.told = true ∧ c.op.blocks (s.ranksOf c).length ≤ c.finished.length + c.failed.length ∧ s.storesOpen 9000 = false ∧
      c.cmds = [aCmd] ∧ s.absentRanks c = [] ∧ c.disagreeing = [] ∧ aCmd.succ = none ∧ aCmd.lost = false ∧ aCmd.core ≠ collCore 9000 ∧ aCmd.core ≠ cqCore c.ltag ∧
      s.otherPackages c = [] ∧ (∀ b, b < c.op.blocks (s.ranksOf c).length → b ∈ c.finished ∨ b ∈ c.failed) ∧
      (s.frameOf aCmd.core aCmd.task).isSome = true) := by
  refine ⟨?_, ?_, ?_, ?_, ?_, ?_⟩ <;> decide +kernel

/-- Queue 0 of function 0 on a ring in memory at 0x10000, whose entry 0 names a record at an address; the record. -/
def ringQueue (tail head lg : Nat) : LaunchQueue := { loc := 1, base := 0x10, lg := lg, en := true, tail := tail, head := head, overflow := false, fault := false }
def ringed0 (q : LaunchQueue) (addr : Nat) : State :=
  let m := memSetN base.dram 0x40000 8 addr
  let m := (List.range 32).foldl (fun m i => memSetN m (0x40100 + 8 * i) 8 (placedWords.getD i 0#64).toNat) m
  { base with fns := kset base.fns 0 { base.fn 0 with queues := [(0, q)] }, dram := m, boot := { base.boot with stage := 5, done := true } }
def entryOf (s : State) : Option (List Byte × State) := match s.readEntry 0 0 ((s.fn 0).queue 0) with | .ok b v => some (b, v) | _ => none
def recordOf (v : State) : Option (List Byte × State) :=
  match v.engineReadV (ringCore 0 0) (v.fn 0).tenant 0x10100#64 256 with | .ok b u => some (b, u) | _ => none

/-- Records that pass or fail the checks of R354, with the status: none of version 1, of tenant 1, with 300 or 264 KiB of scratch, with more than 2,048 barrier
units; what each of them says in the fields that decide. -/
def someRecords : List (List Word × Nat) :=
  [ ([], 18), (placedWords.set 0 0x4101#64, 19), (placedWords.set 1 300#64, 16), (placedWords.set 1 264#64, 17), (placedWords.set 12 0x8010000#64, 20),
    (placedWords, 0) ]

theorem witness_LaunchQueuesTakeRecords_statuses :
    ∀ x ∈ someRecords, base.recordStatus 0 { words := x.1, starts := [], alloc := [], bars := [], groups := [] } [] [] = x.2 ∧
      recordShapeOk x.1 = decide (x.2 ≠ 18) ∧ (recField x.1 0 13 8 = 0 ↔ x.2 ≠ 19) ∧ (288 < recField x.1 1 8 0 ↔ x.2 = 16) ∧
      (x.2 ≠ 16 → (recField x.1 1 8 0 % 16 ≠ 0 ↔ x.2 = 17)) ∧ (2048 < recField x.1 12 27 16 ↔ x.2 = 20) := by decide +kernel

/-- Whether a Governor may take an entry of queue 0 of function 0. -/
def served (s : State) : Bool :=
  s.fnUp 0 && !s.dieHeld (dieOfFn 0) && !s.hostOpen 0 && ((s.fn 0).queue 0).enabled && decide (((s.fn 0).queue 0).head ≠ ((s.fn 0).queue 0).tail) &&
    s.ctxs.isEmpty
/-- A queue with one entry, at an address of a record. -/
def oneEntry (addr : Nat) : State := { ringed0 (ringQueue 1 0 4) addr with ctxs := [] }

theorem witness_LaunchQueuesTakeRecords_failures :
    (let s : State := { ringed0 { ringQueue 1 0 4 with base := 0x80000 } 0 with ctxs := [] }
     served s = true ∧ (match s.readEntry 0 0 ((s.fn 0).queue 0) with | .failed _ _ => true | _ => false) = true) ∧
    (served (oneEntry 0x80000000) = true ∧
      ((entryOf (oneEntry 0x80000000)).map (fun e => match e.2.engineReadV (ringCore 0 0) (e.2.fn 0).tenant (recWord e.1 0) 256 with
        | .failed _ _ => decide ((recWord e.1 0).toNat % 64 = 0) | _ => false)) = some true) ∧
    (let s : State := oneEntry 0x10200
     served s = true ∧ (((entryOf s).bind (fun e => match e.2.engineReadV (ringCore 0 0) (e.2.fn 0).tenant (recWord e.1 0) 256 with
        | .ok b _ => some b | _ => none)).map (fun b => recordShapeOk (byteWords b))) = some false) ∧
    (let s : State := { oneEntry 0x10100 with dram := memSetN (oneEntry 0x10100).dram (0x40100 + 48) 8 0x80000000 }
     served s = true ∧ (((entryOf s).bind (fun e => recordOf e.2)).map (fun r => recordShapeOk (byteWords r.1) &&
        (match r.2.readTables (ringCore 0 0) (r.2.fn 0).tenant (recTables r.2.pkg (byteWords r.1)) with | .failed => true | _ => false))) = some true) := by
  refine ⟨?_, ?_, ?_, ?_⟩ <;> decide +kernel

theorem witness_LaunchQueuesTakeRecords :
    (let s := ringed0 (ringQueue 0 0 4) 0
     s.fnTakes 0 none = true ∧ s.hostOpen 0 = false ∧ ((s.fn 0).queue 0).enabled = true ∧ (16 % 65536 + 65536 - 0) % 65536 ≤ 2 ^ 4 ∧ ¬ (17 % 65536 + 65536 - 0) % 65536 ≤ 2 ^ 4 ∧
      (s.fn 0).tdi = .unlocked) ∧
    (let s := { ringed0 (ringQueue 0 0 4) 0 with fns := kset base.fns 0 { base.fn 0 with tdi := .run, ide := some 0 } }
     s.fnTakes 0 (some 0) = true ∧ s.hostOpen 0 = false ∧ (s.fn 0).tdi ≠ .unlocked ∧ s.fnTakes 0 none = false) ∧
    (let s := { ringed0 (ringQueue 1 0 4) 0x10100 with ctxs := [] }
     s.fnUp 0 = true ∧ s.dieHeld (dieOfFn 0) = false ∧ s.hostOpen 0 = false ∧ ((s.fn 0).queue 0).enabled = true ∧ ((s.fn 0).queue 0).head ≠ ((s.fn 0).queue 0).tail ∧ s.ctxs = [] ∧
      ((entryOf s).map (fun e => (recWord e.1 0).toNat)) = some 0x10100 ∧
      (((entryOf s).bind (fun e => recordOf e.2)).map (fun r => recordShapeOk (byteWords r.1) && decide (recField (byteWords r.1) 0 13 8 = (r.2.fn 0).tenant) &&
        decide (recTables r.2.pkg (byteWords r.1) = [(0#64, 0), (0#64, 0), (0#64, 0), (0#64, 0)]) &&
        decide (r.2.recordStatus (r.2.fn 0).tenant { words := byteWords r.1, starts := [], alloc := [], bars := [], groups := [] } [] [] = 0))) = some true) ∧
    (let s := { ringed0 (ringQueue 1 0 4) 0x10104 with ctxs := [] }
     ((entryOf s).map (fun e => (decide ((recWord e.1 0).toNat % 64 ≠ 0), decide (e.2.fns = s.fns), decide (e.2.ctxs = s.ctxs)))) = some (true, true, true)) := by
  decide +kernel

/-- A waiting launch on tile 0, and the running one without its task. -/
def waitingCtx : Context := { placedContext with state := .waiting, started := [] }
def waitingLaunch : State := { base.modTile 0 (fun t => { t with launch := 0 }) with ctxs := [(1, waitingCtx)] }
def quietWith (c : Context) : State := { base.modCore 0 (fun k => { k with frames := [] }) with ctxs := [(1, c)] }
def reportCtx : Context := { placedContext with words := placedWords.set 24 0x100000040#64 }

/-- A launch with a start task for its one core, and that task when it waits for room. -/
def startCtx : Context := { placedContext with words := placedWords.set 18 0x10040#64, started := [] }
def leftCtx : Context := { startCtx with startLeft := [(0, [(0, anEvent)])] }
def noRoom : State := (quietWith startCtx).modCore 0 (fun k => { k with inbox := List.replicate 64 { anEvent with level := 0 } })

theorem witness_LaunchesStartTheirTasks :
    (∀ s ∈ [quietWith startCtx, noRoom], s.ctx 1 = some startCtx ∧ startCtx.state = .running ∧ 0 ∈ startCtx.tiles ∧ ¬ 0 ∈ startCtx.started ∧
      kget startCtx.startLeft 0 = none ∧ (startCtx.startsOf s.pkg 0).map (fun x => (x.1, x.2.1, x.2.2.1)) = [(0, 0, 0x10040#64)] ∧ 0 ∈ startCtx.coresOf 0) ∧
    (quietWith startCtx).inboxRoom 0 0 = true ∧ noRoom.inboxRoom 0 0 = false ∧
    ((quietWith leftCtx).ctx 1 = some leftCtx ∧ kget leftCtx.startLeft 0 = some [(0, anEvent)] ∧ (quietWith leftCtx).inboxRoom 0 anEvent.level = true) := by
  decide +kernel

/-- An entry that is due, with so many written before it; the ring and its counts in host memory. -/
def anEntryDue : CqEntry := { kind := 1, status := 1, cause := 0, w1 := 0#64, w2 := 0#64, w3 := 0#64 }
def pending (n : Nat) : Context := { placedContext with cqPend := [anEntryDue], cqCount := n }
def ringAtHost (c : Context) : State := { quietWith c with dram := memSetN base.dram 0x32008 8 0x4009F }

theorem witness_LaunchesStartReportAndEnd :
    (waitingLaunch.ctx 1 = some waitingCtx ∧ waitingCtx.state = .waiting ∧ waitingLaunch.startable 1 waitingCtx = true ∧
      waitingCtx.words.getD 7 0#64 = 0#64 ∧ waitingCtx.words.getD 8 0#64 = 0#64 ∧ waitingCtx.words.getD 9 0#64 = 0#64 ∧ 0 ∈ waitingCtx.tiles) ∧
    (let c : Context := { placedContext with started := [] }
     (quietWith c).ctx 1 = some c ∧ c.state = .running ∧ 0 ∈ c.tiles ∧ ¬ 0 ∈ c.started ∧ kget c.startLeft 0 = none ∧ c.startsOf 0 0 = []) ∧
    (let c : Context := { placedContext with cqLost := 3 }
     (quietWith c).ctx 1 = some c ∧ c.cqPend = [] ∧ c.cqLost ≠ 0 ∧ (quietWith c).cqRoom 1 c = some true) ∧
    (∀ x ∈ [(pending 0, quietWith (pending 0), some true), (pending 64, quietWith (pending 64), some false), (pending 64, ringAtHost (pending 64), none)],
      x.2.1.ctx 1 = some x.1 ∧ x.1.cqPend = [anEntryDue] ∧ x.1.cqLost = 0 ∧ x.2.1.cqRoom 1 x.1 = x.2.2) ∧
    (let c := reportCtx
     (quietWith c).ctx 1 = some c ∧ ((recBindings c.words)[0]?).map (·.report) = some true ∧ 0 % leavesOf ((recBindings c.words).drop 1) = 0 ∧
      ((recLeaves (quietWith c).pkg c.words).filter (fun x => decide (0 ≤ x.2) && decide (x.2 < 0 + leavesOf ((recBindings c.words).drop 1)))).map (·.1) = [0] ∧
      c.state = .running ∧ ¬ (0, 0) ∈ c.instDone ∧ tileOf 0 ∈ c.started ∧ (quietWith c).busyWith 1 (fun k => [0].contains k) = false ∧ (quietWith c).busyElsewhere 1 c (fun k => [0].contains k) = false ∧
      c.cqPend = [] ∧ c.cqLost = 0 ∧ (quietWith c).cqRoom 1 c = some true) ∧
    (let c := placedContext
     (quietWith c).ctx 1 = some c ∧ c.state = .running ∧ (quietWith c).quiescent 1 c = true ∧ c.cqLost = 0 ∧ c.cqPend = [] ∧ (quietWith c).cqRoom 1 c = some true ∧
      ((quietWith c).tile 0).launch = 1 ∧ ((quietWith c).core 0).sat = 1 ∧ 0 ∈ c.foot ∧ 0 ≠ cqCore 1) := by
  refine ⟨?_, ?_, ?_, ?_, ?_, ?_⟩ <;> decide +kernel

/-- A record of an invalidation that the management function has read: of a range of 64 KiB, and of kind 3. -/
def invalRecord (kind : Nat) : List Byte := leBytes (64 * kind) 8 ++ leBytes 0x10000 8 ++ leBytes 0x10000 8 ++ leBytes 0 8
def anInval (loaded : Bool) : InvalJob := { addr := 0x40, loaded := loaded, tenant := 0, kind := 0, base := 0x10000, len := 0x10000 }
def invalidating (j : InvalJob) (kind : Nat) : State :=
  { base.modCore invalCore (fun c => { c with rbuf := [(({ policy := 4, home := 0, pa := 0x40 } : Phys).bytesKey 32, invalRecord kind)] }) with
    inval := { base.inval with jobs := [j] } }

theorem witness_InvalidationsAndHostAccesses_invalidations :
    (base.mgmtUp = true ∧ 3 ≤ base.boot.stage ∧ (1#64).getLsbD 0 = true ∧ base.fnTakes 0 none = true ∧ base.fnTakes 1 none = false ∧ base.hostOpen 0 = false ∧ ((base.fn 0).queue 0).en = false ∧ (base.fn 0).tdi = .unlocked) ∧
    (∀ kind ∈ [0, 1, 2, 3], let s := invalidating (anInval false) kind
      s.inval.jobs = [anInval false] ∧ (anInval false).loaded = false ∧ (anInval false).addr % 32 = 0 ∧
        (match s.readPhys invalCore { policy := 4, home := 0, pa := (anInval false).addr % 2 ^ 52 } 32 with | .ok b => b | _ => []) = invalRecord kind ∧
        field (recWord (invalRecord kind) 0) 7 6 = kind ∧ (recWord (invalRecord kind) 1).toNat % 2 ^ 57 = 0x10000 ∧
        (recWord (invalRecord kind) 2).toNat = 0x10000) ∧
    (let s := invalidating (anInval true) 0
     s.inval.jobs = [anInval true] ∧ (anInval true).loaded = true ∧ (anInval true).acked = false ∧ s.underWay 10 (.token (anInval true).token) = false ∧
      s.translatedOpen (anInval true) = false ∧ (anInval true).kind ≤ 2 ∧ ∀ x ∈ [anInval true], x.loaded = true) ∧
    (let j := { anInval true with acked := true, token := 5 }
     let s := invalidating j 0
     let t : State := { s with msgs := [(9000, netMsg { aMsg 7 [] false with ev := .token 5 })] }
     s.inval.jobs = [j] ∧ j.acked = true ∧ s.underWay 7 (.token 5) = false ∧ t.inval.jobs = [j] ∧ t.underWay 7 (.token 5) = true) ∧
    (let s := withOp (invalidating (anInval true) 0) 9000 loadOp
     s.inval.jobs = [anInval true] ∧ s.translatedOpen (anInval true) = true) := by decide +kernel

/-- The result of the host's translations: found, refused, or held by a handler. -/
def hostFinds (s : State) (need : Need) (off : Nat) : Option Bool :=
  match s.hostPlaces (hostCore 0) (s.fn 0).tenant need (linePieces ((s.fn 0).window off) 2 (2 / 64 + 2)) with
  | .ok _ => none | .error b => some b
/-- An `ahnd` handler at the page-table entry of the page at 0x10000. -/
def tableHeld : State :=
  { base with ops := [(9000, { addOp .ahnd with handler := some 0, elems := [{ anElem (.global 0 (sliceOf 0x32008) 0x32008) 8 0 with asked := true }] })] }

/-- The window of function 0 on virtual address 0. -/
theorem witness_InvalidationsAndHostAccesses_window :
    base.fnTakes 0 none = true ∧ base.fnTakes 1 none = false ∧ 0x10100 + [1#8, 2#8].length ≤ 2 ^ 36 ∧ base.hostOpen 0 = false ∧
    base.recovering = false ∧ (∀ need ∈ [Need.store, .load], hostFinds base need 0x10100 = none ∧ hostFinds base need 0 = some false) ∧
    (tableHeld.fnTakes 0 none = true ∧ hostFinds tableHeld .store 0x10100 = some true) ∧
    (match base.engineRead (hostCore 0) (base.fn 0).tenant (linePieces ((base.fn 0).window 0x10100) 2 (2 / 64 + 2)) with | .ok b _ => b | _ => []) =
      [0#8, 0#8] := by decide +kernel

def anEntryOf (n : Nat) : TenantEntry := { placedTenant with col0 := 8 * n, width := 8, function := n }
theorem witness_TenantsAndInterfacesChange :
    (let s := { base with tenants := [(0, anEntryOf 0)] }
     1 < 64 ∧ 3 ≤ s.boot.stage ∧ (∀ c ∈ s.ctxs, c.2.tenant ≠ 1) ∧ s.tenantOpen 1 = true ∧
      s.translatedOpen { addr := 0, loaded := true, tenant := 1, kind := 1, base := 0, len := 0 } = false ∧
      (withOp s 9000 { loadOp with tenant := 1 }).translatedOpen { addr := 0, loaded := true, tenant := 1, kind := 1, base := 0, len := 0 } = true ∧ (anEntryOf 1).valid = true ∧ (anEntryOf 1).col0 + 8 ≤ 32 ∧
      (anEntryOf 1).row0 + 16 ≤ 16 ∧ (anEntryOf 1).root % 32768 = 0 ∧ isComputeFn (anEntryOf 1).function = true ∧
      (s.fn (anEntryOf 1).function).tdi = .unlocked ∧
      (∀ x ∈ s.tenants, x.1 ≠ 1 → x.2.valid = true → x.2.function ≠ (anEntryOf 1).function ∧ meshesMeet x.2 (anEntryOf 1) = false) ∧
      (∃ x ∈ s.tenants, x.1 ≠ 1 ∧ x.2.valid = true ∧ (x.2.function = (anEntryOf 0).function ∨ meshesMeet x.2 (anEntryOf 0) = true))) ∧
    (base.boot.done = true ∧ isComputeFn 0 = true ∧ isComputeFn 79 = true ∧ (base.fn 0).tdi = .unlocked ∧ (base.fn 0).locked = false) ∧
    (∀ tdi ∈ [Tdi.locked, .run], let s := { base with fns := [(0, { base.fn 0 with tdi := tdi, bound := false, ide := some 3, queues := [(0, ringQueue 1 0 4)] })] }
      (s.fn 0).locked = true ∧ (s.fn 0).bound = false ∧ s.fns = [(0, s.fn 0)] ∧ (s.fn 0).ide = some 3 ∧ kget (s.fn 0).queues 0 ≠ none) ∧
    (let x : SpdmSession := { params := { version := (1, 2), caps := [], hash := .sha256, sign := .lmsH20, exchange := .secp384r1, aead := .aes256gcm }, leaf := 0, secret := 0 }
     let s := { base with boot := { base.boot with session := [(0, x)] } }
     (kget s.boot.session 0).isSome = true ∧ 15 < 16) := by decide +kernel

theorem witness_ComputeDieResets :
    (base.boot.done = true ∧ 7 < 8 ∧ (base.die 7).inReset = false ∧ (base.fn 7).locked = false) ∧
    (({ base with dies := [(7, { base.die 7 with inReset := true })] } : State).die 7).inReset = true ∧
    (isComputeFn 16 = true ∧ 16 ≤ 16 ∧ (base.fn 16).bound = false) := by decide +kernel

/-! Links, networks, gangs, the boot and the management, and the whole machine. -/

/-- A packet of a connection with package 1, empty or with a message, and connections. -/
def scalePkt (seq : Nat) (msg : Option Msg) : ScalePacket := { peer := 1, cls := 0, seq := seq, epoch := 0, msg := msg, mem := none, gang := none }
def aSend : Msg := { aMsg 7 [5#64] false with ordered := false }
def plainEvent (m : Msg) : Bool := match m.ev with | .collective _ _ => false | _ => true
def withConn (c : Conn) : State := { base with conns := [(4, c)], time := 3000 }
def sentAt (count : Nat) : Sent := { packet := scalePkt 0 none, count := count, time := 0 }

theorem witness_ScaleUpConnections :
    (∀ msg ∈ [none, some aSend], ∀ seq ∈ [0, 1, 255], let p := scalePkt seq msg
      base.linksUp = true ∧ p.cls < 4 ∧ p.epoch = (base.conn (connKey p.peer p.cls)).epoch ∧ (base.conn (connKey p.peer p.cls)).stash = [] ∧
        (base.resident (base.connDie (connKey p.peer p.cls))).length < 2048 ∧ p.mem = none ∧ p.gang = none ∧ p.cls ≠ 2 ∧
        (seq = 0 → p.seq = (base.conn (connKey p.peer p.cls)).expect ∧ (base.conn (connKey p.peer p.cls)).expect < 65536) ∧
        (seq ≠ 0 → 0 < (p.seq + 65536 - (base.conn (connKey p.peer p.cls)).expect % 65536) % 65536 ∧
          (p.seq + 65536 - (base.conn (connKey p.peer p.cls)).expect % 65536) % 65536 < 256)) ∧
    (aSend.kind = 7 ∧ aSend.dpkg = base.pkg ∧ plainEvent aSend = true) ∧
    { scalePkt 0 none with epoch := 1 }.epoch ≠ (base.conn (connKey 1 0)).epoch ∧
    base.conns = [] ∧ 3 < 4 ∧
    (∀ c ∈ (withConn { Conn.reset with unacked := [sentAt 1] }).conns, c.2.waiting = []) ∧
    (∀ n ∈ [1, 15, 16], ((withConn { Conn.reset with unacked := [sentAt n] }).conn (connKey 1 0)).unacked = [sentAt n] ∧ (sentAt n).packet.seq = 0 ∧
      (sentAt n).time + 2000 ≤ (withConn { Conn.reset with unacked := [sentAt n] }).time ∧ (sentAt n).packet.msg = none ∧
      ((withConn { Conn.reset with unacked := [sentAt n] }).conn (connKey 1 0)).waiting = []) ∧
    (1023 < 1024 ∧ 3 ≤ base.boot.stage ∧ ∀ cls ∈ [0, 1, 2, 3], (base.conn (connKey 1023 cls)).unacked = [] ∧ (base.conn (connKey 1023 cls)).waiting = []) ∧
    base.portsDown.Nodup := by decide +kernel

/-- The block of the example of 14 R401, zero but for words 0, 9 and 31; and one of rising 16-bit elements, on which the two deltas tie. -/
def sparseBlock : List Byte := (List.range 256).map (fun i => if i = 0 then 1#8 else if i = 72 then 2#8 else if i = 248 then 3#8 else 0#8)
def risingBlock : List Byte := (List.range 256).map (fun i => if i % 2 = 0 then BitVec.ofNat 8 (i / 2) else 0#8)
def aWrite : MemPacket :=
  { reply := false, op := 1, elem := 0, write := true, atomic := none, addr := 0, size := 256, data := [], src := { core := 0, pkg := 1, space := 0 },
    tenant := 0, ltag := 1, item := 0#64, fault := 0 }
def brokenPkt : ScalePacket := { scalePkt 0 none with link := some [0x41#8], mem := some aWrite }

theorem test_compression_example :
    encodeBlock sparseBlock = [0x40#8, 1#8, 2#8, 0#8, 0x80#8] ++ [1#8] ++ List.replicate 7 0#8 ++ [2#8] ++ List.replicate 7 0#8 ++ [3#8] ++ List.replicate 7 0#8 ∧
    decodePayload 256 (encodePayload sparseBlock) = some sparseBlock := by
  refine ⟨?_, ?_⟩ <;> decide +kernel

theorem test_compression_tie :
    (encodeBlock risingBlock).head? = some 0x81#8 ∧ (encodeBlock risingBlock).length = 160 ∧ decodePayload 256 (encodePayload risingBlock) = some risingBlock ∧
    offLink brokenPkt = none := by
  refine ⟨?_, ?_, ?_, ?_⟩ <;> decide +kernel

/-- A network context of the tenant, with its table of keys in memory at 0x10000; packets of each kind, and jobs. -/
def aNet : NetContext := { tenant := 0, sluice := 0, ports := 1, endpoints := [{ fabric := 1, job := 1, ctx := 7 }], rlist := 0#64, rlen := 0, keys := 0x10000#64 }
def netted (flags : Nat) : State :=
  { base with netCtxs := [(3, aNet)], dram := memSetN (memSetN (memSetN base.dram 0x40000 8 0x10100) 0x40008 8 64) 0x40010 8 flags, time := 1000000 }
def aPkt (op : Nat) : UePacket :=
  { ctx := 3, peer := 0, epoch := 0, psn := 0, op := op, rod := false, matchBits := 0#64, off := 0, len := 8, data := List.replicate 8 1#8, key := 0, addr := 0x10100#64,
    imm := 0, msgId := 9000 }
def aUeJob (op : Nat) (sentAll : Bool) : UeJob :=
  { core := 0, level := 1, task := (top base).task, item := 0#64, ltag := 1, tenant := 0, ident := 0x30001,
    words := [BitVec.ofNat 64 (op + 3 * 256), 0x10100#64, 8#64, 0x10100#64, 0#64, 0#64, 0#64, 0#64], succ := none, psns := [0], arrived := [], sentAll := sentAll,
    status := none, failAddr := 0#64, after := [] }
def jobbed (j : UeJob) : State := { netted 7 with ueJobs := [(9000, j)], nextId := 10000 }
def seenPair : UePair := { nextPsn := 0, pending := [], cumul := 1, seen := [] }
def pendingPair (n : Nat) : UePair := { nextPsn := 1, pending := [(aPkt 1, n, 0)], cumul := 0, seen := [] }

/-- The context takes a packet; it takes none while its interface is in ERROR; a handler holds its table of keys; its pair has been reset by the other side. -/
def takesPkt (s : State) (p : UePacket) : Bool :=
  decide (kget s.netCtxs p.ctx = some aNet) && !s.ueShut aNet && decide (p.epoch = (s.uePair (uePairKey p.ctx p.peer)).peerEpoch)
def shutNet : State := { netted 7 with fns := [(0, { base.fn 0 with tdi := .error })] }
def keysHeld : State :=
  { netted 7 with ops := [(9000, { addOp .ahnd with handler := some 0, elems := [{ anElem (.global 0 (sliceOf 0x40000) 0x40000) 8 0 with asked := true }] })] }
def metPair : State := { netted 7 with uePairs := [(uePairKey 3 0, { seenPair with peerEpoch := 1 })] }

theorem witness_UltraEthernetMoves_pairs :
    (∀ op ∈ [0, 1], takesPkt (netted 7) (aPkt op) = true ∧ ((netted 7).uePair (uePairKey 3 0)).has 0 = false ∧ (netted 7).ueMsg (aPkt op) = none ∧
      (netted 7).tablesMissing aNet (aPkt op) = none ∧ (netted 7).ueHeld aNet (aPkt op) = false) ∧
    (takesPkt (netted 0) (aPkt 1) = true ∧ (netted 0).ueHeld aNet (aPkt 1) = false) ∧
    (takesPkt keysHeld (aPkt 1) = true ∧ keysHeld.tablesMissing aNet (aPkt 1) = none ∧ keysHeld.ueHeld aNet (aPkt 1) = true) ∧
    (∀ op ∈ [0, 1, 5], kget shutNet.netCtxs (aPkt op).ctx = some aNet ∧ shutNet.ueShut aNet = true ∧
      (aPkt op).epoch ≤ (shutNet.uePair (uePairKey 3 0)).peerEpoch ∧ (aPkt op).epoch < (metPair.uePair (uePairKey 3 0)).peerEpoch) ∧
    (let p := { aPkt 5 with epoch := 1 }
     p.op = 5 ∧ (netted 7).ueShut aNet = false ∧ ((netted 7).uePair (uePairKey p.ctx p.peer)).peerEpoch < p.epoch) ∧
    (takesPkt (netted 0) (aPkt 2) = true ∧ (netted 0).tablesMissing aNet (aPkt 2) = none ∧ (netted 0).ueHeld aNet (aPkt 2) = false ∧
      (netted 0).keyEntry aNet (aPkt 2) false = none ∧ takesPkt (netted 7) (aPkt 2) = true) ∧
    (1 ≠ (metPair.uePair (uePairKey 3 0)).epoch) ∧
    (∀ n ∈ [0, 1], let s := { netted 7 with uePairs := [(uePairKey 3 0, pendingPair n)] }
      let left := (s.uePair (uePairKey 3 0)).pending.filter (fun p => p.1.op == 2 || !psnBefore p.1.psn 0)
      left = [(aPkt 1, n, 0)] ∧ ((∀ p ∈ left, p.2.1 ≠ 0) ↔ n = 1) ∧ ((∀ q ∈ left, q.2.1 = 0) ↔ n = 0)) := by
  refine ⟨?_, ?_, ?_, ?_, ?_, ?_, ?_, ?_⟩ <;> decide +kernel

theorem witness_UltraEthernetMoves :
    (∀ op ∈ [0, 1], let s := { netted 7 with uePairs := [(uePairKey 3 0, seenPair)] }
      (aPkt op).op < 2 ∧ takesPkt s (aPkt op) = true ∧ (s.uePair (uePairKey 3 0)).has (aPkt op).psn = true) ∧
    ((aPkt 1).op = 1 ∧ (aPkt 1).rod = false ∧ kget (netted 0).netCtxs 3 = some aNet ∧ ((netted 0).uePair (uePairKey 3 0)).has 0 = false ∧
      (netted 0).ueMsg (aPkt 1) = none ∧ (netted 0).keyEntry aNet (aPkt 1) true = none ∧ ((netted 7).keyEntry aNet (aPkt 1) true).isSome = true) ∧
    (let s := netted 7
     s.tablesMissing aNet (aPkt 1) = none ∧ s.tablesMissing aNet (aPkt 2) = none ∧ (netted 0).tablesMissing aNet (aPkt 1) = none ∧
      (match s.keyEntry aNet (aPkt 1) true with
       | some m => decide (m.counter = 0#64) && (match s.runStores (ueTargetCore 3) 0 [(m.base + BitVec.ofNat 64 (aPkt 1).off, (aPkt 1).data.take (m.size - (aPkt 1).off))] with
         | (.ok [(q, b)], v) => decide (q.policy < 3) && !v.heldByHandler 0 (.global q.policy q.home q.pa) b.length && decide (q.pa % 64 + b.length ≤ 64) &&
             memWf v.dram && (findLine (v.homeLines q.policy q.home) (q.pa / 64)).isNone && !(v.uePair (uePairKey 3 0)).has 0 && (v.uePair (uePairKey 3 0)).seen.isEmpty
         | _ => false)
       | none => false) = true) ∧
    ((aPkt 0).op = 0 ∧ (netted 7).ueMsg (aPkt 0) = none ∧ (netted 7).tablesMissing aNet (aPkt 0) = none ∧ (netted 7).matchEntry aNet (aPkt 0) = none) ∧
    (({ netted 7 with dram := memSetN (netted 7).dram 0x32008 8 0x4009F } : State).tablesMissing aNet (aPkt 1)).isSome = true ∧
    (let j := aUeJob 1 true
     let s := jobbed j
     kget s.netCtxs 3 = some aNet ∧ s.ueJobs = [(9000, j)] ∧ j.cmd.ctx = (aPkt 3).ctx ∧ j.cmd.endpoint = (aPkt 3).peer ∧ (aPkt 3).psn ∈ j.psns ∧ j.status = none ∧
      (aPkt 3).epoch = (s.uePair (uePairKey 3 0)).epoch ∧ j.core ≠ cqCore j.ltag ∧
      s.parked j.ltag = false ∧ j.sentAll = true ∧ s.ueOrderedBefore 9000 j = false ∧ s.storesOpen 9000 = false ∧ j.succ = none ∧ j.cmd.count = false ∧
      (s.frameOf j.core j.task).isSome = true ∧ (s.uePair (uePairKey j.cmd.ctx j.cmd.endpoint)).pending = []) ∧
    (((netted 7).keyEntry aNet (aPkt 2) false).map (fun m =>
        match (netted 7).engineReadV (ueTargetCore 3) aNet.tenant m.base (aPkt 2).len with
        | .ok b v => decide (kget v.netCtxs 3 = some aNet) && decide (b.length = (aPkt 2).len)
        | _ => false) = some true ∧ (aPkt 2).len ≤ 4096) ∧
    (let j := aUeJob 2 true
     let s := jobbed j
     s.ueJobs = [(9000, j)] ∧ j.cmd.ctx = (aPkt 2).ctx ∧ j.cmd.endpoint = (aPkt 2).peer ∧ j.cmd.op = 2 ∧ 0 ∈ j.psns ∧ j.status = none ∧
      (aPkt 2).epoch = (s.uePair (uePairKey 3 0)).epoch ∧
      (let r := s.runStores (ueCore 9000) j.tenant [(j.cmd.src + BitVec.ofNat 64 (aPkt 2).off, (aPkt 2).data)]
       isOk r = true ∧ r.2.ueJobs = s.ueJobs)) ∧
    (∀ n ∈ [1, 31, 32], let s := { netted 7 with uePairs := [(uePairKey 3 0, pendingPair n)] }
      (s.uePair (uePairKey 3 0)).pending = [(aPkt 1, n, 0)] ∧ (aPkt 1).psn = 0 ∧ 0 + s.policy.ueTimeout ≤ s.time ∧ n ≠ 0 ∧ (n < 32 ∨ 32 ≤ n ∧ (aUeJob 1 true).cmd.ctx = 3 ∧
        (aUeJob 1 true).cmd.endpoint = 0 ∧ (aUeJob 1 true).sentAll = true ∧ (aUeJob 1 true).status = none ∧ 0 ∈ (aUeJob 1 true).psns)) ∧
    (let j := { aUeJob 1 true with status := some 3 }
     let s := jobbed j
     s.parked j.ltag = false ∧ j.sentAll = true ∧ s.ueOrderedBefore 9000 j = false ∧ s.storesOpen 9000 = false ∧ (s.frameOf j.core j.task).isSome = true) ∧
    (255 < 256 ∧ (netted 7).tenantOpen aNet.tenant = true ∧ (kget (netted 7).netCtxs 255).isNone = true ∧
      ∀ y, kget (netted 7).netCtxs 3 = some y → (netted 7).tenantOpen y.tenant = true) ∧
    ({ base with fns := [(0, { base.fn 0 with tdi := .run })] } : State).tenantOpen aNet.tenant = false := by
  refine ⟨?_, ?_, ?_, ?_, ?_, ?_, ?_, ?_, ?_, ?_, ⟨?_, ?_, ?_, ?_⟩, ?_⟩
  case refine_14 => intro y h; cases h; decide +kernel
  all_goals decide +kernel

/-- A planned switch at time T of gang 2, of two packages; the launch in it at rest, under way, halted, and withdrawn. -/
def aGang (pkgs : List Nat) (ready : List (Nat × Nat)) (go : List Nat) : Gang :=
  { Gang.reset with planned := some 20000, pkgs := pkgs, ready := ready, go := go, outgoing := [1] }
def ganged (g : Gang) : State := { base with gangs := [(2, g)] }
def quietWith1 (c : Context) (s : State) : State := { s with ctxs := [(1, c)] }
def savedOf (k : Nat) : Saved :=
  { cores := [(k, base.core 0)], tiles := [], recs := [], ranges := [], barriers := [], held := [], window := [], wheel := [], cycle := 0 }
def savedCtx (k : Nat) : Context := { placedContext with state := .trapped, saved := some (savedOf k) }
def yielding : Context := { placedContext with words := placedWords.set 0 (placedWords.getD 0 0#64 ||| 0x80000#64) }
/-- A launch that waits for the tiles of another. -/
def rival : State := { base with gangs := [(2, { aGang [0] [] [20000] with incoming := [5], outgoing := [] })],
                                 ctxs := base.ctxs ++ [(5, { placedContext with state := .out })] }

theorem witness_GangsAgree :
    ((base.gang 2).stopped = false ∧ base.boot.done = true ∧ [1, 2].foldl min 1024 ≠ base.pkg ∧ [0, 2].foldl min 1024 = base.pkg ∧
      base.time + 10000 ≤ 20000 ∧ 9999 < base.time + 10000 ∧ ∀ c ∈ base.ctxs, c.2.urgent = false) ∧
    (∀ ready ∈ [[], [(5, 20000)]], let s := ganged (aGang [0, 5] ready [])
      let g := s.gang 2
      g.pkgs.foldl min 1024 = s.pkg ∧ ¬ (0, 20000) ∈ g.ready ∧ g.planned = some 20000 ∧ ¬ 20000 ∈ g.go ∧ s.time + 5000 ≤ 20000 ∧ s.time + 1000 ≤ 20000 ∧
        (g.pkgs.all (fun q => q == 0 || g.ready.contains (q, 20000)) = decide (ready ≠ []))) ∧
    (20000 < ({ ganged (aGang [0] [] []) with time := 19500 } : State).time + 1000) := by
  refine ⟨?_, ?_, ?_⟩ <;> decide +kernel

theorem witness_GangsSwitch :
    (∀ ops ∈ [[], [((9000 : Nat), anOp .load (.scalar 1 8) 0x40000)]],
      let s := { ganged (aGang [0] [] []) with time := 20000, ops := ops }
      let g := s.gang 2
      g.planned = some 20000 ∧ 20000 ≤ s.time ∧ g.stopped = false ∧ (∀ p ∈ g.pkgs, p = s.pkg) ∧ g.incoming = [] ∧ g.outgoing = [1] ∧
        g.reservedFor = [] ∧ s.ctx 1 = some placedContext ∧ placedContext.state = .running ∧ placedContext.saved = none ∧ s.flits = [] ∧
        s.quieted 1 placedContext = ops.isEmpty) ∧
    (∀ n ∈ [0, 7], let s := { ganged { aGang [0, 5] [] [] with failures := n } with time := 20000 }
      (s.gang 2).planned = some 20000 ∧ 20000 ≤ s.time ∧ (s.gang 2).stopped = false ∧ ¬ 20000 ∈ (s.gang 2).go ∧ 5 ∈ (s.gang 2).pkgs ∧ 5 ≠ s.pkg) ∧
    (let s := { rival with time := 20000 }
     (s.gang 2).planned = some 20000 ∧ 20000 ≤ s.time ∧ (s.gang 2).stopped = false ∧ 20000 ∈ (s.gang 2).go ∧ s.placeableGang (s.gang 2) = false ∧
      (s.gang 2).placeFailures + 1 < s.policy.reserveAfter) ∧
    (let s := { rival with time := 20000, gangs := [(2, { rival.gang 2 with placeFailures := 63 })] }
     s.placeableGang (s.gang 2) = false ∧ s.policy.reserveAfter ≤ (s.gang 2).placeFailures + 1) := by
  refine ⟨?_, ?_, ?_, ?_⟩ <;> decide +kernel

theorem witness_HaltedContextsAreSavedAndGoOn :
    (∀ ops ∈ [[], [((9000 : Nat), anOp .load (.scalar 1 8) 0x40000)]], let s := { base with ops := ops }
      s.ctx 1 = some placedContext ∧ placedContext.state = .running ∧ placedContext.saved = none ∧ s.flits = [] ∧
        s.quieted 1 placedContext = ops.isEmpty) ∧
    (∀ k ∈ [8, 4096], let s := quietWith1 (savedCtx k) base
      s.ctx 1 = some (savedCtx k) ∧ (savedCtx k).state = .trapped ∧ (savedCtx k).saved = some (savedOf k) ∧ (savedCtx k).leat = [] ∧
        (savedOf k).tiles = [] ∧ s.restorable (savedOf k) = true ∧ isCompute k = decide (k = 8) ∧ (base.core 0).frames = [top base]) ∧
    (let s := (quietWith yielding).modTile 0 (fun t => { t with reserved := true })
     s.ctx (s.tile 0).launch = some yielding ∧ (s.tile 0).reserved = true ∧ yielding.recBits 0 19 19 = 1 ∧ yielding.state = .running ∧
      s.gangs = [] ∧ s.tileBare yielding 0 = true) := by
  refine ⟨?_, ?_, ?_⟩ <;> decide +kernel

/-- Images: with a wrong magic number, and one that is taken wherever its key is the fused one, is not revoked, and verifies its signature. -/
def badImage : BootImage := { magic := 0, keySlot := 0, secver := 0, raise := false, pubKey := [], body := [], sig := [] }
def goodImage (pubKey sig : List Byte) : BootImage := { badImage with magic := 0x50524D52, secver := 3, raise := true, pubKey := pubKey, sig := sig }

theorem image_taken (key sig : List Byte) (hk : key.length = 56) (hs : sig.length = 1612) (fused : sha256 key = Config.fusedKeyHash 0)
    (valid : Config.keySlotRevoked 0 = false) (signed : lmsVerify key (headerOf (goodImage key sig) ++ []) sig = true) :
    imageError 3 (some (goodImage key sig)) = 0 := by
  simp [imageError, goodImage, badImage] at signed ⊢
  simp [hk, hs, fused, valid, signed]

theorem witness_BootAndIdentity :
    (State.reset.boot.stage = 0 ∧ imageError 0 none ≠ 0 ∧ imageError 0 (some badImage) ≠ 0) ∧
    (let s := { State.reset with boot := { State.reset.boot with stage := 1, err := 1, dramOk := true, linkOk := true } }
     s.boot.stage = 1 ∧ s.boot.err ≠ 0 ∧ (∃ i, imageIn s.boot.window = some i ∧ imageError s.boot.fused (some i) ≠ 0) ∧ 2 + 3 ≤ 2 ^ 25 ∧ s.boot.dramOk = true ∧ s.boot.linkOk = true ∧ (1#64).getLsbD 0 = true ∧ (2#64).getLsbD 0 = false) ∧
    (∀ fn ∈ [0, 7, 8], base.spdmUp fn = true ∧ base.boot.spent = false ∧ base.boot.leaf < 2 ^ 20 ∧
      (base.boot.signs.filter (fun t => decide (base.time < t + 3600000000000))).length < base.policy.signRate) ∧
    (let s := { base with boot := { base.boot with leaf := 2 ^ 20, spent := true } }
     s.spdmUp 8 = true ∧ s.boot.spent = true ∧ 2 ^ 20 ≤ s.boot.leaf) ∧
    (let s := { base with boot := { base.boot with signs := List.replicate 24 0 } }
     s.spdmUp 8 = true ∧ s.boot.spent = false ∧ s.boot.leaf < 2 ^ 20 ∧
      s.policy.signRate ≤ (s.boot.signs.filter (fun t => decide (s.time < t + 3600000000000))).length) := by decide +kernel

theorem witness_PowerRegistersErrorsAndPolicies :
    (base.boot.done = true ∧ (∀ d ∈ List.range 8, (base.die d).temp < 110)) ∧
    ((List.replicate 8 60).length = 8 ∧ (List.replicate 12 60).length = 12 ∧ (List.replicate 2 60).length = 2 ∧ ∀ x ∈ List.replicate 8 60, x < 110) ∧
    base.mgmtUp = true ∧
    (4 ≤ base.boot.stage ∧ findLine (kgetD base.slices (sliceOf (64 * 0x1000)) []) 0x1000 = none) ∧
    (findLine (kgetD (kset base.slices (sliceOf 0x40100) [lineAt 0x40100]) (sliceOf (64 * 0x1004)) []) 0x1004).isSome = true ∧ 11 < 12 := by decide +kernel

/-- A soft error that the running frame reads discards it and reports its item; one that ECC corrects is counted (15 R423). -/
theorem test_soft_error :
    ((base.softError (.frame 0)).core 0).frames = [] ∧ kgetD (base.softError (.frame 0)).boot.counters 0x0410 0 = 1 ∧
    ((kget (base.softError (.frame 0)).ctxs 1).map (·.failures)) = some 1 ∧ kgetD (base.softError (.corrected none)).boot.counters 0x0408 0 = 1 := by
  refine ⟨?_, ?_, ?_, ?_⟩ <;> decide +kernel

/-- A full bundle, of five words; its core, which has fetched the line, after a turn, and at an odd address, and on a reserved encoding. -/
def fullBundle : Bundle := { w3 with imx := [1#10, 2#10], qlx := some offK, pgx := false }
def turn (g : Frame → Frame) (code : List Nat) : State :=
  let s := (stand g).modCore 0 (fun c => { c with icache := [(({ policy := 0, home := sliceOf 0x40000, pa := 0x40000 } : Phys).lineKey,
    (List.replicate 16 0#8 ++ code.flatMap (fun w => leBytes w 2) ++ List.replicate 64 0#8).take 64)] })
  { s with sched := [.issue 0] }
def fetched (s : State) : Fetched × State := State.fetchBundle { s with sched := [], cur := 0 } 0 (s.tenantOf 1) 0x10010 [] 5

theorem witness_DecodingUndoesEncoding :
    Instr.code? (.li fullBundle) = some (.li, fullBundle) ∧ fullBundle.chainOk .li = true ∧ fullBundle.chainLength = 4 ∧
    (match decode (encode (.li fullBundle)) with | .instr i n => decide (i = .li fullBundle) && n == 5 | _ => false) = true := by decide +kernel

theorem witness_StepRunsTheDecodedInstruction :
    (∀ code ∈ [[0x2041], [0xF021]], ∀ pc ∈ [0x10010, 0x10011], let s := turn (fun f => { f with pc := pc }) code
      let v := { s with sched := [], cur := 0 }
      s.sched = [.issue 0] ∧ v.running = some (top v) ∧ v.cur = 0 ∧ (top v).mig = none ∧ (v.core 0).candidate = none ∧ v.stilled 0 = false ∧
        v.raiseDue 0 = none ∧ (v.tile (tileOf 0)).reserved = false ∧ (v.core 0).follow = .free ∧ (top v).pc = pc) ∧
    (let r := fetched (turn id [0x2041])
     (match r.1 with | .instr _ n => n == 1 | _ => false) = true ∧ (r.2.core 0).follow = .free) ∧
    (match (fetched (turn id [0xF021, 0xF021, 0xF021, 0xF021, 0xF021])).1 with | .bad _ => true | _ => false) = true ∧
    (match ((turn id [0x2041]).fetch16 0 0 0x10010#64).1 with | .ok b => decide (decode [BitVec.ofNat 16 (leValue b)] ≠ .more) | _ => false) = true ∧
    (match ((turn id [0xF021]).fetch16 0 0 0x10010#64).1 with | .ok b => decide (decode [BitVec.ofNat 16 (leValue b)] = .more) | _ => false) = true := by
  decide +kernel

theorem witness_EveryStepKeepsMemoryAndTenants : memWf base.dram = true ∧ base.tenants.length = 1 := by decide +kernel

theorem witness_ScalarBundlesChangeNothingElse :
    (∀ row ∈ scalarOps, goes base row.2 w2 = true ∨ goes base row.2 (wj 1#5 1#5) = true ∨ goes base row.2 (wj 1#5 0#5) = true) ∧
    (∀ op ∈ [Op.b, .bz, .bnz, .beq, .bne, .blt, .bge, .bltn, .call, .loop], goes base op w2 = true) ∧ goes base .ret (wj 0#5 0#5) = true ∧
    goes base .jr (wj 1#5 0#5) = true := by decide +kernel

theorem witness_EveryStepAnswersANextState : base.running.isSome = true ∧ base.sched = [] := by decide +kernel

/-! Ill-formed terms, one for each check of well-formedness, are refused. -/

theorem test_wf_refuses :
    (Instr.li { fullBundle with imx := [1#10, 2#10, 3#10] }).wf = false ∧ (Instr.sub { w2 with pgx := false }).wf = true ∧
    (Instr.getc { w2 with imx := [1#10] }).wf = false ∧ (Instr.sext (wj 1#5 0#5)).wf = false ∧ (Instr.ret (wj 1#5 0#5)).wf = false ∧
    (Instr.holdStoreEntry 512).wf = false ∧ (Instr.vectorBundleCompletion 0 8).wf = false ∧ (Instr.matrixJobStart 0 8).wf = false ∧
    (Instr.matrixJobCompletion 0 8).wf = false ∧ (Instr.matrixUnit 512).wf = false ∧ (Instr.timerExpiry 0 8).wf = false ∧
    (Instr.governorPlacement 8).wf = false ∧ (Instr.governorForward 8 0).wf = false ∧ (Instr.rangeRetire 8 0).wf = false ∧
    (Instr.stealRequest 0 8).wf = false ∧ (Instr.stealAnswer 8 0).wf = false ∧ (Instr.dieReset 8).wf = false ∧ (Instr.dieReady 8).wf = false ∧
    (Instr.bedstoneDieReset 12).wf = false ∧ (Instr.tileWithdrawal 512).wf = false ∧ (Instr.tenantTableWrite 64 placedTenant).wf = false ∧
    (Instr.networkContextWrite 256 none).wf = false ∧ (Instr.routeTableWrite 1024 0).wf = false ∧ (Instr.launchDoorbell ⟨0, none⟩ 16 0).wf = false ∧
    (Instr.ringEntryTake 0 16).wf = false ∧ (Instr.queueOverClear ⟨0, none⟩ 16).wf = false ∧ (Instr.queueFaultClear ⟨0, none⟩ 16).wf = false := by decide +kernel

/-! Decoding: the words of the spec's opcode table (op6 in bits 15 to 10, a in 9 to 5, b in 4 to 0; R77), with a = 1 and b = 2, behind the PGX
word of their page (R78, 0xF800 and the page); and words that are no instruction (R79, R88). -/

theorem test_decode_page0 : ∀ p ∈ ([(0x0022#16, Instr.add), (0x0422#16, Instr.sub), (0x0822#16, Instr.and), (0x0C22#16, Instr.or), (0x1022#16, Instr.xor), (0x1422#16, Instr.andn),
     (0x1822#16, Instr.shl), (0x1C22#16, Instr.shr), (0x2022#16, Instr.sar), (0x2422#16, Instr.mul), (0x2822#16, Instr.mulh), (0x2C22#16, Instr.div),
     (0x3022#16, Instr.rem), (0x3422#16, Instr.min), (0x3822#16, Instr.max), (0x3C22#16, Instr.mov), (0x4022#16, Instr.li), (0x4422#16, Instr.lih),
     (0x4822#16, Instr.addi), (0x4C22#16, Instr.cmpeq), (0x5022#16, Instr.cmpne), (0x5422#16, Instr.cmplt), (0x5822#16, Instr.cmpltn), (0x5C22#16, Instr.cmple),
     (0x6022#16, Instr.sel), (0x6422#16, Instr.lea), (0x6822#16, Instr.clz), (0x6C22#16, Instr.popc), (0x7022#16, Instr.sext), (0x7422#16, Instr.zext),
     (0x7822#16, Instr.b), (0x7C22#16, Instr.bz), (0x8022#16, Instr.bnz), (0x8422#16, Instr.beq), (0x8822#16, Instr.bne), (0x8C22#16, Instr.blt),
     (0x9022#16, Instr.bge), (0x9422#16, Instr.bltn), (0x9822#16, Instr.call), (0x9C22#16, Instr.ret), (0xA022#16, Instr.jr), (0xA422#16, Instr.loop),
     (0xA822#16, Instr.ld), (0xAC22#16, Instr.st), (0xB022#16, Instr.ldf), (0xB422#16, Instr.stf), (0xB822#16, Instr.lsp), (0xBC22#16, Instr.ssp),
     (0xC022#16, Instr.vadd), (0xC422#16, Instr.vmul), (0xC822#16, Instr.vfma), (0xCC22#16, Instr.vld), (0xD022#16, Instr.vst), (0xD422#16, Instr.vbcast),
     (0xD822#16, Instr.lead), (0xDC22#16, Instr.follow), (0xE022#16, Instr.detach), (0xE422#16, Instr.wait), (0xE822#16, Instr.claim), (0xEC22#16, Instr.release)] : List (IWord × (Bundle → Instr))),
    decode [p.1] = .instr (p.2 w2) 1 := by decide +kernel

theorem test_decode_page1 : ∀ p ∈ ([(0x0022#16, Instr.vaddP1), (0x0422#16, Instr.vsub), (0x0822#16, Instr.vmulP1), (0x0C22#16, Instr.vfmaP1), (0x1022#16, Instr.vfms), (0x1422#16, Instr.vfnma),
     (0x1822#16, Instr.vmin), (0x1C22#16, Instr.vmax), (0x2022#16, Instr.vabs), (0x2422#16, Instr.vneg), (0x2822#16, Instr.vdiv), (0x2C22#16, Instr.vsqrt),
     (0x3022#16, Instr.vrcp), (0x3422#16, Instr.vrsq), (0x3822#16, Instr.vexp2), (0x3C22#16, Instr.vlog2), (0x4022#16, Instr.vtanh), (0x4422#16, Instr.viadd),
     (0x4822#16, Instr.visub), (0x4C22#16, Instr.vimul), (0x5022#16, Instr.vimad), (0x5422#16, Instr.vand), (0x5822#16, Instr.vor), (0x5C22#16, Instr.vxor),
     (0x6022#16, Instr.vshl), (0x6422#16, Instr.vshr), (0x6822#16, Instr.vsar), (0x6C22#16, Instr.vcmp), (0x7022#16, Instr.vsel)] : List (IWord × (Bundle → Instr))),
    decode [0xF801#16, p.1] = .instr (p.2 { w2 with pgx := true }) 2 := by decide +kernel

theorem test_decode_page2 : ∀ p ∈ ([(0x0022#16, Instr.vcvt), (0x0422#16, Instr.vqnt), (0x0822#16, Instr.vdqnt), (0x0C22#16, Instr.vbpn), (0x1022#16, Instr.vbpj), (0x1422#16, Instr.vext),
     (0x1822#16, Instr.vins), (0x1C22#16, Instr.vperm), (0x2022#16, Instr.vslide), (0x2422#16, Instr.vzip), (0x2822#16, Instr.vunzip), (0x2C22#16, Instr.vredsum),
     (0x3022#16, Instr.vredmax), (0x3422#16, Instr.vredmin), (0x3822#16, Instr.vscan), (0x3C22#16, Instr.vchadd), (0x4022#16, Instr.vchmax), (0x4422#16, Instr.vchst),
     (0x4822#16, Instr.kand), (0x4C22#16, Instr.kor), (0x5022#16, Instr.kxor), (0x5422#16, Instr.knot), (0x5822#16, Instr.kpopc), (0x5C22#16, Instr.kmov),
     (0x6022#16, Instr.kffs), (0x6422#16, Instr.mulhn), (0x6822#16, Instr.divn), (0x6C22#16, Instr.remn), (0x7022#16, Instr.minn), (0x7422#16, Instr.maxn),
     (0x7822#16, Instr.ctz), (0x7C22#16, Instr.rol), (0x8022#16, Instr.bgen), (0x8422#16, Instr.cmplen)] : List (IWord × (Bundle → Instr))),
    decode [0xF802#16, p.1] = .instr (p.2 { w2 with pgx := true }) 2 := by decide +kernel

theorem test_decode_page3 : ∀ p ∈ ([(0x0022#16, Instr.mstat), (0x0422#16, Instr.mswap), (0x0822#16, Instr.mstream), (0x0C22#16, Instr.mstreamt), (0x1022#16, Instr.mf64), (0x1422#16, Instr.mbpn4),
     (0x1822#16, Instr.mbpn8), (0x1C22#16, Instr.mzero), (0x2022#16, Instr.mrd), (0x2422#16, Instr.mwr), (0x2822#16, Instr.macs), (0x2C22#16, Instr.msac),
     (0x3022#16, Instr.mtest), (0x3422#16, Instr.rtab), (0x3822#16, Instr.rank), (0x3C22#16, Instr.rankch), (0x4022#16, Instr.rstream), (0x4422#16, Instr.rstreamch),
     (0x4822#16, Instr.rrecon)] : List (IWord × (Bundle → Instr))),
    decode [0xF803#16, p.1] = .instr (p.2 { w2 with pgx := true }) 2 := by decide +kernel

theorem test_decode_page4 : ∀ p ∈ ([(0x0022#16, Instr.ldsx), (0x0422#16, Instr.aadd), (0x0822#16, Instr.amin), (0x0C22#16, Instr.amax), (0x1022#16, Instr.aminn), (0x1422#16, Instr.amaxn),
     (0x1822#16, Instr.aand), (0x1C22#16, Instr.aor), (0x2022#16, Instr.axor), (0x2422#16, Instr.aswp), (0x2822#16, Instr.acas), (0x2C22#16, Instr.afadd),
     (0x3022#16, Instr.ahnd), (0x3822#16, Instr.fence), (0x3C22#16, Instr.spawn), (0x4022#16, Instr.succ), (0x4422#16, Instr.relev), (0x4822#16, Instr.endTask),
     (0x4C22#16, Instr.getid), (0x5022#16, Instr.tmr), (0x5422#16, Instr.migr), (0x5822#16, Instr.send), (0x5C22#16, Instr.reply), (0x6022#16, Instr.cmask),
     (0x6422#16, Instr.cunmask), (0x6822#16, Instr.chbind), (0x7022#16, Instr.arrive), (0x7422#16, Instr.bwait), (0x7822#16, Instr.cpy), (0x7C22#16, Instr.cpyx),
     (0x8022#16, Instr.cpytst), (0x8422#16, Instr.lxload), (0x8822#16, Instr.coll), (0x8C22#16, Instr.uepost), (0x9022#16, Instr.uepop), (0x9422#16, Instr.ctrw),
     (0x9822#16, Instr.vlds), (0x9C22#16, Instr.vsts), (0xA022#16, Instr.vgather), (0xA422#16, Instr.baddq), (0xA822#16, Instr.vscatter)] : List (IWord × (Bundle → Instr))),
    decode [0xF804#16, p.1] = .instr (p.2 { w2 with pgx := true }) 2 := by decide +kernel

theorem test_decode_page5 : ∀ p ∈ ([(0x0022#16, Instr.trap), (0x0422#16, Instr.eret), (0x0822#16, Instr.getc), (0x0C22#16, Instr.setc), (0x1022#16, Instr.rdtime), (0x1422#16, Instr.fencei),
     (0x1822#16, Instr.brk), (0x1C22#16, Instr.idle)] : List (IWord × (Bundle → Instr))),
    decode [0xF805#16, p.1] = .instr (p.2 { w2 with pgx := true }) 2 := by decide +kernel

theorem test_decode_rejects :
    decode [0xF001#16, 0xF001#16, 0xF001#16, 0xF001#16, 0xF001#16] = .bad .fiveChainWords 5 ∧ decode [0xF400#16, 0xF400#16, 0x0022#16] = .bad .secondRgx 3 ∧
    decode [0xF801#16, 0xF801#16, 0x0022#16] = .bad .secondPgx 3 ∧ decode [0xFC00#16, 0xFC00#16, 0x0022#16] = .bad .secondQlx 3 ∧
    decode [0xF806#16, 0x0022#16] = .bad .undefinedPage 2 ∧ decode [0xF001#16] = .more := by decide +kernel

end Sys2Proof.Tests
end

section
/-! Registers and control registers of a core (01 R19, R20, R32 to R42; 04 R128). -/

namespace Sys2Proof.Machine

open Sys2Proof.Claims

/-! Reads of a frame's registers after a write. -/

@[simp] theorem kGet_xSet (f : Frame) (n m : Nat) (v : Word) : (f.xSet n v).kGet m = f.kGet m := by simp only [Frame.kGet, xSet_k]
@[simp] theorem vGet_xSet (f : Frame) (n m : Nat) (v : Word) : (f.xSet n v).vGet m = f.vGet m := by simp only [Frame.vGet, xSet_v]
@[simp] theorem xGet_kSet (f : Frame) (n m : Nat) (v : Word) : (f.kSet n v).xGet m = f.xGet m := by simp only [Frame.xGet, kSet_x]
@[simp] theorem vGet_kSet (f : Frame) (n m : Nat) (v : Word) : (f.kSet n v).vGet m = f.vGet m := by simp only [Frame.vGet, kSet_v]
@[simp] theorem xGet_vSet (f : Frame) (n m : Nat) (u : VReg) : (f.vSet n u).xGet m = f.xGet m := rfl
@[simp] theorem kGet_vSet (f : Frame) (n m : Nat) (u : VReg) : (f.vSet n u).kGet m = f.kGet m := rfl

theorem xGet_xSet (f : Frame) (n m : Nat) (v : Word) : (f.xSet n v).xGet m = if m = n ∧ n ≠ 0 then v else f.xGet m := by
  by_cases hn : n = 0
  · rw [hn, xSet_zero, if_neg (fun both => both.2 rfl)]
  · by_cases hm : m = n
    · rw [hm, xGet_xSet_same f v hn, if_pos ⟨rfl, hn⟩]
    · rw [xGet_xSet_other f v hm, if_neg (fun both => hm both.1)]

theorem kGet_kSet (f : Frame) (n m : Nat) (v : Word) : (f.kSet n v).kGet m = if m = n ∧ n ≠ 0 then v else f.kGet m := by
  by_cases hn : n = 0
  · rw [hn, kSet_zero, if_neg (fun both => both.2 rfl)]
  · by_cases hm : m = n
    · rw [hm, kGet_kSet_same f v hn, if_pos ⟨rfl, hn⟩]
    · rw [kGet_kSet_other f v hm, if_neg (fun both => hm both.1)]

theorem vGet_vSet (f : Frame) (n m : Nat) (u : VReg) : (f.vSet n u).vGet m = if m = n then u else f.vGet m := by
  split
  case isTrue h => rw [h, vGet_vSet_same]
  case isFalse h => exact vGet_vSet_other f u h

/-! A ready bundle that completes: the state after it in terms of the running frame. -/

section
variable {s : State} {op : Op} {w : Bundle} {f : Frame} (h : s.running = some f)
include h

theorem modTop_advance_ready (g : Frame → Frame) :
    (s.modTop s.cur g).advance (readyCtx s op w f) = s.withRunning { g f with pc := nextPc f w } :=
  modTop_goTo h _ g

theorem writeX_ready (n : Nat) (v : Word) : s.writeX (readyCtx s op w f) n v = s.withResult f w n v :=
  modTop_advance_ready h (fun g => g.xSet n v)

theorem advance_ready : s.advance (readyCtx s op w f) = s.pastBundle f w := goTo_running h _

/-- A change of the core's own registers keeps its stack of frames. -/
theorem modCore_advance_ready (g : Core → Core) (keep : ∀ c, (g c).frames = c.frames) :
    (s.modCore s.cur g).advance (readyCtx s op w f) = s.withRunningCore g { f with pc := nextPc f w } := by
  have frames := running_frames h
  simp only [State.advance, State.goTo, State.modCore, State.setCore, State.core, kgetD_kset_same, kset_kset_same,
    State.withRunningCore, readyCtx, keep] at *
  rw [frames]
  rfl

end

/-! The bits of a control register (R35 to R38). -/

theorem lowBits_eq_and (v : Word) (n : Nat) : lowBits v n = v &&& BitVec.ofNat 64 (2 ^ n - 1) := by
  apply BitVec.eq_of_getLsbD_eq
  intro i hi
  simp only [lowBits, BitVec.getLsbD_ofNat, BitVec.getLsbD_and, Nat.testBit_mod_two_pow, Nat.testBit_two_pow_sub_one,
    BitVec.testBit_toNat, hi, decide_true, Bool.true_and, Bool.and_comm]

/-- The mask is 15 in bits 23:20 above bits 18:0 (R36). -/
theorem sclBits_eq_and (v : Word) : sclBits v = v &&& 0xF7FFFF#64 := by
  have mask : 0xF7FFFF = 2 ^ 20 * (2 ^ 4 - 1) + (2 ^ 19 - 1) := rfl
  have low : v.toNat % 2 ^ 19 < 2 ^ 20 := by omega
  apply BitVec.eq_of_getLsbD_eq
  intro i hi
  rw [sclBits, field, bitsOf, Nat.add_comm, Nat.mul_comm, mask, BitVec.getLsbD_and, BitVec.getLsbD_ofNat, BitVec.getLsbD_ofNat,
    Nat.testBit_two_pow_mul_add _ low, Nat.testBit_two_pow_mul_add _ (by decide)]
  split
  case isTrue below =>
    rw [Nat.testBit_mod_two_pow, Nat.testBit_two_pow_sub_one, BitVec.testBit_toNat]
    simp [hi, Bool.and_comm]
  case isFalse above =>
    have place : 20 + (i - 20) = i := by omega
    rw [Nat.testBit_mod_two_pow, Nat.testBit_two_pow_sub_one, Nat.testBit_shiftRight, BitVec.testBit_toNat, place]
    simp [hi, Bool.and_comm]

/-! The control registers by number (R32). -/

/-- A compute core reads its launch's tag from `sat`, any other core from its frame. -/
theorem control_sat (s : State) (f : Frame) :
    s.control s.cur f 0x15 = BitVec.ofNat 64 (if s.cur < 4096 then (s.core s.cur).sat else f.ltag) := by
  simp only [State.control, isCompute, decide_eq_true_eq]

theorem control_prof (s : State) (f : Frame) :
    s.control s.cur f 0x1F = match profileOf s.cur with | .F => 0#64 | .L => 1#64 | .K => 2#64 | .G => 3#64 := by
  simp only [State.control]
  cases profileOf s.cur <;> rfl

theorem control_cpent (s : State) (f : Frame) :
    s.control s.cur f 0x2D =
      match (s.core s.cur).cpring[(s.core s.cur).cpsel]? with | some e => BitVec.ofNat 64 e.pc | none => 0#64 := by
  simp only [State.control]
  cases (s.core s.cur).cpring[(s.core s.cur).cpsel]? <;> rfl

theorem control_cpinf (s : State) (f : Frame) :
    s.control s.cur f 0x2E = match (s.core s.cur).cpring[(s.core s.cur).cpsel]? with
      | some e => BitVec.ofNat 64 (e.seq + e.lvl * 2 ^ 16 + 2 ^ 19 + e.done.toNat * 2 ^ 20 + e.flt.toNat * 2 ^ 21)
      | none => 0#64 := by
  simp only [State.control]
  cases (s.core s.cur).cpring[(s.core s.cur).cpsel]? with
  | none => rfl
  | some e =>
    have bit (b : Bool) (k : Nat) : b.toNat * k = if b then k else 0 := by cases b <;> simp
    simp [cpInfo, bit]

theorem control_channel (s : State) (f : Frame) {n : Nat} (low : 0x20 ≤ n) (high : n < 0x28) :
    s.control s.cur f n = (s.core s.cur).chanWord (n - 0x20) := by
  unfold State.control
  split
  case h_32 => exact if_neg (by omega)
  all_goals omega

theorem control_ceiling (s : State) (f : Frame) {n : Nat} (low : 0x40 ≤ n) :
    s.control s.cur f n = BitVec.ofNat 64 ((s.core s.cur).ceil.getD (n - 0x40) 0) := by
  unfold State.control
  split
  case h_32 => exact if_pos low
  all_goals omega

/-- What `getc` reads of a listed register. -/
theorem control_of_row (s : State) (f : Frame) : ∀ row ∈ controlValues s f, s.control s.cur f row.1 = row.2 := by
  simp only [controlValues, List.mem_append, List.mem_map, List.mem_range]
  rintro row ((named | ⟨n, hn, rfl⟩) | ⟨r, hr, rfl⟩)
  · revert named row
    simp only [List.forall_mem_cons]
    -- The rows up to `cpsel` name the field that `control` reads.
    repeat refine ⟨rfl, ?_⟩
    exact ⟨control_sat s f, control_prof s f, control_cpent s f, control_cpinf s f, nofun⟩
  · rw [control_channel s f (by omega) (by omega), Nat.add_sub_cancel_left]
    rfl
  · rw [control_ceiling s f (by omega), Nat.add_sub_cancel_left]

/-- What `setc` changes of a level, with the masks in place of the fields. -/
theorem setControl_of_row (s : State) (k : Nat) (v : Word) :
    ∀ row ∈ controlWrites v, s.setControl k row.1 v = s.modTop k (fun f => f.modLv row.2) := by
  simp [controlWrites, State.setControl, lowBits_eq_and, sclBits_eq_and]

theorem setControl_readOnly (s : State) (k n : Nat) (v : Word) (h : n ∈ readOnly) : s.setControl k n v = s := by
  have notWritable : ∀ m ∈ readOnly, m ∉ List.range 9 ++ [0x1D, 0x2C] := by decide
  unfold State.setControl
  split
  case h_12 => rfl
  all_goals exact absurd (by decide) (notWritable _ h)

/-! When `getc` and `setc` wait (R34; 02 R58). -/

section
variable {s : State} {c : Ctx} {n : Nat}

theorem controlBusy_read_eq_false (level : n = 7 → s.levelQuiet c.core c.f = true) (stoch : n = 6 → s.srstBusy c.core c.f = false) :
    s.controlBusy c n true = false := by
  simpa [State.controlBusy] using And.intro level stoch

/-- `setc` of `fpflg` waits for nothing. -/
theorem controlBusy_write_eq_false (stoch : n = 6 → s.srstBusy c.core c.f = false) : s.controlBusy c n false = false := by
  simpa [State.controlBusy] using stoch

theorem controlBusy_fpflg (inFlight : s.levelQuiet c.core c.f = false) : s.controlBusy c 7 true = true := by
  simp [State.controlBusy, inFlight]

theorem controlBusy_srst {read : Bool} (busy : s.srstBusy c.core c.f = true) : s.controlBusy c 6 read = true := by
  simp [State.controlBusy, busy]

end

/-! What a ready `getc` and a ready `setc` do (04 R128). -/

/-- The register that `setc` reads (R83). -/
def setcSource (f : Frame) (w : Bundle) : Word := f.xGet (if w.rgx.isSome then fieldC w else fieldA w)

section
variable {s : State} {w : Bundle} {f : Frame} {n : Nat} (num : immI w = n)
include num

theorem getc_ready (h : Ready s .getc w f) (e : Enabled f w) :
    exec (.getc w) s = .next
      (if s.controlBusy (readyCtx s .getc w f) n true then s else s.withResult f w (fieldA w) (s.control s.cur f n)) := by
  obtain rfl : (immI w).toNat = n := by simp [num]
  rw [← writeX_ready h.1]
  exact bundle_ready h (.inr (.inr e))

variable (h : Ready s .setc w f) (e : Enabled f w)
include h e

theorem setc_ready :
    exec (.setc w) s = .next
      (if n = 0x2C ∧ f.level ≠ 7 then s.exact s.cur .perm 0#64
      else if s.controlBusy (readyCtx s .setc w f) n false then s
      else (s.setControl s.cur n (setcSource f w)).advance (readyCtx s .setc w f)) := by
  obtain rfl : (immI w).toNat = n := by simp [num]
  exact bundle_ready h (.inr (.inr e))

/-- A `setc` that neither traps nor waits completes with its write. -/
theorem setc_completes (perm : n = 0x2C → f.level = 7) (stoch : n = 6 → s.srstBusy s.cur f = false) :
    exec (.setc w) s = .next ((s.setControl s.cur n (setcSource f w)).advance (readyCtx s .setc w f)) := by
  rw [setc_ready num h e, if_neg (fun ⟨cpsel, below⟩ => below (perm cpsel)), controlBusy_write_eq_false stoch, if_neg Bool.false_ne_true]

theorem setc_level {row : Nat × (LevelState → LevelState)} (hrow : row ∈ controlWrites (setcSource f w)) (hn : row.1 = n)
    (stoch : n = 6 → s.srstBusy s.cur f = false) :
    exec (.setc w) s = .next (s.withRunning { f with lv := row.2 f.lv, pc := nextPc f w }) := by
  have notCpsel : ∀ r ∈ controlWrites (setcSource f w), r.1 ≠ 0x2C := by simp [controlWrites]
  subst hn
  rw [setc_completes num h e (fun cpsel => absurd cpsel (notCpsel row hrow)) stoch, setControl_of_row _ _ _ row hrow,
    modTop_advance_ready h.1]
  rfl

/-- `mwt` and `cpsel` are the registers of the core that `setc` writes. -/
theorem setc_core (g : Core → Core) (keep : ∀ c, (g c).frames = c.frames)
    (write : s.setControl s.cur n (setcSource f w) = s.modCore s.cur g) (other : n ≠ 6) (perm : n = 0x2C → f.level = 7) :
    exec (.setc w) s = .next (s.withRunningCore g { f with pc := nextPc f w }) := by
  rw [setc_completes num h e perm (fun srst => absurd srst other), write, modCore_advance_ready h.1 g keep]

theorem setc_readOnly (hn : n ∈ readOnly) : exec (.setc w) s = .next (s.pastBundle f w) := by
  have writable : 0x2C ∉ readOnly ∧ 6 ∉ readOnly := by decide
  rw [setc_completes num h e (fun cpsel => absurd (cpsel ▸ hn) writable.1) (fun srst => absurd (srst ▸ hn) writable.2),
    setControl_readOnly _ _ _ _ hn, advance_ready h.1]

end

/-- Check 5 of R82 for `getc` and `setc`: the number is listed, and the profile of the core has the register (R32, R45). -/
theorem control_illegal {s : State} {op : Op} {w : Bundle} (control : op = .getc ∨ op = .setc)
    (bad : immI w < 0 ∨ controlListed (immI w).toNat = false ∨
      (4096 ≤ s.cur ∧ ((immI w).toNat ≤ 4 ∨ (immI w).toNat = 0x13 ∨ (immI w).toNat = 0x1B ∨ (immI w).toNat = 0x1D))) :
    (legal op w && coreOk s.cur op w) = false := by
  have entry : entryOk op w = (decide (0 ≤ immI w) && decide (immI w ≤ 255) && controlListed (immI w).toNat) := by
    rcases control with rfl | rfl <;> rfl
  have core : coreOk s.cur op w = !profileLacks s.cur (immI w).toNat := by rcases control with rfl | rfl <;> rfl
  rcases bad with negative | unlisted | ⟨noCompute, lacks⟩
  · have : decide (0 ≤ immI w) = false := decide_eq_false (by omega)
    simp only [legal, entry, this, Bool.false_and, Bool.and_false]
  · simp only [legal, entry, unlisted, Bool.false_and, Bool.and_false]
  · have : profileLacks s.cur (immI w).toNat = true := by
      simpa [profileLacks, isCompute, or_assoc] using ⟨noCompute, by omega⟩
    rw [core, this, Bool.not_true, Bool.and_false]

theorem getcReadsTheRegister : GetcReadsTheRegister := by
  intro w s f h e
  refine ⟨fun row hrow num level stoch => ?_, fun num inFlight => ?_, fun num busy => ?_⟩
  · rw [getc_ready num h e, controlBusy_read_eq_false level stoch, control_of_row s f row hrow, if_neg Bool.false_ne_true]
  · rw [getc_ready num h e, controlBusy_fpflg inFlight, if_pos rfl]
  · rw [getc_ready num h e, controlBusy_srst busy, if_pos rfl]

theorem setcWritesTheRegister : SetcWritesTheRegister := by
  refine ⟨fun w s f h e => ?enabled, ?illegal⟩
  case enabled =>
    refine ⟨fun row hrow num stoch => setc_level num h e hrow rfl stoch,
      fun mwt => setc_core mwt h e _ (fun _ => rfl) rfl (by decide) nofun,
      fun cpsel level => setc_core cpsel h e _ (fun _ => rfl) rfl (by decide) (fun _ => level), fun cpsel level => ?perm,
      fun n hn num => setc_readOnly num h e hn, fun srst busy => ?busy⟩
    case perm => rw [setc_ready cpsel h e, if_pos ⟨rfl, level⟩]; rfl
    case busy => rw [setc_ready srst h e, controlBusy_srst busy]; rfl
  case illegal =>
    simp only [List.forall_mem_cons]
    exact ⟨fun _ _ _ h m bad => bundle_illegal h m rfl (control_illegal (.inl rfl) bad),
      fun _ _ _ h m bad => bundle_illegal h m rfl (control_illegal (.inr rfl) bad), nofun⟩

/-! The obligations. -/

/-- Settles O3: a case split on whether the register read is the one written, and whether that is constant. -/
theorem registersReadBack : Obligations.RegistersReadBack := by
  intro f n m v u
  exact ⟨xGet_zero f, kGet_zero f, xGet_xSet f n m v, kGet_kSet f n m v, vGet_vSet f n m u, kGet_xSet f n m v, vGet_xSet f n m v,
    xGet_kSet f n m v, vGet_kSet f n m v, xGet_vSet f n m u, kGet_vSet f n m u⟩

/-- Settles O11, from what a ready `getc` and a ready `setc` do and the values and masks of each number. -/
theorem controlRegistersReadAndWrite : Obligations.ControlRegistersReadAndWrite := ⟨getcReadsTheRegister, setcWritesTheRegister⟩

end Sys2Proof.Machine
end

section
/-! Encoding and decoding of bundles (03 R77 to R81, R88 to R94). -/

namespace Sys2Proof

/-! The opcode map read by slot and by instruction (R88 to R94). -/

/-- Every row of a page is the row of its instruction, and of that page. -/
theorem pageRows_row (page : Nat) : ∀ r ∈ pageRows page, r.op.row = r ∧ r.page = page := by
  unfold pageRows
  split
  case h_7 => exact fun _ absent => absurd absent List.not_mem_nil
  all_goals decide

theorem Op.slotOp_row (op : Op) : slotOp op.page op.op6 = some op := by cases op <;> rfl

/-- A page and a slot select the instruction whose row names them. -/
theorem slotOp_eq_some {page op6 : Nat} {op : Op} : slotOp page op6 = some op ↔ op.page = page ∧ op.op6 = op6 := by
  constructor
  · intro h
    obtain ⟨r, found, rfl⟩ := Option.map_eq_some_iff.mp h
    obtain ⟨row, onPage⟩ := pageRows_row page r (List.mem_of_find?_eq_some found)
    have slot := List.find?_some found
    exact ⟨by rw [Op.page, row, onPage], by rw [Op.op6, row]; exact beq_iff_eq.mp slot⟩
  · rintro ⟨rfl, rfl⟩
    exact op.slotOp_row

theorem Op.page_le (op : Op) : op.page ≤ 5 := by cases op <;> decide

/-- No instruction stands in a slot of the chain words (R78, R88). -/
theorem Op.op6_lt (op : Op) : op.op6 < 60 := by cases op <;> decide

/-- The operation and the bundle that an instruction encodes give it back. -/
theorem instr_of_code {i : Instr} {op : Op} {w : Bundle} (h : i.code? = some (op, w)) : op.instr w = i := by
  cases i <;> cases h <;> rfl

theorem code_instr (op : Op) (w : Bundle) : (op.instr w).code? = some (op, w) := by cases op <;> rfl

/-! Fields of words and of payloads (R77, R78). -/

section
variable {n : Nat} {x : BitVec n}

theorem extractLsb'_eq_of_div {start len : Nat} {y : BitVec len} (h : x.toNat / 2 ^ start % 2 ^ len = y.toNat) :
    x.extractLsb' start len = y :=
  BitVec.eq_of_toNat_eq (by rw [BitVec.extractLsb'_toNat, Nat.shiftRight_eq_div_pow, h])

theorem getLsbD_eq_of_div {i : Nat} {b : Bool} (h : x.toNat / 2 ^ i % 2 = b.toNat) : x.getLsbD i = b := by
  rw [BitVec.getLsbD, Nat.testBit_eq_decide_div_mod_eq, h]
  cases b <;> rfl

end

section
variable {op6 : Nat} (slot : op6 < 64) (a b : BitVec 5) (p : BitVec 10)
include slot

theorem toNat_encodeWord : (encodeWord op6 a b).toNat = op6 * 1024 + a.toNat * 32 + b.toNat := by
  rw [encodeWord, BitVec.toNat_ofNat, Nat.mod_eq_of_lt]
  omega

theorem toNat_encodeChainWord : (encodeChainWord op6 p).toNat = op6 * 1024 + p.toNat := by
  rw [encodeChainWord, BitVec.toNat_ofNat, Nat.mod_eq_of_lt]
  omega

theorem wordOp6_encodeWord : wordOp6 (encodeWord op6 a b) = op6 := by
  rw [wordOp6, toNat_encodeWord slot]
  omega

theorem wordA_encodeWord : wordA (encodeWord op6 a b) = a :=
  extractLsb'_eq_of_div (by rw [toNat_encodeWord slot]; omega)

theorem wordB_encodeWord : wordB (encodeWord op6 a b) = b :=
  extractLsb'_eq_of_div (by rw [toNat_encodeWord slot]; omega)

theorem wordOp6_encodeChainWord : wordOp6 (encodeChainWord op6 p) = op6 := by
  rw [wordOp6, toNat_encodeChainWord slot]
  omega

theorem wordPayload_encodeChainWord : wordPayload (encodeChainWord op6 p) = p :=
  extractLsb'_eq_of_div (by rw [toNat_encodeChainWord slot]; omega)

theorem isChainWord_encodeChainWord : isChainWord (encodeChainWord op6 p) = decide (60 ≤ op6) := by
  rw [isChainWord, wordOp6_encodeChainWord slot]

end

theorem isChainWord_instruction (op : Op) (a b : BitVec 5) : isChainWord (encodeWord op.op6 a b) = false := by
  have slot := op.op6_lt
  rw [isChainWord, wordOp6_encodeWord (by omega)]
  exact decide_eq_false (by omega)

theorem toNat_encodeRgx (r : Rgx) :
    (encodeRgx r).toNat = r.c.toNat * 32 + r.a5.toNat * 16 + r.b5.toNat * 8 + r.hold.toNat := by
  obtain ⟨c, a5, b5, hold⟩ := r
  rw [encodeRgx, BitVec.toNat_ofNat]
  cases a5 <;> cases b5 <;> simp <;> omega

theorem decodeRgx_encodeRgx (r : Rgx) : decodeRgx (encodeRgx r) = r := by
  have payload := toNat_encodeRgx r
  have a5 := r.a5.toNat_le
  have b5 := r.b5.toNat_le
  rw [decodeRgx, extractLsb'_eq_of_div (y := r.c), getLsbD_eq_of_div (b := r.a5), getLsbD_eq_of_div (b := r.b5),
    extractLsb'_eq_of_div (y := r.hold)]
  all_goals rw [payload]; omega

theorem toNat_encodeQlx (q : Qlx) :
    (encodeQlx q).toNat = q.pred.toNat * 128 + q.neg.toNat * 64 + q.scope.toNat * 8 + q.ord.toNat * 2 + q.flag.toNat := by
  obtain ⟨pred, neg, scope, ord, flag⟩ := q
  rw [encodeQlx, BitVec.toNat_ofNat]
  cases neg <;> cases flag <;> simp <;> omega

theorem decodeQlx_encodeQlx (q : Qlx) : decodeQlx (encodeQlx q) = q := by
  have payload := toNat_encodeQlx q
  have neg := q.neg.toNat_le
  have flag := q.flag.toNat_le
  rw [decodeQlx, extractLsb'_eq_of_div (y := q.pred), getLsbD_eq_of_div (b := q.neg), extractLsb'_eq_of_div (y := q.scope),
    extractLsb'_eq_of_div (y := q.ord), getLsbD_eq_of_div (b := q.flag)]
  all_goals rw [payload]; omega

/-! Gathering a chain (R78, R79). -/

/-- How many words a chain has gathered, as long as none was repeated. -/
def Chain.size (c : Chain) : Nat :=
  c.imx.length + (if c.rgx.isSome then 1 else 0) + (if c.qlx.isSome then 1 else 0) + (if c.pgx.isSome then 1 else 0)

section
variable (c : Chain) (p : BitVec 10)

theorem add_imx : c.add (encodeChainWord 60 p) = { c with imx := c.imx ++ [p] } := by
  simp [Chain.add, wordOp6_encodeChainWord, wordPayload_encodeChainWord]

theorem add_rgx (h : c.rgx = none) : c.add (encodeChainWord 61 p) = { c with rgx := some p } := by
  simp [Chain.add, wordOp6_encodeChainWord, wordPayload_encodeChainWord, h]

theorem add_pgx (h : c.pgx = none) : c.add (encodeChainWord 62 p) = { c with pgx := some p } := by
  simp [Chain.add, wordOp6_encodeChainWord, wordPayload_encodeChainWord, h]

theorem add_qlx (h : c.qlx = none) : c.add (encodeChainWord 63 p) = { c with qlx := some p } := by
  simp [Chain.add, wordOp6_encodeChainWord, wordPayload_encodeChainWord, h]

end

theorem foldl_add_imx (l : List (BitVec 10)) (c : Chain) :
    (l.map (encodeChainWord 60)).foldl Chain.add c = { c with imx := c.imx ++ l } := by
  induction l generalizing c with
  | nil => simp
  | cons p l ih => simp [ih, add_imx]

/-- A word adds one to a chain in which it is no repeat; a repeat is noted for good (R79). -/
theorem add_size {c : Chain} {w : IWord} (h : (c.add w).twice = none) : c.twice = none ∧ (c.add w).size = c.size + 1 := by
  unfold Chain.add at h ⊢
  dsimp only at h ⊢
  split at h
  case h_1 => exact ⟨h, by simp +arith [Chain.size]⟩
  all_goals
    split at h
    · cases h
    · rename_i absent
      simp only [Option.not_isSome_iff_eq_none] at absent
      exact ⟨h, by simp +arith [Chain.size, absent]⟩

theorem foldl_add_size {l : List IWord} {c : Chain} (h : (l.foldl Chain.add c).twice = none) :
    c.twice = none ∧ (l.foldl Chain.add c).size = c.size + l.length := by
  induction l generalizing c with
  | nil => exact ⟨h, rfl⟩
  | cons w l ih =>
    obtain ⟨first, rest⟩ := ih h
    obtain ⟨start, one⟩ := add_size first
    exact ⟨start, by rw [List.foldl_cons, rest, one, List.length_cons]; omega⟩

/-! What `decode` finds (R81). -/

/-- The bundle that a gathered chain and an instruction word make (R79). -/
def Chain.bundle (c : Chain) (w : IWord) : Bundle :=
  { a := wordA w, b := wordB w, imx := c.imx, rgx := c.rgx.map decodeRgx, qlx := c.qlx.map decodeQlx, pgx := c.pgx.isSome }

/-- The page that a chain selects (R78). -/
def Chain.page (c : Chain) : Nat := (c.pgx.map (·.toNat)).getD 0

theorem chainLength_bundle (c : Chain) (w : IWord) : (c.bundle w).chainLength = c.size := by
  simp only [Chain.bundle, Bundle.chainLength, Chain.size, Option.isSome_map]
  rfl

/-- A chain without repeats and an instruction word are the instruction of its page and slot (R79, R88). -/
theorem finishBundle_ok {c : Chain} {w : IWord} {i : Instr} :
    finishBundle c w = .ok i ↔
      c.twice = none ∧ ∃ op : Op, (op.page = c.page ∧ op.op6 = wordOp6 w) ∧ op.instr (c.bundle w) = i := by
  simp only [← slotOp_eq_some]
  unfold finishBundle
  split
  case h_1 repeated => simp [repeated]
  case h_2 once =>
    have slots : 5 < c.page → slotOp c.page (wordOp6 w) = none := fun beyond =>
      Option.eq_none_iff_forall_ne_some.mpr fun op slot => by
        have := (slotOp_eq_some.mp slot).1
        have := op.page_le
        omega
    dsimp only
    split
    case isTrue beyond => simp [slots beyond]
    case isFalse =>
      split
      case h_1 free => simp [Chain.page, free]
      case h_2 op slot => simp [Chain.page, Chain.bundle, once, slot]

/-- The words of a chain, at most four in all, and the first word that is none make a bundle. -/
theorem decodeFrom_append {chain : List IWord} {c : Chain} {k : Nat} {last : IWord} {i : Instr} (rest : List IWord)
    (words : ∀ x ∈ chain, isChainWord x = true) (ends : isChainWord last = false) (four : k + chain.length ≤ 4)
    (finish : finishBundle (chain.foldl Chain.add c) last = .ok i) :
    decodeFrom c k (chain ++ last :: rest) = .instr i (k + chain.length + 1) := by
  induction chain generalizing c k with
  | nil => simp only [List.foldl_nil] at finish; simp [decodeFrom, ends, finish]
  | cons x chain ih =>
    simp only [List.forall_mem_cons, List.length_cons] at words four
    have more : k ≠ 4 := by omega
    simp only [List.cons_append, decodeFrom, words.1, if_true, if_neg more, List.length_cons]
    rw [ih words.2 (by omega) finish]
    congr 1
    omega

/-- Every bundle that `decode` finds is the words of a chain and the first word that is none. -/
theorem decodeFrom_instr {ws : List IWord} {c : Chain} {k n : Nat} {i : Instr} (four : k ≤ 4) (h : decodeFrom c k ws = .instr i n) :
    ∃ chain last rest, ws = chain ++ last :: rest ∧ (∀ x ∈ chain, isChainWord x = true) ∧ isChainWord last = false ∧
      k + chain.length ≤ 4 ∧ n = k + chain.length + 1 ∧ finishBundle (chain.foldl Chain.add c) last = .ok i := by
  induction ws generalizing c k with
  | nil => cases h
  | cons w ws ih =>
    unfold decodeFrom at h
    split at h
    case isTrue word =>
      split at h
      case isTrue => cases h
      case isFalse more =>
        obtain ⟨chain, last, rest, rfl, words, ends, four, count, finish⟩ := ih (by omega) h
        refine ⟨w :: chain, last, rest, rfl, List.forall_mem_cons.mpr ⟨word, words⟩, ends, ?_, ?_, finish⟩
        all_goals rw [List.length_cons]; omega
    case isFalse ends =>
      split at h
      case h_1 finish =>
        cases h
        exact ⟨[], w, ws, rfl, nofun, by simpa using ends, four, rfl, finish⟩
      case h_2 => cases h

/-! Encoding (R98), and the obligation. -/

/-- The words of a bundle's chain, in the order of R98. -/
def chainWords (op : Op) (w : Bundle) : List IWord :=
  w.imx.map (encodeChainWord 60) ++ (w.rgx.map (fun r => encodeChainWord 61 (encodeRgx r))).toList ++
    (w.qlx.map (fun q => encodeChainWord 63 (encodeQlx q))).toList ++
    (if w.pgx then [encodeChainWord 62 (BitVec.ofNat 10 op.page)] else [])

/-- What those words gather. -/
def gathered (op : Op) (w : Bundle) : Chain :=
  { imx := w.imx, rgx := w.rgx.map encodeRgx, pgx := if w.pgx then some (BitVec.ofNat 10 op.page) else none,
    qlx := w.qlx.map encodeQlx, twice := none }

theorem encodeBundle_eq (op : Op) (w : Bundle) : encodeBundle op w = chainWords op w ++ [encodeWord op.op6 w.a w.b] := rfl

theorem isChainWord_chainWords (op : Op) (w : Bundle) : ∀ x ∈ chainWords op w, isChainWord x = true := by
  have word {k : Nat} (low : 60 ≤ k) (high : k < 64) (p : BitVec 10) : isChainWord (encodeChainWord k p) = true := by
    rw [isChainWord_encodeChainWord high, decide_eq_true low]
  simp only [chainWords, List.mem_append, List.mem_map, Option.mem_toList, Option.map_eq_some_iff]
  rintro x (((⟨p, -, rfl⟩ | ⟨r, -, rfl⟩) | ⟨q, -, rfl⟩) | page)
  · exact word (by decide) (by decide) p
  · exact word (by decide) (by decide) _
  · exact word (by decide) (by decide) _
  · obtain ⟨-, rfl⟩ : w.pgx = true ∧ x = encodeChainWord 62 (BitVec.ofNat 10 op.page) := by simpa using page
    exact word (by decide) (by decide) _

theorem foldl_chainWords (op : Op) (w : Bundle) : (chainWords op w).foldl Chain.add Chain.empty = gathered op w := by
  obtain ⟨a, b, imx, rgx, qlx, pgx⟩ := w
  simp only [chainWords, List.foldl_append, foldl_add_imx]
  cases rgx <;> cases qlx <;> cases pgx <;> simp [gathered, Chain.empty, add_rgx, add_qlx, add_pgx]

theorem finishBundle_gathered {op : Op} {w : Bundle} (h : (w.pgx || op.page == 0) = true) :
    finishBundle (gathered op w) (encodeWord op.op6 w.a w.b) = .ok (op.instr w) := by
  have slot := op.op6_lt
  have small := op.page_le
  have page : op.page = (gathered op w).page := by
    cases pgx : w.pgx with
    | false => simpa [gathered, Chain.page, pgx] using h
    | true => simp [gathered, Chain.page, pgx]; omega
  have bundle : (gathered op w).bundle (encodeWord op.op6 w.a w.b) = w := by
    obtain ⟨a, b, imx, rgx, qlx, pgx⟩ := w
    cases rgx <;> cases qlx <;> cases pgx <;>
      simp [gathered, Chain.bundle, wordA_encodeWord, wordB_encodeWord, decodeRgx_encodeRgx, decodeQlx_encodeQlx, show op.op6 < 64 by omega]
  exact finishBundle_ok.mpr ⟨rfl, op, ⟨page, (wordOp6_encodeWord (by omega) _ _).symm⟩, by rw [bundle]⟩

/-- Settles O55: the words before the instruction word gather the fields that were encoded; and what `decode` finds is such a chain with its
instruction word, whatever follows. -/
theorem decodingUndoesEncoding : Obligations.DecodingUndoesEncoding := by
  constructor
  · intro i op w rest code ok
    obtain ⟨four, page⟩ : w.chainLength ≤ 4 ∧ (w.pgx || op.page == 0) = true := by simpa [Bundle.chainOk] using ok
    have words : (encode i).length = w.chainLength + 1 := by
      have := Laws.BundleLength.of_code i
      simp only [Laws.BundleLength.Statement, code] at this
      exact this.1
    have shape : encode i = chainWords op w ++ [encodeWord op.op6 w.a w.b] := by simp only [encode, code, encodeBundle_eq]
    have count : (chainWords op w).length = w.chainLength := by simpa [shape] using words
    refine ⟨?_, words⟩
    rw [shape, List.append_assoc, List.singleton_append, decode, ← count, ← instr_of_code code]
    have found := decodeFrom_append (c := .empty) (k := 0) rest (isChainWord_chainWords op w) (isChainWord_instruction op w.a w.b)
      (by omega) (by rw [foldl_chainWords, finishBundle_gathered page])
    rwa [Nat.zero_add] at found
  · intro ws i n found
    obtain ⟨chain, last, rest, rfl, words, ends, four, rfl, finish⟩ := decodeFrom_instr (Nat.zero_le 4) found
    obtain ⟨once, op, ⟨page, -⟩, rfl⟩ := finishBundle_ok.mp finish
    have size := (foldl_add_size once).2
    have length : ((chain.foldl Chain.add .empty).bundle last).chainLength = chain.length := by
      rw [chainLength_bundle, size]
      exact Nat.zero_add _
    have take : (chain ++ last :: rest).take (0 + chain.length + 1) = chain ++ [last] := by
      simp [List.take_append, List.take_of_length_le]
    refine ⟨by omega, by omega, by simp, ⟨op, _, code_instr op _, ?_, by omega⟩, fun more => ?_⟩
    · have : (((chain.foldl Chain.add .empty).bundle last).pgx || op.page == 0) = true := by
        rw [page]
        cases h : (chain.foldl Chain.add .empty).pgx <;> simp [Chain.bundle, Chain.page, h]
      simp only [Bundle.chainOk, this, Bool.and_true, decide_eq_true_eq]
      omega
    · rw [take, List.append_assoc, List.singleton_append]
      exact decodeFrom_append more words ends four finish

/-- Settles O54: `decode` reads a handful of words, so each example is a closed computation. -/
theorem specExamplesDecode : Obligations.SpecExamplesDecode := by
  unfold Obligations.SpecExamplesDecode
  decide

end Sys2Proof
end


section
/-! The checks of a bundle (03 R82), its predicate (R87) and the registers it waits for (07 R196; 05 R135). -/

namespace Sys2Proof.Machine

open Sys2Proof.Claims

section
variable {op : Op} {w : Bundle} {s : State} {f : Frame} {body : Ctx → State → State} (running : s.running = some f) (stays : f.mig = none)
include running stays

/-- Check 4 of R82. -/
theorem bundle_outsideProfile (outside : profileOk s op = false) : bundle op w s body = .next (s.outsideProfile s.cur f) := by
  rw [profileOk] at outside
  simp [bundle, running, State.checked, stays, outside]

/-- Check 6 of R82. -/
theorem bundle_window (profile : profileOk s op = true) (fields : fieldsLegal s op w = true) (outside : windowsOk f op w = false) :
    bundle op w s body = .next (s.exact s.cur .window 0#64) := by
  rw [profileOk] at profile
  rw [fieldsLegal] at fields
  simp [bundle, running, State.checked, stays, profile, fields, outside]

end

theorem closeStream_of_not_leading {s : State} {k : Nat} (h : ∀ n, (s.core k).follow ≠ .leading n) : s.closeStream k = s := by
  have leads : (s.core k).leads = none := by
    unfold Core.leads
    split
    case h_1 n leading => exact absurd leading (h n)
    case h_2 => rfl
  simp only [State.closeStream, leads]

/-! What a bundle outside the profile begins (09 R269). -/

theorem outsideProfile_illegal {s : State} {k : Nat} (f : Frame) (h : profileOf k ≠ .L) :
    s.outsideProfile k f = s.exact k .illegal 0#64 := by
  unfold State.outsideProfile
  split
  case h_1 yarrow => exact absurd yarrow h
  case h_2 => rfl

theorem outsideProfile_claimed {s : State} {k : Nat} {f : Frame} (yarrow : profileOf k = .L) (held : f.claims ≠ []) :
    s.outsideProfile k f = s.exact k .migrateWhileClaimed 0#64 := by
  simp [State.outsideProfile, yarrow, held]

theorem outsideProfile_migrates {s : State} {f : Frame} (running : s.running = some f) (yarrow : profileOf s.cur = .L)
    (free : f.claims = []) (leads : ∀ n, (s.core s.cur).follow ≠ .leading n) :
    s.outsideProfile s.cur f = s.whileWaiting (fun c => { c with follow := .free, latchA := none, latchB := none, latchC := none })
      { f with mig := some (0, 0#64) } := by
  have migrates : s.outsideProfile s.cur f = s.modCore s.cur (fun c =>
      { c.detach with frames := modHead (fun g => { g with mig := some (0, 0#64) }) c.frames }) := by
    simp [State.outsideProfile, yarrow, free, closeStream_of_not_leading leads]
  rw [migrates, State.modCore, running_frames running]
  rfl

/-- Settles O7: the first check that fails is reached through those before it. -/
theorem checksDecideInOrder : Obligations.ChecksDecideInOrder := by
  intro i op w s f code running stays
  obtain ⟨body, meaning⟩ := exec_bundle code
  rw [meaning]
  refine ⟨fun outside other => ?_, fun outside yarrow held => ?_, fun outside yarrow free leads => ?_,
    fun profile fields => bundle_illegal running stays profile fields,
    fun profile fields outside => bundle_window running stays profile fields outside⟩
  · rw [bundle_outsideProfile running stays outside, outsideProfile_illegal f other]; rfl
  · rw [bundle_outsideProfile running stays outside, outsideProfile_claimed yarrow held]; rfl
  · rw [bundle_outsideProfile running stays outside, outsideProfile_migrates running yarrow free leads]

/-! A predicate that is 0 (R87). -/

/-- With no descriptor to release, a bundle whose predicate is 0 is only passed (07 R207). -/
theorem skip_advance {s : State} {c : Ctx} (h : consumesSuccessor c.op = false ∨ c.f.pending = none) : s.skip c = s.advance c := by
  have nothing : (if consumesSuccessor c.op && !(c.op == .tmr && modOpt c.w / 2 % 2 == 1) then c.f.pending else none) = none := by
    rcases h with keeps | empty
    · simp [keeps]
    · simp [empty]
  simp only [State.skip, nothing]

/-- Settles O9, from what a bundle that is skipped and one that stalls do. -/
theorem predicatesAndWaiting : Obligations.PredicatesAndWaiting := by
  refine ⟨?skipped, ?waits⟩
  case skipped =>
    intro i op w s f code scalar noJob ready off nothing
    obtain ⟨body, meaning⟩ := exec_bundle code
    rw [meaning, bundle_skipped ready scalar noJob off, skip_advance nothing, advance_ready ready.1]
  case waits =>
    intro i op w s f code running stays profile fields windows stall
    obtain ⟨body, meaning⟩ := exec_bundle code
    rw [meaning, bundle_stalls running stays profile fields windows stall]

end Sys2Proof.Machine
end


section
/-! Fetching leaves every stack of frames as it is (03 R81). -/

namespace Sys2Proof.Machine

/-- The current core and the stack of frames of every core are the same. -/
def SameFrames (s t : State) : Prop := t.cur = s.cur ∧ ∀ k, (t.core k).frames = (s.core k).frames

namespace SameFrames

theorem refl (s : State) : SameFrames s s := ⟨rfl, fun _ => rfl⟩

theorem trans {s t u : State} (h : SameFrames s t) (g : SameFrames t u) : SameFrames s u :=
  ⟨g.1.trans h.1, fun k => (g.2 k).trans (h.2 k)⟩

/-- A step that changes no core. -/
theorem of_cores {s t : State} (cur : t.cur = s.cur) (cores : t.cores = s.cores) : SameFrames s t :=
  ⟨cur, fun k => by rw [State.core, cores]; rfl⟩

theorem ite {s t u : State} {p : Prop} [Decidable p] (h : SameFrames s t) (g : SameFrames s u) : SameFrames s (if p then t else u) := by
  split
  · exact h
  · exact g

theorem foldl {α : Type} {f : State → α → State} (h : ∀ s a, SameFrames s (f s a)) (l : List α) (s : State) :
    SameFrames s (l.foldl f s) := by
  induction l generalizing s with
  | nil => exact .refl s
  | cons a l ih => exact (h s a).trans (ih _)

/-- A change of one core that leaves its frames. -/
theorem modCore (s : State) (k : Nat) {g : Core → Core} (keep : ∀ c, (g c).frames = c.frames) :
    SameFrames s (s.modCore k g) := by
  refine ⟨rfl, fun j => ?_⟩
  by_cases same : j = k
  · rw [same, modCore_core_same, keep]
  · rw [modCore_core_other s g same]

theorem running {s t : State} (h : SameFrames s t) : t.running = s.running := by
  rw [State.running, State.running, State.top, State.top, h.1, h.2]

/-! Lines of the homes. -/

theorem modOp (s : State) (id : Nat) (f : MemOp → MemOp) : SameFrames s (s.modOp id f) := by
  unfold State.modOp
  split <;> exact .of_cores rfl rfl

theorem setHomeLines (s : State) (policy home : Nat) (l : List CLine) : SameFrames s (s.setHomeLines policy home l) := by
  unfold State.setHomeLines
  split <;> exact .of_cores rfl rfl

theorem useLine (s : State) (policy home line : Nat) (nt : Bool) : SameFrames s (s.useLine policy home line nt) :=
  .trans (.of_cores rfl rfl) (setHomeLines _ _ _ _)

theorem writeBack (s : State) (c : CLine) : SameFrames s (s.writeBack c) := .ite (.of_cores rfl rfl) (.refl s)

theorem reserveLine (s : State) (policy home line : Nat) : SameFrames s (s.reserveLine policy home line) := by
  unfold State.reserveLine
  split
  · exact .refl s
  · have used : SameFrames s { s with uses := s.uses + 1 } := .of_cores rfl rfl
    have drawn : SameFrames s s.draw.2 := .of_cores rfl rfl
    split <;> dsimp only <;> split
    · exact used
    · exact (used.trans (foldl writeBack _ _)).trans (.of_cores rfl rfl)
    · exact setHomeLines _ _ _ _
    · split
      · exact drawn.trans ((writeBack _ _).trans (setHomeLines _ _ _ _))
      · exact drawn

theorem placeLine (s : State) (policy home line : Nat) : SameFrames s (s.placeLine policy home line) :=
  (reserveLine s policy home line).trans (setHomeLines _ _ _ _)

theorem acceptAccess (s : State) (id : Nat) (o : MemOp) (e : Elem) : SameFrames s (s.acceptAccess id o e) := by
  unfold State.acceptAccess
  split
  · exact .ite (.refl s) (.ite (.trans (.ite (useLine _ _ _ _ _) (reserveLine _ _ _ _)) (modOp _ _ _)) (.refl s))
  · exact .refl s

theorem acceptEarlier (s : State) (core id : Nat) : SameFrames s (s.acceptEarlier core id) :=
  foldl (fun t _ => .ite (foldl (fun u _ => .ite (acceptAccess _ _ _ _) (.refl u)) _ t) (.refl t)) _ s

theorem bringLine (s : State) (core : Nat) (p : Phys) : SameFrames s (s.bringLine core p) :=
  .ite (.refl s) ((acceptEarlier _ _ _).trans (.trans (.ite (.refl _) (placeLine _ _ _ _)) (useLine _ _ _ _ _)))

theorem bringNear (s : State) (core : Nat) (p : Phys) : SameFrames s (s.bringNear core p) := .ite (.refl s) (bringLine _ _ _)

/-! Translation and fetch. -/

theorem lookup (s : State) (core tenant va : Nat) : SameFrames s (s.lookup core tenant va).2 := by
  unfold State.lookup
  split
  · dsimp only
    split
    · exact .refl s
    · split <;> exact .of_cores rfl rfl
  · exact .refl s

theorem translate (s : State) (core tenant : Nat) (va : Word) (need : Need) : SameFrames s (s.translate core tenant va need).2 := by
  have found := lookup s core tenant (va.toNat % 2 ^ 57)
  unfold State.translate
  split
  · exact .refl s
  · dsimp only
    split
    case h_1 result => rwa [result] at found
    case h_2 result => rw [result] at found; split <;> exact found

theorem fetch16 (s : State) (core tenant : Nat) (va : Word) : SameFrames s (s.fetch16 core tenant va).2 := by
  have translated := translate s core tenant va .fetch
  unfold State.fetch16
  split
  case h_1 result | h_2 result | h_3 result => rwa [result] at translated
  case h_4 p t result =>
    rw [result] at translated
    have brought := translated.trans (bringNear t core { p with pa := p.pa / 64 * 64 })
    dsimp only
    split
    · exact translated
    · split
      · exact translated
      · split
        · exact translated
        · split
          · exact brought.trans (.trans (.of_cores rfl rfl) (modCore _ _ (fun _ => rfl)))
          all_goals exact brought

/-- Words fetched that are an instruction leave every frame as it was. -/
theorem fetchBundle_instr {s v : State} {core tenant pc n m : Nat} {ws : List IWord} {i : Instr}
    (h : s.fetchBundle core tenant pc ws m = (.instr i n, v)) : SameFrames s v := by
  induction m generalizing s ws with
  | zero => cases h
  | succ m ih =>
    have word := fetch16 s core tenant (BitVec.ofNat 64 (pc + 2 * ws.length))
    unfold State.fetchBundle at h
    split at h
    case h_1 b t fetched =>
      rw [fetched] at word
      dsimp only at h
      split at h
      · exact word.trans (ih h)
      · cases h
      · cases h; exact word
    all_goals cases h

/-! Follow mode (04 R121). -/

theorem drain_frames (c : Core) : c.drain.frames = c.frames := by
  unfold Core.drain
  split <;> rfl

theorem freeFollowers (s : State) (tile n : Nat) : SameFrames s (s.freeFollowers tile n) :=
  foldl (fun t _ => by
    dsimp only
    split
    · exact modCore _ _ drain_frames
    · exact .refl t) _ s

theorem closeStream (s : State) (core : Nat) : SameFrames s (s.closeStream core) := by
  unfold State.closeStream
  split
  · exact (freeFollowers _ _ _).trans (modCore _ _ (fun _ => rfl))
  · exact .refl s

theorem reach (s : State) (core : Nat) (i : Instr) : SameFrames s (s.reach core i) := by
  unfold State.reach
  split
  · exact .ite (closeStream _ _) (.refl s)
  · exact .refl s

end SameFrames

end Sys2Proof.Machine
end

section
/-! Every step answers a next state: what the outcome of a move can be. -/

namespace Sys2Proof.Machine

/-- The outcome is a next state. -/
def Answers (o : Out) : Prop := ∃ t, o = .next t

theorem answers_event (s : State) : Answers (event s) := ⟨s, rfl⟩

/-- Whatever the checks of a bundle decide, a next state follows when a frame runs. -/
theorem answers_bundle {op : Op} {w : Bundle} {s : State} {body : Ctx → State → State} (h : s.running.isSome = true) :
    Answers (bundle op w s body) := by
  obtain ⟨f, running⟩ := Option.isSome_iff_exists.mp h
  exact ⟨s.checked f op w body, by simp only [bundle, running]⟩

theorem answers_encoded {i : Instr} {c : Op × Bundle} {s : State} (code : i.code? = some c) (h : s.running.isSome = true) :
    Answers (exec i s) := by
  obtain ⟨body, meaning⟩ := exec_bundle code
  rw [meaning]
  exact answers_bundle h

/-- The meaning of a step without an encoding is a tree of cases with an `event` at each leaf. -/
theorem answers_unencoded {i : Instr} (code : i.code? = none) (s : State) : Answers (exec i s) := by
  unfold exec
  cases i <;> try cases code
  all_goals
    simp only [
      execMessageEjection, execVectorBundleCompletion, execMatrixJobStart, execMatrixUnit, execMatrixJobCompletion, execLoadCompletion,
      execStorePerformed, execHomeAccess, execCacheFill, execAtomicUnitOp, execAhndTimeout, execTimerExpiry, execFollowTimeout,
      execForwardedBundle, execMigrationSend, execMigrationArrival, execEndNotice, execGovernorForward, execBarrierArrival,
      execChannelAck, execCopySegmentStart, execCopySegmentPerformed, execCopyJobCompletion, execMulticastAck, execCopyTimeout,
      execCollectiveBlockCombine, execCollectiveJobCompletion, execCollectiveBlockTimeout, execCqOverflowEntry, execRingEntryTake,
      execLaunchStart, execLaunchEnd, execInstanceComplete, execInvalidationComplete, execUeJobCompletion, execReservedEncoding,
      execRegisterWrite, execInvalidationRequest, execHostBar2Write, execHostBar2Read, execPcieCompletion, execPcieCompletionTimeout,
      execFunctionLevelReset, execIdeIntegrityFailure, execScaleupPacketReceive, execScaleupAck, execUePacketReceive, execUeReadRequest,
      execUeReadResponse, execUeAck, execUeRetransmitTimeout, execGangSwitch, execTileWithdrawal, execPatrolScrub, execPowerGood,
      execCounterRead, execPowerControlPeriod, execTemperatureSample, execGetMeasurements, execKeyExchange, execConfigurationRequest,
      execTenantTableWrite, execRouteTableWrite, execConnectionRestore, execHaltedContextResume, execPolicySetting,
      execGangSwitchPreparation, execBedstoneDieReset]
    repeat' first | exact answers_event _ | split

/-- An encoded instruction needs a running frame, and the other steps need nothing. -/
theorem answers_exec {i : Instr} {s : State} (h : i.code?.isSome = true → s.running.isSome = true) : Answers (exec i s) := by
  cases code : i.code? with
  | none => exact answers_unencoded code s
  | some c => exact answers_encoded code (h (by rw [code]; rfl))

/-! A core's turn. -/

theorem answers_handOn {s : State} {core words : Nat} {i : Instr} {o : Out} (h : Answers o) : Answers (s.handOn core i words o) := by
  obtain ⟨t, rfl⟩ := h
  unfold State.handOn
  dsimp only
  split
  · split <;> exact ⟨_, rfl⟩
  · exact ⟨_, rfl⟩

theorem answers_issueBundle {s : State} {core : Nat} {f : Frame} (h : s.running = some f) : Answers (s.issueBundle core f) := by
  unfold State.issueBundle
  split
  · exact answers_event _
  · split
    case h_1 i n v fetched =>
      have same := (SameFrames.fetchBundle_instr fetched).trans (SameFrames.reach v core i)
      exact answers_handOn (answers_exec fun _ => by rw [same.running, h]; rfl)
    case h_2 why v _ => exact answers_exec (i := .reservedEncoding why) nofun
    all_goals exact answers_event _

theorem answers_issueTop (s : State) (core : Nat) : Answers (s.issueTop core) := by
  unfold State.issueTop
  split
  · exact answers_event s
  case h_2 f running =>
    split
    · exact answers_exec (i := .migrationSend core) nofun
    · split
      case h_3 | h_4 => exact answers_exec (i := .forwardedBundle core) nofun
      case h_5 => exact answers_issueBundle running
      all_goals exact answers_event s

theorem answers_issue (s : State) (core : Nat) : Answers (s.issue core) := by
  unfold State.issue
  dsimp only
  split
  · split
    · exact answers_exec (i := .migrationArrival core) nofun
    · exact answers_event _
  · split
    · exact answers_event _
    · split
      · exact answers_event _
      · exact answers_issueTop _ _

/-! The schedule: what a round offers has no encoding (log entry 1). -/

/-- The steps are of the table without an encoding. -/
def Unencoded (l : List Instr) : Prop := ∀ i ∈ l, i.code? = none

section
variable {α : Type} (l m : List Instr) (k : List α)

@[simp] theorem unencoded_nil : Unencoded [] := fun _ h => absurd h List.not_mem_nil

@[simp] theorem unencoded_cons (i : Instr) : Unencoded (i :: l) ↔ i.code? = none ∧ Unencoded l := List.forall_mem_cons

@[simp] theorem unencoded_append : Unencoded (l ++ m) ↔ Unencoded l ∧ Unencoded m := List.forall_mem_append

@[simp] theorem unencoded_map (f : α → Instr) : Unencoded (k.map f) ↔ ∀ a ∈ k, (f a).code? = none := List.forall_mem_map

@[simp] theorem unencoded_flatMap (f : α → List Instr) : Unencoded (k.flatMap f) ↔ ∀ a ∈ k, Unencoded (f a) := List.forall_mem_flatMap

@[simp] theorem unencoded_filterMap (f : α → Option Instr) : Unencoded (k.filterMap f) ↔ ∀ a ∈ k, Unencoded (f a).toList := by
  simp only [Unencoded, List.mem_filterMap, Option.mem_toList, forall_exists_index, and_imp]
  exact ⟨fun h a mem i found => h i a mem found, fun h i a mem found => h a mem i found⟩

@[simp] theorem unencoded_ite (p : Prop) [Decidable p] :
    Unencoded (if p then l else m) ↔ (p → Unencoded l) ∧ (¬ p → Unencoded m) := by
  split <;> simp [*]

@[simp] theorem unencoded_toList_ite (p : Prop) [Decidable p] (x y : Option Instr) :
    Unencoded (if p then x else y).toList ↔ (p → Unencoded x.toList) ∧ (¬ p → Unencoded y.toList) := by
  split <;> simp [*]

end

theorem opMoves_unencoded (s : State) : Unencoded s.opMoves := by
  simp [State.opMoves, forall_and]
  and_intros <;> intros <;> rfl

theorem netMoves_unencoded (s : State) : Unencoded s.netMoves := by
  have message (m : Nat × NetMsg) :
      (if m.2.msg.kind = 8 then Instr.barrierArrival m.1 else Instr.messageEjection m.1).code? = none := by split <;> rfl
  simp [State.netMoves, message]
  and_intros <;> intros <;> rfl

theorem coreMoves_unencoded (k : Nat) (c : Core) : Unencoded (c.moves k) := by
  simp only [Core.moves, unencoded_append]
  refine ⟨⟨⟨?frames, ?timers⟩, ?follow⟩, ?arrivals⟩
  case follow =>
    split
    · exact (unencoded_cons ..).mpr ⟨rfl, unencoded_nil⟩
    · exact unencoded_nil
  all_goals
    simp
    intros
    rfl

theorem engineMoves_unencoded (s : State) : Unencoded s.engineMoves := by
  simp [State.engineMoves, forall_and]
  and_intros <;> intros <;> rfl

theorem launchMoves_unencoded (s : State) : Unencoded s.launchMoves := by
  simp [State.launchMoves, forall_and]
  and_intros <;> intros <;> rfl

theorem round_unencoded {s : State} {i : Instr} (h : .event i ∈ s.round) : i.code? = none := by
  have offered : Unencoded (s.opMoves ++ s.netMoves ++ s.cores.flatMap (fun k => k.2.moves k.1) ++ s.engineMoves ++ s.launchMoves) := by
    simp only [unencoded_append, unencoded_flatMap]
    exact ⟨⟨⟨⟨opMoves_unencoded s, netMoves_unencoded s⟩, fun k _ => coreMoves_unencoded k.1 k.2⟩, engineMoves_unencoded s⟩,
      launchMoves_unencoded s⟩
  rcases List.mem_append.mp h with event_or_issue | tick
  · rcases List.mem_append.mp event_or_issue with event | issue
    · obtain ⟨j, mem, same⟩ := List.mem_map.mp event
      cases same
      exact offered i mem
    · obtain ⟨k, -, same⟩ := List.mem_map.mp issue
      cases same
  · cases List.mem_singleton.mp tick

theorem nextMove_unencoded {s : State} {i : Instr} (sched : ∀ i, .event i ∈ s.sched → i.code? = none) (h : s.nextMove.1 = .event i) :
    i.code? = none := by
  unfold State.nextMove at h
  split at h
  case h_1 m rest first => exact sched i (by rw [first, ← h]; exact List.mem_cons_self)
  case h_2 =>
    split at h
    case h_1 m rest first => exact round_unencoded (s := s) (by rw [first, ← h]; exact List.mem_cons_self)
    case h_2 => cases h

theorem answers_move {s : State} {m : Move} (h : ∀ i, m = .event i → i.code? = none) : Answers (s.move m) := by
  cases m with
  | issue core => exact answers_issue s core
  | event i => exact answers_unencoded (h i rfl) s
  | _ => exact answers_event _

/-- Settles O60: an encoded instruction answers what its checks decide; the other steps, and a core's turn, are trees of cases that end in a next
state; and a fetch leaves the running frame. -/
theorem everyStepAnswersANextState : Obligations.EveryStepAnswersANextState :=
  ⟨fun _ _ runs => answers_exec runs, fun _ sched => answers_move fun _ => nextMove_unencoded sched⟩

end Sys2Proof.Machine
end


section
/-! What a core's turn issues (03 R79, R81, R88; 08 R234). -/

namespace Sys2Proof.Machine

open Sys2Proof.Claims

/-! Outside follow mode a bundle is neither handed on nor ends a stream (04 R120, R121). -/

section
variable {s : State} {core : Nat} (free : (s.core core).follow = .free)
include free

theorem reach_of_free (i : Instr) : s.reach core i = s := by
  have closed : s.closeStream core = s := closeStream_of_not_leading fun n leading => nomatch free.symm.trans leading
  unfold State.reach
  split
  · rw [closed, ite_self]
  · rfl

theorem handOn_of_free (i : Instr) (words : Nat) (o : Out) : s.handOn core i words o = o := by
  have leads : (s.core core).leads = none := by simp only [Core.leads, free]
  unfold State.handOn
  cases o with
  | next t => simp only [leads]
  | _ => rfl

end

theorem evict_of_not_reserved {s : State} {core : Nat} (h : (s.tile (tileOf core)).reserved = false) : s.evict core = s := by
  unfold State.evict
  split
  · rfl
  · simp [h]

/-- The bundle at the program counter is what comes next in the core's turn. -/
theorem issue_of_issuesNext {s : State} {k : Nat} {f : Frame} (h : issuesNext { s with cur := k } k f) :
    s.issue k = State.issueBundle { s with cur := k } k f := by
  obtain ⟨running, -, stays, candidate, stilled, due, reserved, free⟩ := h
  simp only [State.issue, candidate, stilled, due, Bool.false_eq_true, if_false, evict_of_not_reserved reserved, State.issueTop, running,
    stays, Option.isSome_none, free]

section
variable {s : State} {k : Nat} {rest : List Move} {f : Frame}

theorem step_issue (sched : s.sched = .issue k :: rest) (next : issuesNext { s with sched := rest, cur := k } k f) :
    step s = State.issueBundle { s with sched := rest, cur := k } k f := by
  have move : step s = State.issue { s with sched := rest } k := by simp only [step, State.nextMove, sched, State.move]
  rw [move, issue_of_issuesNext next]

theorem issueBundle_instr {i : Instr} {n : Nat} {v : State} (even : f.pc % 2 = 0)
    (fetched : s.fetchBundle k (s.tenantOf f.ltag) f.pc [] 5 = (.instr i n, v)) :
    s.issueBundle k f = (v.reach k i).handOn k i n (exec i (v.reach k i)) := by
  have notOdd : f.pc % 2 ≠ 1 := by omega
  simp only [State.issueBundle, if_neg notOdd, fetched]

theorem issueBundle_bad {bad : BadBundle} {v : State} (even : f.pc % 2 = 0)
    (fetched : s.fetchBundle k (s.tenantOf f.ltag) f.pc [] 5 = (.bad bad, v)) :
    s.issueBundle k f = exec (.reservedEncoding bad) v := by
  have notOdd : f.pc % 2 ≠ 1 := by omega
  simp only [State.issueBundle, if_neg notOdd, fetched]

theorem issueBundle_odd (odd : f.pc % 2 = 1) : s.issueBundle k f = .next (s.exact k .misalign (BitVec.ofNat 64 f.pc)) := if_pos odd

end

/-- Settles O56: nothing stands between the turn of such a core and its fetch, nor between what `decode` finds and the step. -/
theorem stepRunsTheDecodedInstruction : Obligations.StepRunsTheDecodedInstruction := by
  refine ⟨?instruction, ?odd, ?bad, ?words, ?events⟩
  case instruction =>
    intro s k rest f i n v sched next even fetched free
    rw [step_issue sched next, issueBundle_instr even fetched, reach_of_free free, handOn_of_free free]
  case odd =>
    intro s k rest f sched next odd
    rw [step_issue sched next, issueBundle_odd odd]
    rfl
  case bad =>
    intro s k rest f bad v sched next even fetched
    exact (step_issue sched next).trans (issueBundle_bad even fetched)
  case words =>
    intro s core tenant pc ws m b v fetched
    refine ⟨fun i n found => ?_, fun more => ?_⟩
    · simp only [State.fetchBundle, fetched, found]
    · simp only [State.fetchBundle, fetched, more]
  case events =>
    intro s i rest sched
    simp only [step, State.nextMove, sched, State.move]

end Sys2Proof.Machine
end


section
/-! Page-3 jobs as they are dispatched (06 R161, R168, R169; 01 R42), and `mtest` (06 R184; 10 R298). -/

namespace Sys2Proof.Machine

open Sys2Proof.Claims

/-! The queues of a tile. -/

@[simp] theorem jobsOf_setJobs_same (s : State) (core level : Nat) (l : List Job) : (s.setJobs core level l).jobsOf core level = l := by
  simp only [State.jobsOf, State.setJobs, modTile_tile_same, kgetD_kset_same]

theorem setJobs_tile_same (s : State) (core level : Nat) (l : List Job) :
    (s.setJobs core level l).tile (tileOf core) =
      { s.tile (tileOf core) with queues := kset (s.tile (tileOf core)).queues (queueKey core level) l } := modTile_tile_same _ _ _

theorem setJobs_tile_other (s : State) {core tile : Nat} (level : Nat) (l : List Job) (h : tile ≠ tileOf core) :
    (s.setJobs core level l).tile tile = s.tile tile := modTile_tile_other _ _ h

/-! The updates of cores, of queues and of the names in use commute. -/

theorem modCore_setJobs (s : State) (core level : Nat) (l : List Job) (k : Nat) (g : Core → Core) :
    (s.setJobs core level l).modCore k g = (s.modCore k g).setJobs core level l := rfl

theorem modCore_fresh (s : State) (k : Nat) (g : Core → Core) : s.fresh.2.modCore k g = (s.modCore k g).fresh.2 := rfl

theorem core_fresh (s : State) (k : Nat) : s.fresh.2.core k = s.core k := rfl

theorem core_setJobs (s : State) (core level : Nat) (l : List Job) (k : Nat) : (s.setJobs core level l).core k = s.core k := rfl

theorem withRunningCore_core (s : State) (h : Core → Core) (f : Frame) :
    (s.withRunningCore h f).core s.cur = { h (s.core s.cur) with frames := f :: (s.core s.cur).frames.tail, rbuf := [] } :=
  kgetD_kset_same _ _ _ _

theorem modCore_withRunningCore {s : State} {g h : Core → Core} {f : Frame}
    (same : g (s.core s.cur) = { h (s.core s.cur) with frames := f :: (s.core s.cur).frames.tail, rbuf := [] }) :
    s.modCore s.cur g = s.withRunningCore h f := by
  rw [State.modCore, same]; rfl

/-! Dispatch. -/

/-- Every row is a bundle whose own effect is its dispatch. -/
theorem exec_of_matrixJobs : ∀ row ∈ matrixJobs, ∀ w s, exec (row.1 w) s = jobBundle row.2 w s := by
  simp only [matrixJobs, List.forall_mem_cons]
  repeat refine ⟨fun _ _ => rfl, ?_⟩
  exact nofun

theorem isJob_of_matrixJobs : ∀ row ∈ matrixJobs, isJob row.2 = true ∧ givesResult row.2 = false := by decide

/-- Whether a job draws from the stochastic state of its level (02 R58). -/
def drawsStochastic (op : Op) (f : Frame) (w : Bundle) : Bool := (f.predicate w).getLsbD 0 && jobStochastic op f (f.xGet (fieldC w))

/-- The job that a bundle of the running frame leaves in its queue (R169). -/
def jobOf (s : State) (f : Frame) (op : Op) (w : Bundle) : Job :=
  { op := op, word := w, seq := ((s.core s.cur).cseq + 1) % 65536, stamp := s.nextId, pc := f.pc, task := f.task, item := f.item, ltag := f.ltag,
    xa := f.xGet (fieldA w), xb := f.xGet (fieldB w), xc := f.xGet (fieldC w), active := (f.predicate w).getLsbD 0,
    sampled := { fmta := f.lv.fmta, fmtb := f.lv.fmtb, fmtc := f.lv.fmtc, scla := f.lv.scla, sclb := f.lv.sclb, rmode := f.lv.rmode,
                 fpen := f.lv.fpen },
    hdr := OpHeader.none, acb := f.acb, arows := f.arows, fsb := f.fsb, fscr := f.fscr, succ := f.pending, started := false, unit := 0, pos := 0,
    outPos := 0, units := 0, buf := [], ended := false, finished := false,
    srst := if drawsStochastic op f w then some f.lv.srst else none, fl := flNone, fault := none, after := s.unperformed s.cur, undoBytes := [],
    undoRows := [], undoWords := [], accepted := 0 }

/-- The running frame after the dispatch of a job. -/
def Frame.afterJob (f : Frame) (op : Op) (w : Bundle) : Frame :=
  { f with
    pc := nextPc f w, pending := none, lv := { f.lv with tlc := f.lv.tlc + 1 },
    usedPlanes := f.usedPlanes || (f.predicate w).getLsbD 0 && (op == .mstat || op == .mswap) }

section
variable {s : State} {op : Op} {w : Bundle} {f : Frame} (running : s.running = some f)
include running

/-- The running frame gives up the descriptor that it holds. -/
theorem takePending_running :
    s.takePending s.cur = (f.pending, s.modTop s.cur (fun g => { g with pending := none })) := by
  have top : s.top s.cur = some f := by rw [State.top, running_frames running]; rfl
  simp only [State.takePending, top]

/-- With room in its level, and the stochastic state free where it draws from that, a job is dispatched (R161, R169). -/
theorem dispatchJob_ready (room : f.lv.tlc < 64) (stoch : drawsStochastic op f w = true → s.srstBusy s.cur f = false) :
    s.dispatchJob (readyCtx s op w f) =
      ((s.withRunningCore (fun c => c.dispatchEntry f.level f.pc) (f.afterJob op w)).fresh.2).setJobs s.cur f.level
          (s.jobsOf s.cur f.level ++ [jobOf s f op w]) := by
  have goes : (decide (64 ≤ f.lv.tlc) || (drawsStochastic op f w && s.srstBusy s.cur f)) = false := by simpa [room] using stoch
  have pending : s.takePending (readyCtx s op w f).core = _ := takePending_running running
  simp only [State.dispatchJob, pending]
  split
  case isTrue full => exact absurd full (Bool.eq_false_iff.mp goes)
  case isFalse =>
    simp only [State.modTop, State.advance, State.goTo, readyCtx, modCore_fresh, modCore_setJobs, modCore_modCore_same, core_fresh,
      modCore_core_same]
    rw [modCore_withRunningCore (h := fun c => c.dispatchEntry f.level f.pc) (f := f.afterJob op w)]
    · rfl
    · rw [running_frames running]
      rfl

theorem dispatchJob_jobDispatched (room : f.lv.tlc < 64) (stoch : drawsStochastic op f w = true → s.srstBusy s.cur f = false) :
    jobDispatched s f op w (.next (s.dispatchJob (readyCtx s op w f))) := by
  rw [dispatchJob_ready running room stoch]
  refine ⟨_, jobOf s f op w, rfl, jobsOf_setJobs_same _ _ _ _, rfl, rfl, rfl, rfl, rfl, rfl, rfl, rfl, rfl, rfl, rfl, rfl, rfl, rfl,
    ?cseq, ?cpring, ?frames, ?others, ?acc, ?array, rfl, rfl⟩
  case cseq => rw [core_setJobs, core_fresh, withRunningCore_core]; rfl
  case cpring => rw [core_setJobs, core_fresh, withRunningCore_core]; rfl
  case frames => rw [core_setJobs, core_fresh, withRunningCore_core]; exact ⟨_, rfl⟩
  case others => exact fun u other => setJobs_tile_other _ _ _ other
  case acc => rw [setJobs_tile_same]; rfl
  case array => rw [setJobs_tile_same]; rfl

end

/-- A job is dispatched whatever its predicate. -/
theorem jobBundle_jobDispatched {s : State} {op : Op} {w : Bundle} {f : Frame} (job : isJob op = true) (quiet : givesResult op = false)
    (ready : Ready s op w f) (room : f.lv.tlc < 64) (stoch : drawsStochastic op f w = true → s.srstBusy s.cur f = false) :
    jobDispatched s f op w (jobBundle op w s) := by
  rw [jobBundle, bundle_ready ready (.inr (.inl job)), beforeResult_none quiet]
  exact dispatchJob_jobDispatched ready.1 room stoch

/-- What a ready `rstreamch` does with a channel that is bound (R190, 01 R31). -/
theorem rstreamch_ready {s : State} {w : Bundle} {f : Frame} {ch : Chan} (ready : Ready s .rstreamch w f)
    (bound : kget (s.core s.cur).chans (fieldB w) = some ch) :
    exec (.rstreamch w) s = .next
      (if ch.level = f.level then
        if s.chanBusy s.cur f (fieldB w) || f.chanQueued (fieldB w) then s else s.dispatchJob (readyCtx s .rstreamch w f)
      else s.exact s.cur .perm 0#64) := by
  have fault : s.chanFault s.cur f.level (fieldB w) = if ch.level = f.level then none else some .perm := by
    simp only [State.chanFault, bound]
  refine (bundle_ready ready (.inr (.inl rfl))).trans (congrArg _ ?_)
  rw [beforeResult_none rfl]
  by_cases level : ch.level = f.level
  · simp only [readyCtx, fault, if_pos level]
    rfl
  · simp only [readyCtx, fault, if_neg level]
    rfl

theorem matrixJobsAreDispatched : MatrixJobsAreDispatched := by
  refine ⟨fun row hrow w s f ready room stoch => ?rows,
    fun w s f ch ready room bound => ⟨fun level idle unqueued => ?same, fun level => ?other⟩⟩
  case rows =>
    obtain ⟨job, quiet⟩ := isJob_of_matrixJobs row hrow
    rw [exec_of_matrixJobs row hrow]
    exact jobBundle_jobDispatched job quiet ready room fun draws =>
      let ⟨active, stochastic⟩ := Bool.and_eq_true_iff.mp draws
      stoch active stochastic
  case same =>
    rw [rstreamch_ready ready bound, if_pos level, idle, unqueued]
    exact dispatchJob_jobDispatched ready.1 room (by simp [drawsStochastic, jobStochastic])
  case other => rw [rstreamch_ready ready bound, if_neg level]; rfl

/-! `mtest`. -/

section
variable {c : Core} {level seq : Nat}

theorem ringStatus_of_absent (absent : c.cpring.find? (fun e => e.seq == seq) = none) : ringStatus c level seq = 3 := by
  rw [ringStatus, absent]

theorem ringStatus_of_entry {e : CpEntry} (held : c.cpring.find? (fun e => e.seq == seq) = some e) :
    ringStatus c level seq = if e.lvl ≠ level then 3 else if e.flt || e.disc then 2 else if e.done then 1 else 0 := by
  rw [ringStatus, held]

end

/-- What has been read ahead is forgotten before the number is looked up, and the ring stays as it was (10 R298). -/
theorem mtest_ready {s : State} {w : Bundle} {f : Frame} (ready : Ready s .mtest w f) (enabled : Enabled f w) :
    exec (.mtest w) s = .next ((s.acquiredAt s.cur 0 s.nextId).withResult f w (fieldA w)
      (BitVec.ofNat 64 (ringStatus (s.core s.cur) f.level ((f.xGet (fieldB w)).toNat % 65536)))) := by
  have running : (s.acquiredAt s.cur 0 s.nextId).running = some f := ready.1
  exact (bundle_ready ready (.inr (.inr enabled))).trans (congrArg _ (writeX_ready running (fieldA w) _))

theorem mtestReadsTheRing : MtestReadsTheRing := by
  intro w s f ready enabled
  refine ⟨_, mtest_ready ready enabled, fun absent => ?absent, fun e held => ?held⟩
  case absent => rw [ringStatus_of_absent absent]
  case held =>
    rw [ringStatus_of_entry held]
    refine ⟨fun other => ?_, fun same bad => ?_, fun same noFault kept => ?_⟩
    · rw [if_pos other]
    · rw [if_neg (not_not_intro same), if_pos (by simpa using bad)]
    · rw [if_neg (not_not_intro same), noFault, kept]
      cases e.done <;> rfl

/-- Settles O35, from the state after a job's dispatch and what `mtest` finds in the ring. -/
theorem matrixJobsDispatchAndTest : Obligations.MatrixJobsDispatchAndTest := ⟨matrixJobsAreDispatched, mtestReadsTheRing⟩

end Sys2Proof.Machine
end


section
/-! Matrix and rank jobs: start, units and completion (06 R162, R163, R169 to R171, R175, R181; 05 R137; 07 R207). -/

namespace Sys2Proof.Machine

open Sys2Proof.Claims

/-! Tiles and their queues. -/

theorem tileOf_core {tile i : Nat} (h : i < 8) : tileOf (8 * tile + i) = tile := by
  unfold tileOf
  omega

theorem tile_of_tiles {s t : State} (u : Nat) (tiles : t.tiles = s.tiles) : t.tile u = s.tile u := by
  rw [State.tile, tiles]
  rfl

theorem jobsOf_of_tiles {s t : State} (core level : Nat) (tiles : t.tiles = s.tiles) : t.jobsOf core level = s.jobsOf core level := by
  rw [State.jobsOf, tile_of_tiles _ tiles]
  rfl

/-! Start. -/

section
variable {s : State} {core level : Nat} {j : Job} {rest : List Job}

theorem matrixJobStart_eq (jobs : s.jobsOf core level = j :: rest) (moves : s.stilled core = false) (fresh : j.started = false)
    (unfinished : j.finished = false) :
    exec (.matrixJobStart core level) s = .next (s.setJobs core level (s.startJob core j :: rest)) := by
  show execMatrixJobStart core level s = _
  simp only [execMatrixJobStart, jobs, moves, fresh, unfinished]
  rfl

theorem startJob_inactive (off : j.active = false) : s.startJob core j = { j with started := true, finished := true } := by
  simp only [State.startJob, off]
  rfl

theorem startJob_ok {j' : Job} (on : j.active = true)
    (passes : (if hasHeader j.op then s.startHeader core j else s.startPlain core j) = .ok j') : s.startJob core j = j' := by
  simp only [State.startJob, on, passes]
  rfl

theorem startJob_error {e : Cause × Word} (on : j.active = true)
    (faults : (if hasHeader j.op then s.startHeader core j else s.startPlain core j) = .error e) :
    s.startJob core j = { j with fault := some e, finished := true } := by
  simp only [State.startJob, on, faults]
  rfl

end

theorem matrixJobsStart : MatrixJobsStart := by
  intro core level s j rest jobs moves fresh unfinished
  rw [matrixJobStart_eq jobs moves fresh unfinished]
  exact ⟨fun off => by rw [startJob_inactive off], fun on j' passes => by rw [startJob_ok on passes],
    fun on e faults => by rw [startJob_error on faults]⟩

/-! The end of a turn changes nothing but how much of it has been used. -/

section
variable (s : State) (tile : Nat)

theorem endTurn_eq : s.endTurn tile =
    if (s.tile tile).turnUsed < 16 ∧ s.coreRunnable (8 * tile + (s.tile tile).turnCore) = false then
      s.modTile tile (fun t => { t with turnUsed := 16 })
    else s := rfl

theorem endTurn_tile_other {u : Nat} (other : u ≠ tile) : (s.endTurn tile).tile u = s.tile u := by
  rw [endTurn_eq]
  split
  · exact modTile_tile_other _ _ other
  · rfl

theorem endTurn_tile (u : Nat) : ∃ used, (s.endTurn tile).tile u = { s.tile u with turnUsed := used } := by
  by_cases same : u = tile
  · rw [endTurn_eq, same]
    split
    · exact ⟨16, modTile_tile_same _ _ _⟩
    · exact ⟨_, rfl⟩
  · exact ⟨_, endTurn_tile_other s tile same⟩

@[simp] theorem endTurn_acc (u : Nat) : ((s.endTurn tile).tile u).acc = (s.tile u).acc := by
  obtain ⟨_, same⟩ := endTurn_tile s tile u
  rw [same]

@[simp] theorem endTurn_array (u : Nat) : ((s.endTurn tile).tile u).array = (s.tile u).array := by
  obtain ⟨_, same⟩ := endTurn_tile s tile u
  rw [same]

@[simp] theorem endTurn_planes (u : Nat) : ((s.endTurn tile).tile u).planes = (s.tile u).planes := by
  obtain ⟨_, same⟩ := endTurn_tile s tile u
  rw [same]

@[simp] theorem endTurn_jobsOf (core level : Nat) : (s.endTurn tile).jobsOf core level = s.jobsOf core level := by
  obtain ⟨_, same⟩ := endTurn_tile s tile (tileOf core)
  rw [State.jobsOf, same]
  rfl

@[simp] theorem endTurn_cores : (s.endTurn tile).cores = s.cores := by rw [endTurn_eq]; split <;> rfl
@[simp] theorem endTurn_dram : (s.endTurn tile).dram = s.dram := by rw [endTurn_eq]; split <;> rfl
@[simp] theorem endTurn_ops : (s.endTurn tile).ops = s.ops := by rw [endTurn_eq]; split <;> rfl
@[simp] theorem endTurn_msgs : (s.endTurn tile).msgs = s.msgs := by rw [endTurn_eq]; split <;> rfl

end

/-! The release of a successor (07 R207): it is a message, and changes neither a core nor a tile. -/

section
variable (s : State) (router : Nat) (m : Msg) (n pref : Nat)

theorem inject_rest : (s.inject router m n pref).cores = s.cores ∧ (s.inject router m n pref).tiles = s.tiles ∧
    (s.inject router m n pref).dram = s.dram ∧ (s.inject router m n pref).ops = s.ops := by
  simp only [State.inject]
  split <;> exact ⟨rfl, rfl, rfl, rfl⟩

/-- The message stands under the next name, numbered within its pair when it is ordered (R324). -/
theorem inject_msgs : ∃ nm seq, kget (s.inject router m n pref).msgs s.nextId = some nm ∧ nm.msg = { m with pseq := seq } := by
  simp only [State.inject]
  split
  · exact ⟨_, _, kget_kset_same _ _ _, rfl⟩
  · exact ⟨_, m.pseq, kget_kset_same _ _ _, rfl⟩

end

theorem release_rest (s : State) (core ltag : Nat) (item : Word) (d : Descr) (after : List Nat) :
    (s.release core ltag item d after).cores = s.cores ∧ (s.release core ltag item d after).tiles = s.tiles ∧
      (s.release core ltag item d after).dram = s.dram ∧ (s.release core ltag item d after).ops = s.ops := inject_rest _ _ _ _ _

theorem release_eventMessage (s : State) (core ltag : Nat) (item : Word) (d : Descr) (after : List Nat) :
    eventMessage (s.release core ltag item d after) s.nextId d item ltag after := by
  obtain ⟨nm, seq, held, msg⟩ := inject_msgs s (sourceRouter core d.target.core) _ 1 (s.prefOf core 0)
  refine ⟨nm, held, ?_⟩
  rw [msg]
  exact ⟨rfl, rfl, rfl, rfl, rfl, rfl, rfl, rfl, rfl, rfl, rfl⟩

/-! The frame of a task. -/

theorem frameOf_task {s : State} {k task : Nat} {f : Frame} (h : s.frameOf k task = some f) : f.task = task := by
  simpa using List.find?_some h

theorem frameOf_of_frames {s t : State} {k : Nat} (task : Nat) (frames : (t.core k).frames = (s.core k).frames) :
    t.frameOf k task = s.frameOf k task := by rw [State.frameOf, frames]; rfl

theorem frameOf_of_cores {s t : State} (k task : Nat) (cores : t.cores = s.cores) : t.frameOf k task = s.frameOf k task :=
  frameOf_of_frames task (by rw [State.core, cores]; rfl)

theorem frameOf_modCore (s : State) (k j task : Nat) {g : Core → Core} (keep : ∀ c, (g c).frames = c.frames) :
    (s.modCore j g).frameOf k task = s.frameOf k task := frameOf_of_frames task ((SameFrames.modCore s j keep).2 k)

section
variable (s : State) {g : Frame → Frame} (keep : ∀ f, (g f).task = f.task)
include keep

theorem frameOf_modTask (k task n : Nat) :
    (s.modTask k n g).frameOf k task = (s.frameOf k task).map (fun f => if f.task = n then g f else f) := by
  have sameTask : (fun f : Frame => f.task == task) ∘ (fun f => if f.task = n then g f else f) = fun f => f.task == task := by
    funext f
    simp only [Function.comp]
    split
    · rw [keep]
    · rfl
  rw [State.frameOf, State.modTask, modCore_core_same, List.find?_map, sameTask, State.frameOf]

theorem frameOf_modTask_same {k task : Nat} {f : Frame} (h : s.frameOf k task = some f) :
    (s.modTask k task g).frameOf k task = some (g f) := by
  rw [frameOf_modTask s keep, h, Option.map_some, if_pos (frameOf_task h)]

end

theorem frameOf_modTask_other (s : State) (g : Frame → Frame) {k j : Nat} (task n : Nat) (other : j ≠ k) :
    (s.modTask k n g).frameOf j task = s.frameOf j task := frameOf_of_frames task (by rw [State.modTask, modCore_core_other s _ other])

/-! Completion without a fault and without a flag (R171, R173). -/

/-- A frame with one job fewer under way (01 R42). -/
def Frame.oneJobFewer (f : Frame) : Frame := f.modLv (fun l => { l with tlc := l.tlc - 1 })

/-- The flags and the stochastic state of a job reach its frame (R173). -/
def Job.settle (j : Job) (f : Frame) : Frame := (f.orFlags j.fl).modLv (fun l => match j.srst with | some v => { l with srst := v } | none => l)

/-- The successor of a job released. -/
def State.releaseSuccessor (s : State) (core : Nat) (j : Job) : State :=
  match j.succ with
  | some d => s.release core j.ltag j.item d j.after
  | none => s

theorem releaseSuccessor_rest (s : State) (core : Nat) (j : Job) :
    (s.releaseSuccessor core j).cores = s.cores ∧ (s.releaseSuccessor core j).tiles = s.tiles ∧ (s.releaseSuccessor core j).dram = s.dram ∧
      (s.releaseSuccessor core j).ops = s.ops := by
  unfold State.releaseSuccessor
  split
  · exact release_rest _ _ _ _ _ _
  · exact ⟨rfl, rfl, rfl, rfl⟩

/-- The state in which a job has left its queue, its level and the ring. -/
def State.jobGone (s : State) (core level : Nat) (j : Job) (rest : List Job) : State :=
  (((s.setJobs core level rest).modTask core j.task Frame.oneJobFewer).modTask core j.task j.settle).modCore core
    (fun c => c.markRing j.seq (fun e => { e with done := true }))

section
variable {s : State} {core level : Nat} {j : Job} {rest : List Job} (noFault : j.fault = none) (noFlag : j.fl = flNone)
include noFault noFlag

theorem completeJob_quiet : s.completeJob core level j rest = (s.jobGone core level j rest).releaseSuccessor core j := by
  have nothing : (j.fl != flNone && s.vecPartial core j) = false := by simp [noFlag]
  have disabled : enables j.sampled.fpen j.fl = false := by simp [enables, noFlag, flNone]
  simp only [State.completeJob, noFault, nothing, State.jobDone, disabled]
  rfl

theorem completeJob_tiles : (s.completeJob core level j rest).tiles = (s.setJobs core level rest).tiles := by
  rw [completeJob_quiet noFault noFlag, (releaseSuccessor_rest _ _ _).2.1]
  rfl

theorem completeJob_dram : (s.completeJob core level j rest).dram = s.dram := by
  rw [completeJob_quiet noFault noFlag, (releaseSuccessor_rest _ _ _).2.2.1, State.jobGone, modCore_dram, modTask_dram, modTask_dram]
  rfl

end

/-- The frame of a job that is gone keeps its registers. -/
theorem jobGone_frameOf {s : State} {core : Nat} {j : Job} {f : Frame} (level : Nat) (rest : List Job) (h : s.frameOf core j.task = some f) :
    (s.jobGone core level j rest).frameOf core j.task = some (j.settle f.oneJobFewer) := by
  have queued : (s.setJobs core level rest).frameOf core j.task = some f := h
  have fewer := frameOf_modTask_same _ (g := Frame.oneJobFewer) (fun _ => rfl) queued
  rw [State.jobGone, frameOf_modCore]
  · exact frameOf_modTask_same _ (g := j.settle) (fun _ => rfl) fewer
  · exact fun _ => rfl

theorem jobGone_cpring (s : State) (core level : Nat) (j : Job) (rest : List Job) :
    ((s.jobGone core level j rest).core core).cpring =
      (s.core core).cpring.map (fun e => if e.seq = j.seq then { e with done := true } else e) := by
  rw [State.jobGone, modCore_core_same, State.modTask, modCore_core_same, State.modTask, modCore_core_same]
  rfl

theorem matrixJobCompletion_eq {s : State} {core level : Nat} {j : Job} {rest : List Job} (jobs : s.jobsOf core level = j :: rest)
    (finished : j.finished = true) :
    exec (.matrixJobCompletion core level) s = .next ((s.completeJob core level j rest).endTurn (tileOf core)) := by
  show execMatrixJobCompletion core level s = _
  simp only [execMatrixJobCompletion, jobs, finished]
  rfl

/-! A late fault (05 R137; 06 R171): what is discarded with it leaves the registers of the frame. -/

/-- DRAM is the same, and the frame of a task still has its program counter and its scalar and vector registers. -/
def KeepsRegisters (core task : Nat) (s t : State) : Prop :=
  t.dram = s.dram ∧ ∀ f, s.frameOf core task = some f → ∃ g, t.frameOf core task = some g ∧ g.x = f.x ∧ g.v = f.v ∧ g.pc = f.pc

namespace KeepsRegisters

variable {core task : Nat}

theorem refl (s : State) : KeepsRegisters core task s s := ⟨rfl, fun f h => ⟨f, h, rfl, rfl, rfl⟩⟩

theorem trans {s t u : State} (h : KeepsRegisters core task s t) (g : KeepsRegisters core task t u) : KeepsRegisters core task s u := by
  refine ⟨g.1.trans h.1, fun f frame => ?_⟩
  obtain ⟨f', frame', x', v', pc'⟩ := h.2 f frame
  obtain ⟨f'', frame'', x'', v'', pc''⟩ := g.2 f' frame'
  exact ⟨f'', frame'', x''.trans x', v''.trans v', pc''.trans pc'⟩

theorem ite {s t u : State} {p : Prop} [Decidable p] (h : KeepsRegisters core task s t) (g : KeepsRegisters core task s u) :
    KeepsRegisters core task s (if p then t else u) := by
  split
  · exact h
  · exact g

theorem foldl {α : Type} {f : State → α → State} (h : ∀ s a, KeepsRegisters core task s (f s a)) (l : List α) (s : State) :
    KeepsRegisters core task s (l.foldl f s) := by
  induction l generalizing s with
  | nil => exact .refl s
  | cons a l ih => exact (h s a).trans (ih _)

theorem of_cores {s t : State} (dram : t.dram = s.dram) (cores : t.cores = s.cores) : KeepsRegisters core task s t :=
  ⟨dram, fun f frame => ⟨f, (frameOf_of_cores core task cores).trans frame, rfl, rfl, rfl⟩⟩

theorem modCore (s : State) (k : Nat) {g : Core → Core} (keep : ∀ c, (g c).frames = c.frames) :
    KeepsRegisters core task s (s.modCore k g) :=
  ⟨rfl, fun f frame => ⟨f, (frameOf_modCore s core k task keep).trans frame, rfl, rfl, rfl⟩⟩

theorem modTile (s : State) (k : Nat) (g : Tile → Tile) : KeepsRegisters core task s (s.modTile k g) := .of_cores rfl rfl

theorem modTask (s : State) (k n : Nat) {g : Frame → Frame}
    (keep : ∀ f, (g f).task = f.task ∧ (g f).x = f.x ∧ (g f).v = f.v ∧ (g f).pc = f.pc) :
    KeepsRegisters core task s (s.modTask k n g) := by
  refine ⟨rfl, fun f frame => ?_⟩
  by_cases same : core = k
  · subst same
    refine ⟨_, by rw [frameOf_modTask s (fun f => (keep f).1), frame]; rfl, ?_⟩
    dsimp only
    split
    · exact (keep f).2
    · exact ⟨rfl, rfl, rfl⟩
  · exact ⟨f, (frameOf_modTask_other s g task n same).trans frame, rfl, rfl, rfl⟩

theorem lowerFor (s : State) (o : MemOp) : KeepsRegisters core task s (s.lowerFor o) := by
  refine modTask s _ _ fun f => ?_
  exact ⟨rfl, rfl, rfl, rfl⟩

theorem cancelOp (s : State) (id : Nat) : KeepsRegisters core task s (s.cancelOp id) := by
  unfold State.cancelOp
  split
  · exact (lowerFor s _).trans (.of_cores rfl rfl)
  · exact .refl s

theorem cancelEntry (s : State) (e : VEntry) :
    KeepsRegisters core task s (match e.op with | some id => s.cancelOp id | none => s) := by
  split
  · exact cancelOp s _
  · exact .refl s

theorem undoJob (s : State) (k : Nat) (j : Job) : KeepsRegisters core task s (s.undoJob k j) := by
  refine (modTile s _ _).trans (modCore _ _ fun c => ?_)
  split
  · split <;> rfl
  · rfl

end KeepsRegisters

/-- Marking bundles in the ring leaves the frames of the core. -/
theorem markRing_foldl_frames (l : List Nat) (g : CpEntry → CpEntry) (c : Core) :
    (l.foldl (fun c q => c.markRing q g) c).frames = c.frames := by
  induction l generalizing c with
  | nil => rfl
  | cons q l ih => exact ih _

theorem flushLater_keepsRegisters (s : State) (core level task stamp : Nat) : KeepsRegisters core task s (s.flushLater core level task stamp) := by
  unfold State.flushLater
  dsimp only
  refine .trans (.trans ?discarded (.modTask _ _ _ ?levels)) (.modCore _ _ ?marks)
  case discarded =>
    refine .ite (.foldl .cancelEntry _ _) ?_
    exact ((KeepsRegisters.foldl .cancelEntry _ _).trans (.foldl (fun t j => .undoJob t core j) _ _)).trans (.modTile _ _ _)
  case levels => exact fun f => ⟨rfl, rfl, rfl, rfl⟩
  case marks => exact fun c => markRing_foldl_frames _ _ c

/-- A late fault of a job stands with its frame (R171). -/
theorem noteLate_late {s : State} {core task : Nat} {f : Frame} (level seq : Nat) (l : LateFault) (frame : s.frameOf core task = some f) :
    ∃ g, (s.noteLate core level task seq l).frameOf core task = some g ∧ l ∈ g.late ∧ g.x = f.x ∧ g.v = f.v ∧ g.pc = f.pc := by
  obtain ⟨-, kept⟩ := flushLater_keepsRegisters s core level task l.stamp
  obtain ⟨g, frame', x, v, pc⟩ := kept f frame
  refine ⟨{ g with late := g.late ++ [l] }, ?_, by simp, x, v, pc⟩
  have noted := frameOf_modTask_same _ (g := fun f => { f with late := f.late ++ [l] }) (fun _ => rfl) frame'
  rw [State.noteLate, frameOf_modCore]
  · exact noted
  · exact fun _ => rfl

theorem noteLate_dram (s : State) (core level task seq : Nat) (l : LateFault) : (s.noteLate core level task seq l).dram = s.dram := by
  rw [State.noteLate, modCore_dram, modTask_dram]
  exact (flushLater_keepsRegisters s core level task l.stamp).1

/-! Completion with a fault (R171). -/

section
variable {s : State} {core level : Nat} {j : Job} {rest : List Job} {c : Cause} {a : Word} (fault : j.fault = some (c, a))
include fault

theorem completeJob_waits (waits : s.vecPartial core j = true) : s.completeJob core level j rest = s := by
  simp only [State.completeJob, fault, waits, if_true]

theorem completeJob_faults {f : Frame} (free : s.vecPartial core j = false) (frame : s.frameOf core j.task = some f) :
    s.completeJob core level j rest =
      ((s.setJobs core level rest).modTask core j.task Frame.oneJobFewer).noteLate core level j.task j.seq (j.late c a) := by
  have stays := frameOf_modTask_same (s.setJobs core level rest) (g := Frame.oneJobFewer) (fun _ => rfl) frame
  have onStack : (((s.setJobs core level rest).modTask core j.task Frame.oneJobFewer).frameOf core j.task).isSome = true := by rw [stays]; rfl
  simp only [State.completeJob, fault, free, Bool.false_eq_true, if_false]
  exact if_pos onStack

end

theorem matrixJobsComplete : MatrixJobsComplete := by
  intro core level s j rest f jobs finished frame
  rw [matrixJobCompletion_eq jobs finished]
  refine ⟨fun noFault noFlag noSrst => ?done, fun c a fault => ⟨fun waits => ?waits, fun free => ?faults⟩⟩
  case done =>
    have quiet := completeJob_quiet (s := s) (core := core) (level := level) (rest := rest) noFault noFlag
    obtain ⟨cores, -, -, ops⟩ := releaseSuccessor_rest (s.jobGone core level j rest) core j
    rw [← quiet] at cores ops
    refine ⟨_, j.settle f.oneJobFewer, rfl, ?queue, ?frame, ?tlc, rfl, rfl, rfl, ?ring, fun d held => ?event, fun empty => ?silent, ?dram, ?ops⟩
    case queue => rw [endTurn_jobsOf, jobsOf_of_tiles core level (completeJob_tiles noFault noFlag), jobsOf_setJobs_same]
    case frame => rw [frameOf_of_cores core j.task ((endTurn_cores _ _).trans cores), jobGone_frameOf level rest frame]
    case tlc => simp only [Job.settle, noSrst]; rfl
    case ring => rw [State.core, endTurn_cores, cores, ← State.core, jobGone_cpring]
    case event =>
      rw [eventMessage, endTurn_msgs, quiet, State.releaseSuccessor, held]
      exact release_eventMessage (s.jobGone core level j rest) core j.ltag j.item d j.after
    case silent => rw [endTurn_msgs, quiet, State.releaseSuccessor, empty]; rfl
    case dram => rw [endTurn_dram, completeJob_dram noFault noFlag]
    case ops => rw [endTurn_ops, ops]; rfl
  case waits => rw [completeJob_waits fault waits]
  case faults =>
    have stays := frameOf_modTask_same (s.setJobs core level rest) (g := Frame.oneJobFewer) (fun _ => rfl) frame
    obtain ⟨g, noted, late, x, v, pc⟩ := noteLate_late level j.seq (j.late c a) stays
    rw [completeJob_faults fault free frame]
    refine ⟨_, g, rfl, (frameOf_of_cores core j.task (endTurn_cores _ _)).trans noted, late, x, v, pc, ?_⟩
    rw [endTurn_dram, noteLate_dram, modTask_dram]
    rfl

/-! Units of work (R162, R163). -/

/-- The elements of the accumulator that a write of consecutive ones changes. -/
theorem kgetD_setAcc (t : Tile) (start : Nat) (l : List Nat) (k : Nat) :
    kgetD (setAcc t start l).acc k 0#32 =
      if start ≤ k ∧ k < start + l.length then BitVec.ofNat 32 (l.getD (k - start) 0) else kgetD t.acc k 0#32 := by
  have upTo (n : Nat) : kgetD ((List.range n).foldl (fun m i => kset m (start + i) (BitVec.ofNat 32 (l.getD i 0))) t.acc) k 0#32 =
      if start ≤ k ∧ k < start + n then BitVec.ofNat 32 (l.getD (k - start) 0) else kgetD t.acc k 0#32 := by
    induction n with
    | zero => rw [if_neg (by omega)]; rfl
    | succ n ih =>
      rw [List.range_succ, List.foldl_append, List.foldl_cons, List.foldl_nil]
      by_cases last : k = start + n
      · rw [last, kgetD_kset_same, if_pos (by omega), Nat.add_sub_cancel_left]
      · have sameRange : (start ≤ k ∧ k < start + n) = (start ≤ k ∧ k < start + (n + 1)) := propext (by omega)
        rw [kgetD_kset_other _ _ _ last, ih]
        exact ite_congr sameRange (fun _ => rfl) (fun _ => rfl)
  exact upTo l.length

theorem matrixUnit_eq {s : State} {tile i level used : Nat} {j : Job} {rest : List Job} (moves : s.stilled (8 * tile) = false)
    (turn : s.engineTurn tile = some (i, level, used)) (jobs : s.jobsOf (8 * tile + i) level = j :: rest) (unfinished : j.finished = false) :
    exec (.matrixUnit tile) s = .next
      (((s.serveJob (8 * tile + i) level j rest).1.modTile tile (fun t =>
        { t with turnCore := i, turnUsed := used + (s.serveJob (8 * tile + i) level j rest).2 })).endTurn tile) := by
  show execMatrixUnit tile s = _
  simp only [execMatrixUnit, moves, turn, jobs, unfinished, Bool.false_eq_true, if_false]
  rfl

section
variable (s : State) (core level : Nat) (j : Job) (rest : List Job)

theorem jobUnit_fst : (s.jobUnit core level j).1 = (s.unitWork core level j).1 := by
  unfold State.jobUnit
  dsimp only
  split <;> rfl

/-- What a unit leaves of its job, but for what it keeps in mind (05 R137). -/
theorem jobUnit_snd : ∃ bytes rows, (s.jobUnit core level j).2 = { (s.unitWork core level j).2 with undoBytes := bytes, undoRows := rows } := by
  unfold State.jobUnit
  dsimp only
  split <;> exact ⟨_, _, rfl⟩

variable {j}

/-- The state that the service of a started job leaves: a unit that is a whole job completes with it (R163). -/
theorem serveJob_fst (started : j.started = true) :
    (s.serveJob core level j rest).1 =
      if j.op == .mstat || j.op == .mswap || j.op == .rtab then
        ((s.unitWork core level j).1.setJobs core level ((s.jobUnit core level j).2 :: rest)).completeJob core level
          (s.jobUnit core level j).2 rest
      else (s.unitWork core level j).1.setJobs core level ((s.jobUnit core level j).2 :: rest) := by
  rw [← jobUnit_fst]
  simp only [State.serveJob, started]
  rfl

end

/-- The planes of a core exchanged, as a change of its tile (R175). -/
def State.swapped (s : State) (core : Nat) (t : Tile) : Tile :=
  { t with planes := kset (kset t.planes (2 * core) (s.shadowPlane core)) (2 * core + 1) (s.activePlane core) }

section
variable {s : State} {core : Nat} {j : Job}

theorem unitWork_mswap (level : Nat) (op : j.op = .mswap) :
    s.unitWork core level j = (s.modTile (tileOf core) (s.swapped core), j.next flNone) := by
  simp only [State.unitWork, op]
  rfl

/-- Where the row of a unit starts in the accumulator (R180). -/
def Job.rowStart (j : Job) : Nat := 64 * (j.acb + j.xa.toNat + j.rowWidth * j.unit)

/-- That row cleared (R181). -/
def Job.zeroRow (j : Job) (t : Tile) : Tile := setAcc t j.rowStart (List.replicate (64 * j.rowWidth) 0)

theorem kgetD_zeroRow (j : Job) (t : Tile) (k : Nat) :
    kgetD (j.zeroRow t).acc k 0#32 = if j.rowStart ≤ k ∧ k < j.rowStart + 64 * j.rowWidth then 0#32 else kgetD t.acc k 0#32 := by
  rw [Job.zeroRow, kgetD_setAcc, List.length_replicate]
  refine ite_congr rfl (fun inRow => ?_) (fun _ => rfl)
  rw [List.getD_eq_getElem?_getD, List.getElem?_replicate, if_pos (by omega)]
  rfl

theorem unitWork_mzero (level : Nat) (op : j.op = .mzero) :
    s.unitWork core level j = (s.modTile (tileOf core) j.zeroRow, j.next flNone) := by
  simp only [State.unitWork, State.unitRow, op]
  rfl

/-- A swap is a whole job, and completes with its unit. -/
theorem serveJob_mswap {level : Nat} {rest : List Job} (started : j.started = true) (op : j.op = .mswap) (noFault : j.fault = none)
    (noFlag : j.fl = flNone) :
    (s.serveJob core level j rest).1.tile (tileOf core) =
        { s.swapped core (s.tile (tileOf core)) with queues := kset (s.tile (tileOf core)).queues (queueKey core level) rest } ∧
      (∀ u, u ≠ tileOf core → (s.serveJob core level j rest).1.tile u = s.tile u) ∧ (s.serveJob core level j rest).1.dram = s.dram := by
  obtain ⟨bytes, rows, job⟩ := jobUnit_snd s core level j
  have unit := unitWork_mswap (s := s) (core := core) level op
  rw [unit] at job
  have fault : (s.jobUnit core level j).2.fault = none := by rw [job]; exact noFault
  have flag : (s.jobUnit core level j).2.fl = flNone := by rw [job]; simp [Job.next, noFlag, flNone]
  rw [serveJob_fst s core level rest started, if_pos (by simp [op]), unit]
  refine ⟨?here, fun u other => ?there, completeJob_dram fault flag⟩
  case here =>
    rw [tile_of_tiles _ (completeJob_tiles fault flag), setJobs_tile_same, setJobs_tile_same, modTile_tile_same, kset_kset_same]
    rfl
  case there =>
    rw [tile_of_tiles _ (completeJob_tiles fault flag), setJobs_tile_other _ _ _ other, setJobs_tile_other _ _ _ other,
      modTile_tile_other _ _ other]

theorem serveJob_mzero {level : Nat} {rest : List Job} (started : j.started = true) (op : j.op = .mzero) :
    ∃ k, (s.serveJob core level j rest).1 = (s.modTile (tileOf core) j.zeroRow).setJobs core level (k :: rest) ∧
      k.unit = j.unit + 1 ∧ k.finished = decide (j.units ≤ j.unit + 1) := by
  obtain ⟨bytes, rows, job⟩ := jobUnit_snd s core level j
  have unit := unitWork_mzero (s := s) (core := core) level op
  rw [unit] at job
  rw [serveJob_fst s core level rest started, if_neg (by simp [op]), unit]
  exact ⟨_, rfl, by rw [job]; rfl, by rw [job]; rfl⟩

end

theorem matrixUnitsActOnTheirStorage : MatrixUnitsActOnTheirStorage := by
  intro tile s i level used j rest moves turn lane jobs started unfinished
  have place := tileOf_core (tile := tile) lane
  rw [matrixUnit_eq moves turn jobs unfinished]
  generalize 8 * tile + i = core at place ⊢
  subst place
  refine ⟨fun op noFault noFlag => ?swap, fun op => ?zero⟩
  case swap =>
    obtain ⟨here, there, dram⟩ := serveJob_mswap (s := s) (core := core) (level := level) (rest := rest) started op noFault noFlag
    refine ⟨_, rfl, ?active, ?shadow, ?queue, ?acc, ?array, fun u other => ?others, ?dram⟩
    case active =>
      rw [State.activePlane, endTurn_planes, modTile_tile_same, here]
      exact (kgetD_kset_other _ _ _ (by omega)).trans (kgetD_kset_same _ _ _ _)
    case shadow =>
      rw [State.shadowPlane, endTurn_planes, modTile_tile_same, here]
      exact kgetD_kset_same _ _ _ _
    case queue =>
      rw [endTurn_jobsOf, State.jobsOf, modTile_tile_same, here]
      exact kgetD_kset_same _ _ _ _
    case acc => rw [endTurn_acc, modTile_tile_same, here]; rfl
    case array => rw [endTurn_array, modTile_tile_same, here]; rfl
    case others =>
      rw [endTurn_tile_other _ _ other, modTile_tile_other _ _ other, there u other]
    case dram => rw [endTurn_dram, modTile_dram, dram]
  case zero =>
    obtain ⟨k, served, unit, finished⟩ := serveJob_mzero (s := s) (core := core) (level := level) (rest := rest) started op
    rw [served]
    refine ⟨_, k, rfl, fun e => ?acc, ?queue, unit, finished, ?array, ?planes, fun u other => ?others, ?cores, ?dram⟩
    case acc =>
      rw [endTurn_acc, modTile_tile_same, setJobs_tile_same, modTile_tile_same]
      exact kgetD_zeroRow j _ e
    case queue =>
      rw [endTurn_jobsOf, State.jobsOf, modTile_tile_same]
      exact jobsOf_setJobs_same _ _ _ _
    case array => rw [endTurn_array, modTile_tile_same, setJobs_tile_same, modTile_tile_same]; rfl
    case planes => rw [endTurn_planes, modTile_tile_same, setJobs_tile_same, modTile_tile_same]; rfl
    case others =>
      rw [endTurn_tile_other _ _ other, modTile_tile_other _ _ other, setJobs_tile_other _ _ _ other,
        modTile_tile_other _ _ other]
    case cores => rw [endTurn_cores]; rfl
    case dram => rw [endTurn_dram]; rfl

/-- Settles O36, from what the start of a job, a unit of work and a completion leave. -/
theorem matrixJobsRun : Obligations.MatrixJobsRun := ⟨matrixJobsStart, matrixUnitsActOnTheirStorage, matrixJobsComplete⟩

end Sys2Proof.Machine
end
